-- ==== Sys2Proof/Word.lean ====
section
/-! DEFINITION. The word types of the PM1 and the vector update every unit-indexed part of the
state goes through. Multi-byte fields are little-endian (R6) and unsigned unless stated (R7); the
byte and field helpers that read them stand in `Machine/Bits.lean`, where they can be mended. -/

namespace Sys2Proof

/-- One byte of memory or of a payload. -/
abbrev Byte := BitVec 8

/-- A job context, J0 (primary) or J1 (filler) (R4). -/
inductive Ctx where
  | j0
  | j1
  deriving DecidableEq, Repr

/-- Names of the units a command can name (R4): the index is the number in the unit's name. -/
abbrev Cl := Fin 40
/-- A matrix engine within its cluster, E0 to E15. -/
abbrev En := Fin 16
/-- A hardware thread of a vector engine, T0 to T7. -/
abbrev Th := Fin 8
/-- A fabric port, P0 to P11. -/
abbrev Port := Fin 12
/-- A flat HBM channel index, 32 × stack + channel. -/
abbrev Chan := Fin 256
/-- A last-level memory slice. -/
abbrev Slice := Fin 64
/-- A hub die, HD0 or HD1. -/
abbrev Hub := Fin 2

/-- `v` with its entry `i` replaced by `f` of that entry. -/
def upd {α : Type} {n : Nat} (v : Vector α n) (i : Fin n) (f : α → α) : Vector α n :=
  v.set i.val (f (v.get i)) i.isLt

/-- Two values, one for each job context. -/
structure PerCtx (α : Type) where
  j0 : α
  j1 : α
  deriving DecidableEq, Repr

/-- The value of one context. -/
def PerCtx.get {α : Type} (p : PerCtx α) : Ctx → α
  | .j0 => p.j0
  | .j1 => p.j1

/-- `p` with one context's value replaced. -/
def PerCtx.set {α : Type} (p : PerCtx α) (x : Ctx) (a : α) : PerCtx α :=
  match x with
  | .j0 => { p with j0 := a }
  | .j1 => { p with j1 := a }

/-- The same value in both contexts. -/
def PerCtx.both {α : Type} (a : α) : PerCtx α := ⟨a, a⟩

end Sys2Proof
end

