-- ==== Sys2Proof/Config.lean ====
section
/-! DEFINITION. What an implementation of the PM1 fixes and the values the manual leaves open.
Every `opaque` constant is a FREE VALUE: it has no body, nothing evaluates it, and a statement that
mentions it holds for every value it could have. The log entry named beside each says what it stands for. -/

namespace Sys2Proof.Config

/-- The SFU's functions (R63): each returns the same bits for the same input on every evaluator, and
the manual bounds its error without fixing the bits. Codes as in R189, Fn 0x00 to 0x08. Special
inputs and the exact ranges are fixed by R63 and R64 and never reach this constant. DESIGN CHOICE: log entry 3. -/
opaque sfu (fn : Nat) (x : BitVec 32) : BitVec 32

/-- A byte the manual leaves open (a value one of several unordered writers leaves), drawn with the state's
counter of free values. DESIGN CHOICE: log entry 4. -/
opaque freeByte (n : Nat) : BitVec 8

/-- A 32-bit value the manual leaves open, drawn with the state's counter. DESIGN CHOICE: log entry 4. -/
opaque freeWord (n : Nat) : BitVec 32

/-- An index or address the manual leaves to firmware (the record index and the free range that mem.place
takes, R310 and R312), as a preference among the legal ones. DESIGN CHOICE: log entry 5. -/
opaque freeChoice (n : Nat) (count : Nat) : Nat

/-- A decoded sample of the media front end: plane (0 luma, 1 Cb, 2 Cr) and position of an output frame of a
bitstream. The decoding processes of H.264, HEVC and AV1 are other documents' (R491). DESIGN CHOICE: log entry 6. -/
opaque mediaSample (codec : Nat) (bits : List (BitVec 8)) (frame plane x y : Nat) : Nat

/-- Brostan's manufacturer identity in IDCODE [11:1], given in the boundary-scan description (R643). DESIGN CHOICE: log entry 7. -/
opaque jtagManufacturer : BitVec 11

/-- The factory values a module carries: serial number, firmware build and minor version (R586). DESIGN CHOICE: log entry 8. -/
opaque moduleSerial : BitVec 64
opaque fwBuild : BitVec 16
opaque fwMinor : BitVec 8

/-- The catalogue of programmable event codes cnt.catalog returns (R517, R574), whose contents are the
implementation's. DESIGN CHOICE: log entry 9. -/
opaque eventCatalog : List (BitVec 8)

/-- Whether a firmware image passes the Brostan signature check of flash.image.commit (R577): the signature
scheme is not in the manual. DESIGN CHOICE: log entry 10. -/
opaque imageSigned (image : List (BitVec 8)) : Bool

end Sys2Proof.Config
end

