-- ==== Sys2Proof/Machine/Bits.lean ====
section
/-! DEFINITION. Fields, little-endian bytes (R6), checksums (R647, R347) and the mixing function of
R53. Every layout of the manual is read and written through these. -/

namespace Sys2Proof

/-- Bits `[hi:lo]` of a number. -/
def bits (w hi lo : Nat) : Nat := (w >>> lo) % 2 ^ (hi + 1 - lo)

/-- Bit `i` of a number. -/
def bit (w i : Nat) : Bool := w.testBit i

/-- `v` placed at bit `lo`. -/
def place (v lo : Nat) : Nat := v <<< lo

/-- One for true, zero for false. -/
def b2n (b : Bool) : Nat := if b then 1 else 0

/-- A field of `w` bits read as two's complement. -/
def signed (w v : Nat) : Int :=
  if v % 2 ^ w < 2 ^ (w - 1) then (v % 2 ^ w : Nat) else ((v % 2 ^ w : Nat) : Int) - (2 ^ w : Nat)

/-- `ceil (a / b)`; 0 when `b` is 0. -/
def cdiv (a b : Nat) : Nat := if b = 0 then 0 else (a + b - 1) / b

/-- The little-endian number a list of bytes holds (R6). -/
def ofBytes : List Byte → Nat
  | [] => 0
  | b :: bs => b.toNat + 256 * ofBytes bs

/-- `n` bytes of a number, least significant first (R6). -/
def toBytes : Nat → Nat → List Byte
  | 0, _ => []
  | n + 1, v => BitVec.ofNat 8 v :: toBytes n (v / 256)

/-- `n` bytes of a payload from offset `off`, zero beyond its end. -/
def slice (bs : List Byte) (off n : Nat) : List Byte :=
  let t := (bs.drop off).take n
  t ++ List.replicate (n - t.length) 0

/-- The 64-bit word of a payload at byte offset `off`. -/
def u64At (bs : List Byte) (off : Nat) : Nat := ofBytes (slice bs off 8)

/-- The 32-bit word of a payload at byte offset `off`. -/
def u32At (bs : List Byte) (off : Nat) : Nat := ofBytes (slice bs off 4)

/-- Field `[hi:lo]` of the 64-bit word at byte offset `off`, the form the manual's tables use. -/
def fld (bs : List Byte) (off hi lo : Nat) : Nat := bits (u64At bs off) hi lo

/-- Bits `[hi:lo]` counted from the first byte at `off`, over `n` bytes. -/
def fldN (bs : List Byte) (off n hi lo : Nat) : Nat := bits (ofBytes (slice bs off n)) hi lo

/-- The eight reflected steps of the CRC-32 of R647 for one byte. -/
def crc32Step : Nat → Nat → Nat
  | 0, c => c
  | k + 1, c => crc32Step k (if c % 2 = 1 then (c / 2) ^^^ 0xEDB88320 else c / 2)

/-- The CRC-32 of R647: polynomial 0x04C1_1DB7, start 0xFFFF_FFFF, bytes least significant bit first,
final XOR 0xFFFF_FFFF. -/
def crc32 (bs : List Byte) : Nat :=
  (bs.foldl (fun c b => crc32Step 8 (c ^^^ b.toNat)) 0xFFFFFFFF) ^^^ 0xFFFFFFFF

/-- The mixing function of R53, modulo 2^64. -/
def mix (z : BitVec 64) : BitVec 64 :=
  let z := z ^^^ (z >>> 31)
  let z := z * 0x7FB5D329728EA185#64
  let z := z ^^^ (z >>> 27)
  let z := z * 0x81DADEF4BC2DD44D#64
  z ^^^ (z >>> 33)

/-- The 16-bit random value of an element under stochastic rounding (R53). -/
def srRnd (w0 w1 w2 : BitVec 64) : Nat :=
  (mix (w0 ^^^ mix (w1 ^^^ mix w2))).toNat % 65536

/-- Key word w1 of R53: step number, stage number, job context and stream number. -/
def srW1 (step stage : Nat) (x : Ctx) (stream : Nat) : BitVec 64 :=
  BitVec.ofNat 64 (place (step % 2 ^ 32) 32 + place (stage % 2 ^ 16) 16 +
    place (match x with | .j0 => 0 | .j1 => 1) 15 + stream % 256)

/-- Key word w2 of the matrix-engine domain (R53): tile row, tile column, element index. -/
def srW2Engine (tileRow tileCol elem : Nat) : BitVec 64 :=
  BitVec.ofNat 64 (place (tileRow % 2 ^ 28) 34 + place (tileCol % 2 ^ 24) 10 + elem % 1024)

/-- Key word w2 of the VE domain (R53). -/
def srW2Ve (idx : Nat) : BitVec 64 := BitVec.ofNat 64 (2 ^ 62 + idx % 2 ^ 62)

/-- Key word w2 of the Ox domain (R53). -/
def srW2Ox (idx : Nat) : BitVec 64 := BitVec.ofNat 64 (2 ^ 63 + idx % 2 ^ 62)

end Sys2Proof
end

