-- ==== Sys2Proof/Machine/SysTypes.lean ====
section
/-! DEFINITION. The state types of the parts every unit reports to: counters, freeze, watches, events,
fault records, the Mule mailbox, the BAR0 registers, the power stage and the pins (chapters 14 and 16 to 19). -/

namespace Sys2Proof.Machine

/-- What the environment does to a unit's checked structures during one step (chapters 03, 06, 08, 14):
nothing, a corrected error, an uncorrectable error, or a failed check of `structure` (code of R484) over
the row mask `rows`, whose error flips the result bits `flip`. -/
inductive Upset where
  | none
  | ce
  | ue
  | check (struct : Nat) (rows : BitVec 16) (flip : BitVec 32)
  deriving DecidableEq, Repr

/-- A job context, or the device as a whole: the Ctx field of R539 and R545. -/
abbrev CtxNo := Option Ctx

/-- The name of one counter: code of R517, unit, engine within the cluster, context. -/
structure CntKey where
  code : Nat
  unit : Nat := 0
  sub : Nat := 0
  ctx : CtxNo := none
  deriving DecidableEq, Repr

/-- Programmable counter (R520, R521). -/
structure ProgCnt where
  code : Nat := 0
  unit : Nat := 0
  sub : Nat := 0
  ctxMask : Nat := 0
  mode : Nat := 0
  threshold : Nat := 0
  value : BitVec 64 := 0
  /-- Increment counted in the beat of the device now running, for mode 0b01. -/
  beatInc : Nat := 0
  /-- Mode 0b10 has triggered its freeze. -/
  fired : Bool := false
  /-- cnt.config has written this counter's select since reset. -/
  used : Bool := false
  deriving DecidableEq, Repr

/-- A latched snapshot of the always-on counters (R524, R529). -/
structure Snapshot where
  freezeId : Nat := 0
  origin : Nat := 0
  cause : Nat := 0
  frozen : Bool := false
  latchTs : Nat := 0
  beatJ0 : Nat := 0
  beatJ1 : Nat := 0
  counters : List (CntKey × BitVec 64) := []
  deriving DecidableEq, Repr

/-- One entry of an event log (R537). -/
structure LogEntry where
  ts : Nat
  srcDev : Nat := 0
  dstDev : Nat := 0
  cls : Nat := 0
  port : Nat := 0
  kind : Nat := 0
  flowEpoch : Nat := 0
  seqNum : Nat := 0
  deriving DecidableEq, Repr

/-- A tensor watch (R530) with its ring state and what it has seen of the running beat. -/
structure Watch where
  ctx : Ctx
  stats : Bool
  digest : Bool
  fmt : Nat
  cluster : Nat
  descIdx : Nat
  every : Nat
  allDesc : Bool
  base : Nat
  len : Nat
  ringAddr : Nat
  ringEntries : Nat
  /-- Records written and not released. -/
  held : Nat := 0
  /-- Next record index. -/
  next : Nat := 0
  /-- Committed beats since the last record. -/
  since : Nat := 0
  /-- Bytes written in the watched range during the beat: cluster-store offset and final contents. -/
  seen : List Host.Cell := []
  deriving DecidableEq, Repr

/-- Counters, freeze, logs and watches (chapter 16). -/
structure Obs where
  counters : List (CntKey × BitVec 64) := []
  pcs : Vector ProgCnt 1024 := Vector.replicate 1024 {}
  frozen : Bool := false
  snap : Option Snapshot := none
  freezeOn : Nat := 0
  scope : Nat := 0
  logShift : Nat := 10
  /-- Sequence number of the last freeze this device originated (R525). -/
  freezeSeq : Nat := 0
  /-- (Origin, FreezeId) pairs seen (R526). -/
  freezeSeen : List (Nat × Nat) := []
  logs : Vector (List LogEntry) 2 := Vector.replicate 2 []
  watches : Vector (Option Watch) 64 := Vector.replicate 64 none
  deriving DecidableEq, Repr

/-- A fault record: the fields of R480 to R484 that vary. -/
structure FaultRec where
  recordId : Nat := 0
  severity : Nat
  eventCode : Nat
  unitClass : Nat
  action : Nat := 0
  strikes : Nat := 0
  flags : Nat := 0
  devNum : Nat := 0
  origDevNum : Nat := 0
  unitIndex : Nat := 0
  subIndex : Nat := 0
  jobId : Nat := 0
  beatNum : Nat := 0
  stepNum : Nat := 0
  treeGen : Nat := 0
  ts : Nat := 0
  /-- Host time (fault.time.set), when it has been set. -/
  hostTime : Option Nat := none
  count : Nat := 1
  digestOrig : Nat := 0
  digestReplay : Nat := 0
  digestRef : Nat := 0
  buddyDev : Nat := 0
  detail : List Byte := []
  deriving DecidableEq, Repr

/-- A slot of the persistent part of the fault log (R487). -/
inductive PSlot where
  | record (seq : Nat) (r : FaultRec)
  | clear (seq : Nat) (cleared : Nat)
  | marker (seq : Nat)
  deriving DecidableEq, Repr

/-- The fault log and the queues of fault records (R485 to R489, R642). -/
structure FaultLog where
  /-- Last RecordID given; never reused on the module (R486). -/
  lastSeq : Nat := 0
  /-- Slots of the ring, index 0 to 16,383, none where erased. -/
  ring : List (Nat × FaultRec) := []
  ringNext : Nat := 0
  sector0 : List PSlot := [.marker 0]
  sector1 : List PSlot := []
  active : Nat := 0
  /-- Mule's queue of records awaiting the energy check, at most 256 (R489). -/
  waiting : List FaultRec := []
  /-- The host's queue, read by fault.cper.read with source 0. -/
  host : List FaultRec := []
  /-- The management port's collector queue, at most 64 (R642). -/
  collector : List FaultRec := []
  /-- Second of the timestamp in which records were last issued, and how many were (LogRate, R485). -/
  rateSecond : Nat := 0
  rateCount : Nat := 0
  /-- Events held for a summary record: unit class, unit, sub-unit, event code, count. -/
  pendingSummary : List (Nat × Nat × Nat × Nat × Nat) := []
  /-- Host time set by fault.time.set, and the timestamp at which it was set. -/
  hostTime : Option (Nat × Nat) := none
  /-- Timestamp of the last summary of corrected events. -/
  summaryAt : Nat := 0
  deriving DecidableEq, Repr

/-- A command queue of the mailbox, Q1 to Q15, and Q0 in part (R538 to R544, R608 to R612). -/
structure MQueue where
  cmdBase : BitVec 64 := 0
  rspBase : BitVec 64 := 0
  enable : Bool := false
  sizeLog2 : Nat := 0
  fetchIdx : Nat := 0
  rspIdx : Nat := 0
  phase : Bool := true
  /-- Index last written to the command doorbell. -/
  cmdDbl : Nat := 0
  /-- Index last written to the completion doorbell. -/
  cplDbl : Nat := 0
  /-- Commands fetched less responses reported read (R543), and responses written and not reported read. -/
  outstanding : Nat := 0
  rspUnread : Nat := 0
  isOpen : Bool := false
  version : Nat := 0
  features : Nat := 0
  priority : Bool := false
  coalesceNs : Nat := 0
  /-- mbx.close has been started: the queue opens no command until it completes. -/
  closing : Bool := false
  /-- Ring indices of unstarted commands that mbx.cancel has named (R558). -/
  cancelled : List Nat := []
  /-- Timestamp of the last MSI-X message on this queue's vector, and whether a message is due. -/
  lastMsi : Option Nat := none
  msiDue : Bool := false
  persistMs : Nat := 100
  /-- Since when the queue has been held or refused continuously (R557), and whether that was reported. -/
  heldSince : Option Nat := none
  /-- Last time it was held or refused. -/
  heldLast : Option Nat := none
  overloaded : Bool := false
  deriving DecidableEq, Repr

/-- The event ring (R545, R546, R608). -/
structure EvtRing where
  base : BitVec 64 := 0
  enable : Bool := false
  sizeLog2 : Nat := 0
  writeIdx : Nat := 0
  /-- Entries written and not reported read by the event doorbell. -/
  unread : Nat := 0
  phase : Bool := true
  /-- Seq of the newest event (R546); 0 before the first. -/
  seq : BitVec 32 := 0
  /-- Events lost and not yet reported: Seq of the first, and their count. -/
  lostFirst : Nat := 0
  lostCount : Nat := 0
  deriving DecidableEq, Repr

/-- One mailbox command as Mule starts it: the entry of R539 with its payload fetched. The two flags say
that a PCIe error met the payload read or the output write (R540). -/
structure MCmd where
  q : Fin 16
  tag : BitVec 16 := 0
  ctx : BitVec 2 := 2
  barrier : Bool := false
  payload : List Byte := []
  outLen : Nat := 0
  outAddr : Nat := 0
  payloadErr : Bool := false
  outErr : Bool := false
  /-- What other devices answer Mule while the command runs, in MULE messages whose layout the manual does not
  give: latencies, a lender's address, acknowledgements. -/
  answers : List Nat := []
  /-- Bytes another device returns to the command. -/
  answerBytes : List Byte := []
  deriving DecidableEq, Repr

/-- A started command that has not completed (R554). `sess` is false once its queue closed, so that its
response is discarded (R560, R610). -/
structure Started where
  code : Nat
  cmd : MCmd
  at_ : Nat
  slow : Bool := false
  sess : Bool := true
  /-- What identifies the activity it waits for: a handle, a context, a stream, a bank. -/
  key : Nat := 0
  /-- Results the response will carry, and its output bytes. -/
  result0 : Nat := 0
  result1 : Nat := 0
  deriving DecidableEq, Repr

/-- The mailbox (chapter 17). -/
structure Mbx where
  queues : Vector MQueue 16 := Vector.replicate 16 {}
  evt : EvtRing := {}
  started : List Started := []
  /-- Arbitration: last queue served in each priority, and turns taken modulo 4 (R553). -/
  lastHi : Nat := 0
  lastLo : Nat := 0
  turns : Nat := 0
  /-- MSI-X messages sent per vector (R544). -/
  msix : Vector Nat 16 := Vector.replicate 16 0
  /-- Bytes the device has written to host memory: rings, outputs (R6). -/
  hostMem : List Host.Cell := []
  /-- Q0: the command in progress, the unread response, the output buffer (R640, R641). -/
  q0Busy : Bool := false
  q0Resp : Option (List Byte) := none
  q0Out : List Byte := []
  deriving DecidableEq, Repr

/-- The software-visible registers of BAR0 that hold a value of their own (chapter 18). -/
structure Regs where
  scratch : BitVec 32 := 0
  aperture : Vector (BitVec 12) 8 := #v[0, 1, 2, 3, 4, 5, 0xC00, 0xFFF]
  evtStatus : BitVec 32 := 0
  evtSummary : BitVec 32 := 0
  evtIntEnable : Bool := false
  evtLost : BitVec 32 := 0
  flashUnlock : Bool := false
  grdOffset : Nat := 0
  grdCause : Nat := 0
  grdRequester : Bool := false
  /-- Armed guarded register of the host and of Mule: offset, value, time of the arming (R594, R595). -/
  armedHost : Option (Nat × BitVec 32 × Nat) := none
  armedMule : Option (Nat × BitVec 32 × Nat) := none
  wideSelLo : BitVec 32 := 0
  wideSelHi : BitVec 32 := 0
  /-- The selection a fetch in progress will latch: WIDE_SEL_LO and WIDE_SEL_HI as its write found them (R605). -/
  wideFetch : Option (BitVec 32 × BitVec 32) := none
  wideValid : Bool := false
  wideError : Bool := false
  wideTag : Nat := 0
  wideData : Vector (BitVec 64) 4 := Vector.replicate 4 0
  accOffset : Nat := 0
  accBar4 : Bool := false
  accCause : Nat := 0
  accCount : Nat := 0
  parityOffset : Nat := 0
  /-- MSI-X table, 16 entries of four words, and the pending bits (R585). -/
  msixTable : Vector (BitVec 32) 64 := Vector.replicate 64 0
  msixPba : BitVec 32 := 0
  /-- AER: Completer Abort status bit, and ERR_NONFATAL messages sent (R581). -/
  aerCa : Bool := false
  errNonfatal : Nat := 0
  /-- The last completion given to the host: data, or Completer Abort (R581, R584). -/
  lastRead : Option (List Byte) := none
  lastAbort : Bool := false
  /-- The EP bit of that completion (R282). -/
  lastEp : Bool := false
  deriving DecidableEq, Repr

/-- SYS_SERVICE.State (R586). -/
inductive Service where
  | off
  | foal
  | full
  | fatal
  deriving DecidableEq, Repr

/-- What the module is powered from (R615, R624, R625). -/
inductive PowerState where
  /-- 48 V absent, or removed. -/
  | unpowered
  | on
  /-- Orderly off (R593), or a power-stage fault: only the island runs. -/
  | island
  /-- The island stopped. -/
  | dead
  deriving DecidableEq, Repr

/-- The power stage, its manager and the sensors (chapter 19). -/
structure Power where
  state : PowerState := .on
  cap : Nat := 1250
  thermalLimit : Nat := 1250
  /-- Power-stage fault taken, with the time (R624). -/
  stageFault : Bool := false
  thermalTrip : Bool := false
  /-- Bank voltage in mV and usable energy in mJ (R621). -/
  bankMv : Nat := 28000
  bankMj : Nat := 0
  volts : Nat := 0
  amps : Nat := 0
  watts : Nat := 0
  loadW : Nat := 0
  dieTemp : Vector Nat 4 := Vector.replicate 4 0
  stageTemp : Nat := 0
  hbmTemp : Vector Nat 8 := Vector.replicate 8 0
  energyMj : Nat := 0
  transients : Nat := 0
  /-- R619: consecutive 10 µs intervals above CapInForce, and whether rule 3 holds the load down. -/
  overRun : Nat := 0
  recharging : Bool := false
  /-- Issue cycles are being withheld, and the cluster that took the last remainder (R620). -/
  throttling : Bool := false
  lastRemainder : Nat := 39
  /-- A flash operation is in progress (R622). -/
  flashBusy : Bool := false
  /-- The flash operation in progress writes the identity record; otherwise it is that of the first flash command started. -/
  flashIdent : Bool := false
  /-- The bank voltage has been measured since reset. -/
  holdupSampled : Bool := false
  deriving DecidableEq, Repr

/-- The sideband pins, straps and JTAG port (R630 to R643). Open-drain outputs hold true when driven low. -/
structure Pins where
  faultLow : Bool := false
  thermTripLow : Bool := false
  beatSrc : Bool := false
  mgmtAddr : Nat := 0
  /-- PERST# is asserted; the time it was deasserted (R645). -/
  perst : Bool := true
  perstAt : Option Nat := none
  /-- Time of the last BEAT_OUT rise (R636). -/
  beatOut : Option Nat := none
  /-- I3C dynamic address, when one is assigned (R639). -/
  dynAddr : Option Nat := none
  /-- JTAG instruction in force and its data register (R643). -/
  jtag : Nat := 0
  jtagData : BitVec 32 := 0
  /-- The last management-port transaction: acknowledged, and the bytes returned. -/
  mgmtAck : Bool := false
  mgmtData : List Byte := []
  deriving DecidableEq, Repr

/-- Identity, capability and firmware state held in flash and fuses (R437, R481, R577, R586). -/
structure Ident where
  pm1b : Bool := false
  devNum : Nat := 1
  origDevNum : Nat := 1
  logCoord : Nat := 0
  physCoord : Nat := 0
  spare : Bool := false
  assumed : Bool := false
  spareAxis : Nat := 0
  assumeStep : Nat := 0
  jobId : Nat := 0
  /-- The identity record in flash differs from the fields above until its write ends (R438, R588). -/
  flashPending : Bool := false
  /-- What flash still holds of the fields id.assume has changed: DevNum, LogCoord, Assumed, AssumeStep, JobId (R438). -/
  inFlash : Option (Nat × Nat × Bool × Nat × Nat) := none
  /-- Spare and SpareAxis of an accepted ID_ROLE write, read once the record is in flash (R588). -/
  roleNext : Option (Bool × Nat) := none
  fwSlot : Bool := false
  /-- Slot committed by flash.image.commit for the next module reset. -/
  nextSlot : Bool := false
  /-- The two firmware slots and the rest of flash: bytes that differ from 0xFF. -/
  flash : List Host.Cell := []
  /-- Fence fuses burned (R597): unit class, unit, sub-unit. -/
  fuses : List (Nat × Nat × Nat) := []
  deriving DecidableEq, Repr

/-- The module's phase of service and Mule (R561, R589, R590). -/
structure Sys where
  service : Service := .off
  /-- Mule runs (the 20 ms point). -/
  muleUp : Bool := false
  hbmTrained : Bool := false
  fabricReady : Bool := false
  /-- Timestamp of the last module reset or power good, the origin of R561's offsets. -/
  resetAt : Nat := 0
  /-- A device-fatal fault has been taken (R470). -/
  fatal : Bool := false
  deriving DecidableEq, Repr

end Sys2Proof.Machine
end

