-- ==== Sys2Proof/Machine/ClusterTypes.lean ====
section
/-! DEFINITION. The state types of one cluster: matrix engines, sequencer and stage, vector engine, cluster
cache and transfers (chapters 03 to 08). -/

namespace Sys2Proof.Machine

/-- A load record (R67). -/
structure LoadRec where
  fmt : Nat
  kBlocks : Nat
  tr : Bool
  deriving DecidableEq, Repr

/-- A buffer half (R67): the element codes in the orientation of the load (lines of codes), the scale bytes,
and which of the positions hold loaded rather than zero-filled elements (R73). -/
structure Half where
  record : Option LoadRec := none
  elems : List (List Nat) := []
  scales : List (List Nat) := []
  lines : Nat := 0
  kValid : Nat := 0
  deriving DecidableEq, Repr

/-- An accumulator with its Suspect flag and its output-tile coordinates (R67), all of them zero after
module reset (R79). Element (i, n) is at index 64 × i + n. -/
structure Acc where
  vals : Vector (BitVec 32) 1024 := Vector.replicate 1024 0
  suspect : Bool := false
  row : Nat := 0
  col : Nat := 0
  deriving DecidableEq, Repr

/-- An instruction the sequencer has placed in an engine's queue: its word (R69), the command and tile group it
belongs to, the accumulator's tile in the group, and the number of the merged load it is a copy of, 0 for none. -/
structure QEntry where
  word : BitVec 128
  ctx : Ctx
  desc : Fin 64
  group : Nat
  tile : Nat := 0
  mc : Nat := 0
  /-- A fused nest's TST: its slot is chosen when it executes (R125). -/
  fused : Bool := false
  /-- The work item whose local replay the entry belongs to. -/
  replay : Option Nat := none
  deriving DecidableEq, Repr

/-- A TSYNC that has completed and whose token is on its way (R85). -/
structure Token where
  ctx : Ctx
  desc : Fin 64
  group : Nat
  value : Nat
  replay : Option Nat := none
  deriving DecidableEq, Repr

/-- A matrix engine (R67): halves A0, A1, B0, B1, four accumulators, its queue and its report state. -/
structure Engine where
  halfA : Vector Half 2 := Vector.replicate 2 {}
  halfB : Vector Half 2 := Vector.replicate 2 {}
  acc : Vector Acc 4 := Vector.replicate 4 {}
  queue : List QEntry := []
  tokens : List Token := []
  /-- Stopped under R88 with the opcode, queue position and failing condition (R87) it reported. -/
  stopped : Option (Nat × Nat × Nat) := none
  fenced : Bool := false
  /-- Last loads placed in the queue per half, without EngMask, for R117: A0, A1, B0, B1. -/
  issued : Vector (Option (BitVec 128)) 4 := Vector.replicate 4 none
  /-- Last loads executed per half, in the same order. -/
  loaded : Vector (Option (BitVec 128)) 4 := Vector.replicate 4 none
  /-- Half the next new A or B load goes to. -/
  nextA : Bool := false
  nextB : Bool := false
  deriving DecidableEq, Repr

/-- An output tile of a matrix nest (R105 to R107). -/
structure Tile where
  row : Nat
  col : Nat
  validRows : Nat
  validCols : Nat
  /-- Loop indices by level record. -/
  idx : List Nat
  outAddr : Nat
  outScale : Nat
  auxAddr : Nat := 0
  auxScale : Nat := 0
  deriving DecidableEq, Repr

/-- A tile group of a running command (R114, R119). -/
structure Group where
  ord : Nat
  tiles : List Tile
  owner : Nat
  started : Bool := false
  done : Bool := false
  stolen : Bool := false
  /-- Contains a group excluded from the residue check (R446). -/
  unchecked : Bool := false
  /-- Bytes its stores wrote, for its digest (R456). -/
  out : List Host.Cell := []
  /-- Fused nests: the slot each tile was stored in, by tile (R125). -/
  slots : List (Nat × Nat) := []
  deriving DecidableEq, Repr

/-- A hand-over slot of a fused nest (R125): free, holding a stored tile, or in the VE or the codec. -/
inductive SlotSt where
  | free
  | stored (group tile : Nat)
  | ve (group tile : Nat)
  | codec (group tile : Nat)
  deriving DecidableEq, Repr

/-- One request of a transfer (R246): its tile, addresses and bytes, and its progress. -/
structure XReq where
  tile : Nat
  ext : Nat
  store : Nat
  len : Nat
  /-- 0 not issued, 1 in flight, 2 returned. -/
  st : Nat := 0
  /-- Where the request goes once it has been translated (R205). -/
  phys : Nat := 0
  data : List Byte := []
  deriving DecidableEq, Repr

/-- A transfer nest in progress (R239 to R254, R267). -/
structure Xfer where
  desc : Fin 64
  tiles : List (List Nat × Nat × Nat × Nat)
  reqs : List XReq
  /-- Tiles delivered so far. -/
  delivered : Nat := 0
  armed : Bool := false
  /-- Fault held: cause of R268 and address. -/
  held : Option (Nat × Nat) := none
  /-- The tile that met it (R267). -/
  faultTile : Nat := 0
  /-- An outbound transfer's destinations are pinned (R247). -/
  pinned : Bool := false
  /-- Indices of the objects it pins. -/
  objs : List Nat := []
  beat : Nat := 0
  deriving DecidableEq, Repr

/-- An attention command in progress: row-blocks and key blocks left to step (R220, R226). -/
structure Att where
  /-- Loop indices of each step, and whether it is the first and the last of its row-block. -/
  steps : List (List Nat × Bool × Bool)
  /-- Steps done. -/
  total : Nat := 0
  held : Option (Nat × Nat) := none
  deriving DecidableEq, Repr

/-- Where a command of a beat stands (R128, R129). -/
inductive CmdSt where
  | running
  | done
  | failed (status : Nat)
  deriving DecidableEq, Repr

/-- A command that a RUN entry started (R133). -/
structure Cmd where
  desc : Fin 64
  ctx : Ctx
  /-- Snapshot of the bound registers (R109) as the actual extents of the level records. -/
  extents : List Nat
  groups : List Group := []
  slots : List SlotSt := []
  /-- Slots in the order their stores completed (R125). -/
  order : List Nat := []
  xfer : Option Xfer := none
  att : Option Att := none
  /-- VE launches requested and not ended. -/
  launches : Nat := 0
  launched : Nat := 0
  st : CmdSt := .running
  /-- The command ended under R110: it issued nothing. -/
  empty : Bool := false
  /-- SOFTMAX_UNRESOLVED has been raised for it (R193, R221). -/
  unresolved : Bool := false
  /-- What its failure reports: for SHAPE_OVER the level record, bound register, extent and PlanBound (R111). -/
  report : List Nat := []
  deriving DecidableEq, Repr

/-- What a VE launch was requested for (R169). -/
structure Launch where
  ctx : Ctx
  desc : Fin 64
  entry : Nat
  scalars : List (BitVec 64)
  /-- Ordinal of the launch within its command, and the slot or tile it serves. -/
  ord : Nat
  slot : Nat := 0
  group : Nat := 0
  tile : Nat := 0
  deriving DecidableEq, Repr

/-- A VE hardware thread (R167). -/
structure Thread where
  active : Bool := false
  launch : Option Launch := none
  pc : Nat := 0
  v : Vector (Vector (BitVec 32) 128) 32 := Vector.replicate 32 (Vector.replicate 128 0)
  s : Vector (BitVec 64) 16 := Vector.replicate 16 0
  m : Vector (BitVec 128) 4 := #v[BitVec.allOnes 128, 0, 0, 0]
  range : BitVec 128 := 0
  /-- Cache lines and remote requests the thread waits for (R173); data returned for its load. -/
  waitLines : List Nat := []
  waitRemote : Nat := 0
  remoteData : List Host.Cell := []
  /-- Lanes whose SFU results are outstanding (R190). -/
  sfuLeft : List Nat := []
  suspect : Bool := false
  /-- Bytes the launch's stores wrote: cluster-store offsets, and device-local addresses above 2^62 (R533). -/
  out : List Host.Cell := []
  /-- Lines that have arrived for the load the thread waits on. -/
  got : List Nat := []
  /-- The work item whose local replay the thread runs. -/
  replay : Option Nat := none
  deriving DecidableEq, Repr

/-- A queued SFU request of one lane (R190). -/
structure SfuReq where
  thread : Th
  lane : Nat
  fn : Nat
  arg : BitVec 32
  vd : Nat
  deriving DecidableEq, Repr

/-- A line of the cluster cache: its number, and the prefetch source that has not been used, 0 none, 1 stride,
2 hint (R257, R266). -/
structure CLine where
  line : Nat
  pf : Nat := 0
  deriving DecidableEq, Repr

/-- A cache line in flight: who asked, and the threads joined to it (R260, R262). -/
structure CReq where
  line : Nat
  src : Nat := 0
  late : Bool := false
  waiters : List Nat := []
  deriving DecidableEq, Repr

/-- A stream of the stride predictor (R263). -/
structure PfStream where
  thread : Nat
  pc : Nat
  last : Nat
  stride : Int := 0
  count : Nat := 0
  deriving DecidableEq, Repr

/-- A held remote store: target address, bytes, and whether it is an add (R450, R451). -/
structure RWrite where
  addr : Nat
  data : List Byte
  thread : Nat := 0
  deriving DecidableEq, Repr

/-- State of an input slot (R150). -/
inductive InSt where
  | free
  | filling
  | ready (mb : Nat) (isEmpty : Bool)
  | active
  deriving DecidableEq, Repr

/-- State of an output slot (R150): a packet that is sent or held is named by its beat and its micro-batch index, and
`acked` lists the consumers that have acknowledged it. -/
inductive OutSt where
  | free
  | writing
  | sending (beat mb : Nat) (acked : List Nat)
  | held (beat mb : Nat)
  deriving DecidableEq, Repr

/-- An input of a stage record (R131, R570) with its slots and sequence. -/
structure StageIn where
  used : Bool := false
  slotBytes : Nat := 0
  slotBase : Nat := 0
  prodDev : Nat := 0
  prodCluster : Nat := 0
  slots : Vector InSt 3 := Vector.replicate 3 .free
  /-- Next MbIdx the stage consumes, and next that may land. -/
  nextMb : Nat := 0
  nextLand : Nat := 0
  /-- MbIdx values an overrun notice has named and that have not been consumed. -/
  overrun : List Nat := []
  /-- A hand-over that failed its checks (R149): the beat that would consume it fails. -/
  bad : Bool := false
  deriving DecidableEq, Repr

/-- A consumer of an output (R570). -/
structure Consumer where
  dev : Nat
  cluster : Nat
  input : Nat
  deriving DecidableEq, Repr

/-- An output of a stage record with its slots and credits (R131, R151). -/
structure StageOut where
  used : Bool := false
  slotBytes : Nat := 0
  slotBase : Nat := 0
  consumers : List Consumer := []
  credits : List Nat := []
  slots : Vector OutSt 2 := Vector.replicate 2 .free
  nextMb : Nat := 0
  deriving DecidableEq, Repr

/-- The beat a stage is running (R152 to R155). -/
structure BeatRun where
  beat : Nat
  entry : Nat
  inSel : Option (Nat × Nat) := none
  outSel : Option (Nat × Nat) := none
  prog : Nat := 0
  pc : Nat := 0
  cmds : List Cmd := []
  ended : Bool := false
  emptyIn : Bool := false
  startedAt : Nat := 0
  failed : Option Nat := none
  overran : Bool := false
  /-- Opaque tag of the step the beat belongs to. -/
  step : Nat := 0
  deriving DecidableEq, Repr

/-- Why a stage is idle (R159). -/
inductive Idle where
  | waitInput
  | waitInputOverrun
  | blockedOutput
  | slack
  | overrunDefer
  | j1Preempt
  | stepWait
  | throttle
  deriving DecidableEq, Repr

/-- A stage (R131) with the state it runs with. -/
structure Stage where
  number : Nat
  storeBase : Nat
  storeSize : Nat
  ins : Vector StageIn 2
  outs : Vector StageOut 2
  inWin : Nat
  outWin : Nat
  programs : Vector (List (BitVec 64)) 4
  schedule : List (BitVec 16)
  planTime : Nat
  pos : Nat := 0
  run : Option BeatRun := none
  idle : Idle := .stepWait
  /-- Committed outbound transfers that still write (R247, R248). -/
  outbound : List Xfer := []
  /-- The last committed beat. -/
  committed : Option Nat := none
  overruns : Nat := 0
  /-- Last beat for which the stage raised BEAT_OVERRUN. -/
  overranBeat : Option Nat := none
  deriving DecidableEq, Repr

/-- One context's part of a cluster's sequencer (R95, R108, R168). -/
structure SeqCtx where
  descs : Vector (List Byte) 64 := Vector.replicate 64 []
  imem : List (Nat × BitVec 64) := []
  bnd : Vector (BitVec 24) 32 := Vector.replicate 32 0
  stage : Option Stage := none
  remoteWrites : List RWrite := []
  /-- Words of the store that raised CS_UE in the running beat (R238). -/
  ueRaised : List Nat := []
  deriving DecidableEq, Repr

/-- A cluster. -/
structure Cluster where
  absent : Bool := false
  fenced : Bool := false
  engines : Vector Engine 16 := Vector.replicate 16 {}
  threads : Vector Thread 8 := Vector.replicate 8 {}
  launchQ : List Launch := []
  sfuQ : List SfuReq := []
  /-- Evaluators busy in the next grant cycle, and the last lane granted (R190). -/
  sfuBusy : Nat := 0
  sfuLast : Nat := 127
  store : List Host.Cell := []
  cache : List CLine := []
  inFlight : List CReq := []
  pf : List PfStream := []
  seq : PerCtx SeqCtx := ⟨{}, {}⟩
  /-- Number of merged loads issued, to name the next. -/
  mcNext : Nat := 1
  /-- Time of the second CS_UE window: times of CS_UE (R463). -/
  csUe : List Nat := []
  deriving DecidableEq, Repr

end Sys2Proof.Machine
end

