-- ==== Sys2Proof/Machine/MemTypes.lean ====
section
/-! DEFINITION. The state types of device-local memory and its owners: HBM channels, the last-level memory, the
object table, moves, key/value translation, codecs and checkpoints (chapters 07, 09, 10 and 13). -/

namespace Sys2Proof.Machine

/-- What an Ox unit records for one context (R429): StepNum of its last run, next unwritten granule, and whether
that run is incomplete. -/
structure OxRec where
  step : Nat := 0
  next : Nat := 0
  incomplete : Bool := false
  deriving DecidableEq, Repr

/-- An HBM channel (R271 to R291). Codewords are numbered by channel offset ÷ 32. -/
structure HbmChan where
  absent : Bool := false
  fenced : Bool := false
  /-- In the half's interleave list since the last module reset (R273). -/
  listed : Bool := true
  poison : List Nat := []
  suspect : List Nat := []
  /-- Next patrol-scrub granule (R288), and when the last one completed. -/
  scrubPos : Nat := 0
  scrubLast : Nat := 0
  /-- Time of the last foreground request (R289). -/
  fgLast : Nat := 0
  /-- Times of HBM_IF_FAIL; rows that had uncorrectable codewords, with times; granules with them in this pass. -/
  ifFails : List Nat := []
  ueRows : List (Nat × Nat) := []
  scrubUe : List Nat := []
  /-- HBM_CE counted in the hour that began at `ceStart`, and whether HBM_CE_STORM was raised in it. -/
  ceStart : Nat := 0
  ceCount : Nat := 0
  ceStorm : Bool := false
  privileged : Bool := false
  ox : PerCtx OxRec := ⟨{}, {}⟩
  oxFenced : Bool := false
  deriving DecidableEq, Repr

/-- A context setting of an eighth (R300). -/
inductive EighthCtx where
  | j0
  | j1
  | both
  deriving DecidableEq, Repr

/-- A line held by a cache slice: device-local granule number, eighth it lies in, dirty, and poisoned (R282). -/
structure LlmLine where
  gran : Nat
  eighth : Nat
  dirty : Bool := false
  poison : Bool := false
  deriving DecidableEq, Repr

/-- The last-level memory (R299 to R307). Each slice's lines are kept most recently used first. -/
structure Llm where
  es : Nat := 0
  eighths : Vector EighthCtx 8 := Vector.replicate 8 .both
  slices : Vector (List LlmLine) 64 := Vector.replicate 64 []
  /-- Scratchpad 64-bit words marked poisoned, by device-local address ÷ 8. -/
  poison : List Nat := []
  deriving DecidableEq, Repr

/-- State of a page's map entry (R316). -/
inductive PageSt where
  | free
  | owned
  | moving
  | absent
  deriving DecidableEq, Repr

/-- A party (R315): device number and context code of R316. -/
structure Party where
  dev : Nat
  ctx : Nat
  deriving DecidableEq, Repr

/-- Map entries of consecutive pages with one content (R316): base address and length in bytes. A page no range
covers is Free. -/
structure MapRange where
  base : Nat
  size : Nat
  owner : Party
  st : PageSt
  deriving DecidableEq, Repr

/-- An object record (R310). -/
structure Obj where
  index : Nat
  gen : Nat
  owner : Nat
  tier : Nat
  comp : Bool := false
  f2 : Bool := false
  damaged : Bool := false
  alloc : Nat := 0
  moving : Bool := false
  /-- Pins held: outbound transfers, collectives, checkpoint saves (R247, R409, R435). -/
  pins : Nat := 0
  elemW : Nat := 0
  size : Nat
  home : Nat
  anchor : Option Nat := none
  tagAddr : Nat := 0
  compBytes : Nat := 0
  moveBeat : Nat := 0
  deriving DecidableEq, Repr

/-- A slot in an exact-codec queue (R336): the object, the slot, its bytes, unencoded or stored, its tag, its element
width, and the hub die whose codec takes it. -/
structure CodecJob where
  handle : Nat
  slot : Nat
  bytes : List Byte
  tag : Nat := 0
  elemW : Nat := 0
  hub : Nat := 0
  deriving DecidableEq, Repr

/-- A move accepted and not completed (R318 to R324). -/
structure Move where
  handle : Nat
  dstTier : Nat
  dstAddr : Nat
  lender : Nat := 0
  keepAnchor : Bool := false
  newOwner : Option Nat := none
  comp : Bool := false
  ownerOnly : Bool := false
  /-- A recall by Mule, with no command to answer (R323). -/
  recalled : Bool := false
  started : Bool := false
  /-- The exact codec's part (R319, R336): the source's slots have been given to it, those no queue has taken yet, and those
  that have come out. -/
  fed : Bool := false
  jobs : List CodecJob := []
  out : List CodecJob := []
  deriving DecidableEq, Repr

/-- An object in F2-compatibility mode (R325 to R329). -/
structure F2Obj where
  handle : Nat
  pool : Nat
  work : Nat
  size : Nat
  /-- The lease has been granted and the copy has arrived. -/
  leased : Bool := false
  copied : Nat := 0
  dirty : List Nat := []
  /-- Frames of the flush in progress that the pool has not acknowledged. -/
  unacked : List Nat := []
  flushing : Bool := false
  closing : Bool := false
  owner : Nat := 0
  deriving DecidableEq, Repr

/-- A placed range of this device's lending pool (R313). -/
structure PoolRange where
  base : Nat
  size : Nat
  owner : Party
  deriving DecidableEq, Repr

/-- A host access through BAR2 that is held on a Moving page (R321). -/
structure HeldBar2 where
  addr : Nat
  len : Nat
  /-- Bytes of a write; none for a read. -/
  data : Option (List Byte)
  since : Nat
  deriving DecidableEq, Repr

/-- A look-aside entry of a walker (R207). -/
structure LabEntry where
  ctx : Ctx
  seq : Nat
  vpn : Nat
  frame : Nat
  dev : Nat
  far : Bool
  w : Bool
  deriving DecidableEq, Repr

/-- A sequence record (R204). -/
structure SeqRec where
  ctx : Ctx
  pgShift : Nat
  root : Nat
  limit : Nat
  deriving DecidableEq, Repr

/-- A key/value fault a walker holds (R210, R211). -/
structure KvHeld where
  ctx : Ctx
  seq : Nat
  va : Nat
  cluster : Nat
  desc : Nat
  deriving DecidableEq, Repr

/-- A key/value ring (R229 to R234). -/
structure KvRing where
  id : Nat
  seq : Nat
  axis : Nat
  minus : Bool
  n : Nat
  releaseCount : Nat
  shardBytes : Nat
  buf : Nat × Nat
  ranges : List ((Nat × Nat) × (Nat × Nat))
  /-- Step of the pass, and which buffer holds the shard of the step. -/
  step : Nat := 0
  cur : Bool := false
  /-- Releases committed in the step. -/
  releases : Nat := 0
  /-- The shard of the step is still this device's. -/
  held : Bool := true
  /-- Its bytes have been sent. -/
  sent : Bool := false
  /-- Bytes of the next shard landed here, and whether its ownership has passed. -/
  gotBytes : Nat := 0
  passed : Bool := false
  /-- A rewind moves the shards home without releases (R467). -/
  homing : Bool := false
  deriving DecidableEq, Repr

/-- The exact codec of a hub die (R336). -/
structure Codec where
  encIn : List CodecJob := []
  encOut : List CodecJob := []
  decIn : List CodecJob := []
  decOut : List CodecJob := []
  deriving DecidableEq, Repr

/-- An optimizer update in progress (R425 to R431). -/
structure OxRun where
  ctx : Ctx
  /-- Names the run's command; the run has taken up its units (runs of one context take turns). -/
  key : Nat
  begun : Bool := false
  master : Nat
  m1 : Nat
  m2 : Nat
  grad : Nat
  work : Nat
  workEn : Bool
  rnd : Nat
  sat : Bool
  elems : Nat
  idxBase : Nat
  step : Nat
  consts : List Nat
  /-- Waiting for instance TrigInst of group TrigGroup (Trigger 0b01). -/
  trig : Option (Nat × Nat)
  half : Nat
  /-- Channels still at work. -/
  chans : List Nat := []
  failed : Option Nat := none
  deriving DecidableEq, Repr

/-- A checkpoint slot this device has saved on its buddy (R432 to R434). -/
structure CkptSlot where
  valid : Bool := false
  /-- Handles of the manifest's object and of the checkpoint objects, in manifest order. -/
  man : Option Nat := none
  objs : List Nat := []
  deriving DecidableEq, Repr

/-- A ckpt.save or ckpt.restore in progress (R432 to R436). -/
structure CkptJob where
  key : Nat
  save : Bool
  ctx : Ctx
  slot : Nat
  /-- The buddy, and the FGA of the slot's manifest. -/
  dev : Nat
  man : Nat
  /-- Save: handle of a source, FGA of its checkpoint object, Label. Restore: handle of a target, FGA, DataCrc. -/
  objs : List (Nat × Nat × Nat)
  /-- Save: 0 the invalid manifest, 1 the data, 2 the manifest. Restore: 0 the manifest, 1 an entry's tags, 2 its slots. -/
  phase : Nat := 0
  entry : Nat := 0
  /-- Save: bytes of sources that are not on this device, in order. Restore: the tags of the entry. -/
  buf : List Byte := []
  /-- Reads answered: address and bytes. -/
  got : List (Nat × List Byte) := []
  /-- Comp flags of the manifest's entries. -/
  comps : List Bool := []
  /-- Entries of the manifest that is being written. -/
  entries : List (List Byte) := []
  /-- Indices of the objects it pins. -/
  pins : List Nat := []
  deriving DecidableEq, Repr

/-- Memory and its owners. -/
structure MemSt where
  /-- Device-local memory, HBM and scratchpad: the coherent value of every byte, in canonical form. -/
  mem : List Host.Cell := []
  chans : Vector HbmChan 256 := Vector.replicate 256 {}
  llm : Llm := {}
  objs : List Obj := []
  /-- Generation last given to each used index (R310). -/
  gens : List (Nat × Nat) := []
  pages : List MapRange := []
  moves : List Move := []
  f2 : List F2Obj := []
  poolBytes : Nat := 0
  poolRanges : List PoolRange := []
  heldBar2 : List HeldBar2 := []
  labs : Vector (List LabEntry) 4 := Vector.replicate 4 []
  seqs : PerCtx (List (Nat × SeqRec)) := ⟨[], []⟩
  kvHeld : List KvHeld := []
  rings : PerCtx (List KvRing) := ⟨[], []⟩
  codecs : Vector Codec 2 := Vector.replicate 2 {}
  oxRuns : List OxRun := []
  ckpt : PerCtx (Vector CkptSlot 2) := ⟨Vector.replicate 2 {}, Vector.replicate 2 {}⟩
  ckptJobs : List CkptJob := []
  /-- Scrub positions saved in flash (R291). -/
  scrubSaved : List Nat := []
  scrubSavedAt : Nat := 0
  deriving DecidableEq, Repr

end Sys2Proof.Machine
end

