-- ==== Sys2Proof/Machine/FabricTypes.lean ====
section
/-! DEFINITION. The state types of the Forind fabric, the collective engine, the job and the beat, Goose and the
media front end (chapters 05, 11, 12, 14 and 15). -/

namespace Sys2Proof.Machine

/-- An FF3 packet: the header fields of R358 and the payload. -/
structure Pkt where
  cls : Nat
  op : Nat
  dst : Nat
  src : Nat
  ctx : Nat := 3
  relaxed : Bool := false
  detour : Bool := false
  vc : Bool := false
  routeEpoch : Nat := 0
  flowEpoch : Nat := 0
  seq : Nat := 0
  len : Nat := 0
  hops : Nat := 0
  status : Nat := 0
  addr : Nat := 0
  tag : Nat := 0
  elemType : Nat := 0
  ret : Bool := false
  last : Bool := false
  crc : Nat := 0
  payload : List Byte := []
  deriving DecidableEq, Repr

/-- A flit of the link layer (R347). -/
structure Flit where
  seq : Nat
  ackSeq : Nat
  nak : Bool := false
  idle : Bool := false
  notReady : Bool := false
  crVc : Nat := 0
  crCount : Nat := 0
  bytes : List Byte := []
  crcOk : Bool := true
  deriving DecidableEq, Repr

/-- A negotiation record (R353). -/
structure NegRec where
  protoMax : Nat
  devNum : Nat
  port : Nat
  role : Nat
  laneOk : Nat
  ready : Bool
  deriving DecidableEq, Repr

/-- A port's role (R344). -/
inductive Role where
  | torus
  | uplink
  | f2
  | unused
  deriving DecidableEq, Repr

/-- A link's state (R351). -/
inductive LinkSt where
  | disabled
  | training
  | notReady
  | up
  | retrain
  | failed
  deriving DecidableEq, Repr

/-- A fabric port and its link. -/
structure FPort where
  role : Role := .torus
  enable : Bool := true
  /-- Role, enable and CongestLimit in ns set by fab.port.config, taken when the port next trains. -/
  nextRole : Option (Role × Bool × Nat) := none
  congestNs : Nat := 100000
  link : LinkSt := .training
  ff2 : Bool := false
  lanes : Nat := 0
  laneOk : Nat := 0xFF
  outOfService : Bool := false
  peer : Option NegRec := none
  /-- Times the peer's record has arrived unchanged. -/
  peerSame : Nat := 0
  /-- Negotiation records sent in this training, and the last of them, with the time of the sending. -/
  sent : Nat := 0
  sentRec : Option NegRec := none
  sentAt : Nat := 0
  txSeq : Nat := 0
  rxLast : Nat := 0x3FFF
  /-- Discarding until the replay arrives (R349). -/
  rxDrop : Bool := false
  /-- The last good FlitSeq named by the last Nak sent (R349). -/
  nakSent : Option Nat := none
  replay : List Flit := []
  /-- Packets that have flits in the replay buffer, each with the FlitSeq of its last flit (R383). -/
  onWire : List (Nat × Pkt) := []
  /-- Flit replayed last and how often (R349). -/
  replayOf : Option (Nat × Nat) := none
  replays : Nat := 0
  /-- Credits held per virtual channel, in 64-byte units; time since which a channel has waited at zero. -/
  credits : Vector Nat 8 := Vector.replicate 8 0
  waitSince : Vector (Option Nat) 8 := Vector.replicate 8 none
  /-- Credits this end owes its peer, returned in the flits it sends next. -/
  crOwed : Vector Nat 8 := Vector.replicate 8 0
  congested : Bool := false
  /-- Packets bound for the port, oldest first, and how many have left since a collective packet did (R410). -/
  txq : List Pkt := []
  collSkips : Nat := 0
  /-- Time of the next training start once one has been made or ordered; time at which the last retraining attempt ended. -/
  trainAt : Option Nat := none
  attempts : Nat := 0
  retrainSince : Nat := 0
  /-- A retraining attempt is in progress (R381). -/
  attempting : Bool := false
  faultCause : Nat := 0
  lanesBefore : Nat := 0
  deriving DecidableEq, Repr

/-- A packet a source keeps until it is acknowledged (R364). -/
structure Unacked where
  pkt : Pkt
  sentAt : Nat
  retries : Nat := 0
  deriving DecidableEq, Repr

/-- A source flow context (R362 to R366). -/
structure SrcFlow where
  cls : Nat
  peer : Nat
  epoch : Nat := 0
  nextSeq : Nat := 1
  unacked : List Unacked := []
  lastUse : Nat := 0
  /-- Packets waiting under the limit of R365. -/
  waiting : List Pkt := []
  /-- Route epochs under which it has injected packets and owes a DRAIN marker. -/
  routeEpochs : List Nat := []
  deriving DecidableEq, Repr

/-- A destination flow context. -/
structure DstFlow where
  cls : Nat
  peer : Nat
  epoch : Nat
  expect : Nat := 1
  held : List Pkt := []
  /-- Deliveries not acknowledged, and when the first was made. -/
  unackedN : Nat := 0
  ackSince : Nat := 0
  lastUse : Nat := 0
  /-- Relaxed SeqNums delivered above the in-order point (R367). -/
  early : List Nat := []
  deriving DecidableEq, Repr

/-- State of a route-table bank (R375, R379). -/
inductive BankSt where
  | emptySt
  | standby
  | active
  | draining
  deriving DecidableEq, Repr

/-- A route-table bank. -/
structure RouteBank where
  epoch : Nat := 0
  st : BankSt := .emptySt
  pod : List (BitVec 64) := []
  hall : List (BitVec 64) := []
  deriving DecidableEq, Repr

/-- What made a request that awaits its response. -/
inductive Requester where
  | thread (cluster : Nat) (thread : Nat)
  | transfer (cluster : Nat) (ctx : Ctx) (desc : Nat) (req : Nat)
  | remoteWrite (cluster : Nat) (ctx : Ctx)
  | move (handle : Nat)
  | ckpt (slot : Nat)
  | mule
  deriving DecidableEq, Repr

/-- A request sent and not answered. -/
structure OutReq where
  tag : Nat
  dst : Nat
  cls : Nat
  addr : Nat
  len : Nat
  who : Requester
  got : List Byte := []
  deriving DecidableEq, Repr

/-- A fabric request held on a Moving page (R317). -/
structure HeldReq where
  pkt : Pkt
  since : Nat
  deriving DecidableEq, Repr

/-- The fabric. -/
structure Fabric where
  ports : Vector FPort 12 := Vector.replicate 12 {}
  banks : Vector RouteBank 2 := Vector.replicate 2 {}
  src : List SrcFlow := []
  dst : List DstFlow := []
  /-- FlowEpoch last used by a closed source flow: class, peer, epoch. -/
  epochs : List (Nat × Nat × Nat) := []
  reqs : List OutReq := []
  nextTag : Nat := 0
  heldReqs : List HeldReq := []
  /-- Destinations whose DRAIN_RET is awaited: class and peer. -/
  drains : List (Nat × Nat) := []
  /-- Last heartbeat from each neighbour, and the devices held failed. -/
  heard : List (Nat × Nat) := []
  failed : List Nat := []
  /-- Packets whose flow waits for a free source context, with the time since which each waits (R366), and arrivals whose
  flow waits for a free destination context. -/
  ctxWait : List (Nat × Pkt) := []
  dstWait : List (Nat × Nat × Pkt) := []
  /-- Requests and writes the transport has delivered, in order, and that have not been performed (R368, R371). -/
  delivered : List Pkt := []
  /-- Pod entries of the route bank when the first open job was opened: where the job's devices are placed (DEDUCED, log entry 20). -/
  places : List (BitVec 64) := []
  /-- Axes for which RING_SPLIT has been raised. -/
  split : List Nat := []
  lastBeatSent : Nat := 0
  /-- FF2 messages sent on F2 links: port and code of the message, in order. -/
  ff2Sent : List (Nat × Nat × Nat) := []
  deriving DecidableEq, Repr

/-- The mapping record (R388). -/
structure Mapping where
  axesD : Nat := 0
  axesP : Nat := 0
  axesT : Nat := 0
  axesS : Nat := 0
  axesX : Nat := 0
  lens : List Nat := [1, 1, 1, 1, 1, 1]
  lenH : Nat := 1
  buddyAxis : Nat := 0
  buddyOff : Nat := 1
  deriving DecidableEq, Repr

/-- A beat message (R137). -/
structure BeatMsg where
  beat : Nat
  master : Nat
  step : Nat
  stepStart : Bool
  periodNew : Bool
  period : Nat
  hops : Nat := 0
  deriving DecidableEq, Repr

/-- The master's negotiation of a period (R161). -/
structure PeriodNeg where
  candidate : Nat
  acks : List Nat := []
  refusedBy : Option Nat := none
  sentAt : Nat := 0
  deriving DecidableEq, Repr

/-- A beat message accepted, when it arrived, and when its boundary is due: none while it waits for an edge on BEAT_IN
(R139, R140). -/
structure Due where
  msg : BeatMsg
  arrived : Nat
  at_ : Option Nat
  deriving DecidableEq, Repr

/-- A job context (R568 and chapter 05). -/
structure Job where
  isOpen : Bool := false
  jobId : Nat := 0
  seed : BitVec 64 := 0
  period : Nat := 0
  diag : Bool := false
  join : Bool := false
  pfDepth : Nat := 4
  overrunLimit : Nat := 8
  master : Nat := 0
  deputy : Option Nat := none
  /-- Device whose beat messages are accepted (R143, R144). -/
  sender : Nat := 0
  parent : Nat := 0xF
  children : Nat := 0
  map : Mapping := {}
  /-- Devices of the distribution tree, with their latencies in ns (R139). -/
  members : List (Nat × Nat) := []
  beatDelay : Nat := 0
  lmax : Nat := 0
  /-- job.start has been issued here; devices that have issued it, kept by the master. -/
  startIssued : Bool := false
  startedBy : List Nat := []
  /-- Beat and step of the last boundary applied; whether one has been applied. -/
  beat : Nat := 0
  step : Nat := 0
  begun : Bool := false
  /-- Time the last boundary was applied. -/
  boundaryAt : Nat := 0
  /-- Messages received whose boundaries are still to be applied, and when the last message arrived or was expected. -/
  due : List Due := []
  arrivedAt : Nat := 0
  /-- StepNum of the first boundary (R568). -/
  startStep : Nat := 0
  /-- StepNum the next boundary starts after a rewind (R467). -/
  rewindTo : Option Nat := none
  /-- A spare starts no beat before this step's boundary (R442). -/
  waitStep : Option Nat := none
  missed : Nat := 0
  lost : Bool := false
  slip : Bool := false
  halted : Bool := false
  /-- Failed beat that stops every commit of the context until rewind (R158, R465). -/
  failedBeat : Option Nat := none
  /-- Step-done messages received by the master; sent by this device for this step. -/
  stepDone : List Nat := []
  stepDoneSent : Bool := false
  proposal : Option Nat := none
  proposals : List Nat := []
  requested : Option Nat := none
  neg : Option PeriodNeg := none
  /-- Period agreed for the next StepStart boundary. -/
  agreed : Option Nat := none
  stepStartReady : Bool := false
  /-- The last negotiation ended in BEAT_PERIOD_REFUSED. -/
  refused : Bool := false
  overruns : Nat := 0
  /-- The step began at the 256 µs period. -/
  longStep : Bool := false
  treeGen : Nat := 0
  /-- An Ox or VE update of the step has written a Master plane (R468). -/
  updateStarted : Bool := false
  /-- Master planes that ox.run has named in this job: address and length (R468). -/
  masterPlanes : List (Nat × Nat) := []
  deriving DecidableEq, Repr

/-- A collective group (R390 to R394, R416). -/
structure CGroup where
  id : Nat
  axes : Nat
  timeoutNs : Nat
  los : List Nat
  counts : List Nat
  descCrc : Nat
  /-- Mode of each axis A to F and H: none for ring mode, or the line's first position. -/
  modes : List (Option Nat)
  treeGen : Nat := 0
  nextInst : Nat := 1
  /-- Arrival records of the last 32 instances: instance, SlowRank, SlowDev, WaitNs (R415). -/
  records : List (Nat × Nat × Nat × Nat) := []
  /-- Instances completed here. -/
  doneInsts : List Nat := []
  /-- Instances in which each tree neighbour was named slowest. -/
  slowLo : Nat := 0
  slowHi : Nat := 0
  deriving DecidableEq, Repr

/-- A fusion descriptor (R395). -/
structure CFuse where
  id : Nat
  dtype : Nat
  shard : Nat
  bufs : List (Nat × Nat)
  shapeCrc : Nat
  deriving DecidableEq, Repr

/-- One half of one shard held by this member in a phase: its phase, part and tree, the combine level it has reached, its
bytes in wire form, the SlowRank it carries, and when it was ready (R400, R403, R414). -/
structure CPartial where
  phase : Nat
  part : Nat
  tree : Nat
  level : Nat
  data : List Byte
  slow : Nat
  readyAt : Nat
  deriving DecidableEq, Repr

/-- A neighbour's half received and not yet taken: offsets in its wire form with their bytes, stored slots with their tags
where the instance is compressed, and when its first bytes arrived. -/
structure CRecv where
  phase : Nat
  part : Nat
  tree : Nat
  level : Nat
  cells : List (Nat × Nat × List Byte)
  slow : Nat
  firstAt : Nat
  deriving DecidableEq, Repr

/-- A collective instance (R407 to R412). -/
structure CInst where
  ctx : Ctx
  group : Nat
  num : Nat
  fuse : Nat
  op : Bool
  dst : Nat
  acc : Bool
  comp : Bool
  trig : Nat
  trigStage : Nat
  trigGroup : Nat
  trigInst : Nat
  running : Bool := false
  startAt : Nat := 0
  treeGen : Nat := 0
  /-- The modes its TreeGen stands for. -/
  modes : List (Option Nat) := []
  partials : List CPartial := []
  recv : List CRecv := []
  /-- Halves written here: 2 × part + tree. -/
  written : List Nat := []
  slowRank : Nat := 0
  waitNs : Nat := 0
  /-- COLL_DONE has been posted; the rest of its transfers go on. -/
  completed : Bool := false
  /-- Objects it pins. -/
  objs : List Nat := []
  deriving DecidableEq, Repr

/-- The collective engine (chapter 12). -/
structure Coll where
  groups : PerCtx (List CGroup) := ⟨[], []⟩
  fuses : PerCtx (List CFuse) := ⟨[], []⟩
  insts : List CInst := []
  fencedHalf : Vector Bool 2 := Vector.replicate 2 false
  /-- FAILED and restored links reported by the job's devices for the next StepStart: device, port, failed. -/
  reports : List (Nat × Nat × Bool) := []
  /-- Packets that came before their instance started here: source, context and payload. -/
  early : List (Nat × Ctx × List Byte) := []
  /-- Links that were FAILED at the last tree rebuild: device and port. -/
  down : List (Nat × Nat) := []
  deriving DecidableEq, Repr

/-- A unit that can be charged a strike or fenced: class of R483, unit, sub-unit. -/
structure UnitId where
  cls : Nat
  unit : Nat := 0
  sub : Nat := 0
  deriving DecidableEq, Repr

/-- Kind of a work item (R447, R484). -/
inductive ItemKind where
  | group
  | launch
  | attStep
  deriving DecidableEq, Repr

/-- Progress of a work item (R449, R454 to R462). -/
inductive ItemSt where
  | suspect
  | replaying
  | replayed
  | escalated (first : Nat) (last : Nat) (refused : Bool)
  | resolved
  | failed (status : Nat)
  deriving DecidableEq, Repr

/-- A work item Goose follows. -/
structure WorkItem where
  id : Nat
  kind : ItemKind
  cluster : Cl
  ctx : Ctx
  desc : Fin 64
  ord : Nat
  beat : Nat
  stage : Nat
  failing : UnitId
  /-- The failing check struck this unit (false for an item replayed only under R446). -/
  checkFailed : Bool := true
  strikes : Nat := 1
  opcode : Nat := 0
  struct : Nat := 0
  rows : BitVec 16 := 0
  /-- Bytes of the original's output (R456). -/
  out : List Host.Cell := []
  digestOrig : BitVec 64 := 0
  digestReplay : BitVec 64 := 0
  replayUnit : Option UnitId := none
  replayPassed : Bool := true
  /-- What the replay's capture holds (R457): bytes of instructions and registers, and the ranges read. -/
  captureInstr : Nat := 0
  captureReads : List (Nat × Nat) := []
  /-- The launch of a VE item, which its replay takes up again. -/
  launch : Option Launch := none
  st : ItemSt := .suspect
  deriving DecidableEq, Repr

/-- A package a buddy has sent for this device's referee (R461). -/
structure RefPkg where
  src : Nat
  item : Nat
  at_ : Nat
  running : Bool := false
  deriving DecidableEq, Repr

/-- Fault policy (R479) and the thresholds of R285. -/
structure Policy where
  strikeWindow : Nat := 86400
  refTimeoutUs : Nat := 1000
  testPeriod : Nat := 86400
  logRate : Nat := 64
  ifFailN : Nat := 2
  suspectN : Nat := 64
  ueRowsN : Nat := 3
  scrubN : Nat := 8
  deriving DecidableEq, Repr

/-- Goose (chapter 14). -/
structure Goose where
  items : List WorkItem := []
  nextItem : Nat := 0
  strikes : List (UnitId × Nat) := []
  policy : Policy := {}
  referee : List RefPkg := []
  /-- Units fenced at run time. -/
  fenced : List UnitId := []
  /-- In-field test: cluster whose turn it is, next granule of its pass, last completed pass and overdue per cluster. -/
  testCluster : Nat := 0
  testGranule : Nat := 0
  lastPass : Vector Nat 40 := Vector.replicate 40 0
  overdue : Vector Bool 40 := Vector.replicate 40 false
  /-- A stop of every commit (R470, R593). -/
  stopCommits : Bool := false
  deriving DecidableEq, Repr

/-- A fed chunk (R497). -/
structure Chunk where
  ord : Nat
  addr : Nat
  len : Nat
  hostSpace : Bool
  eos : Bool
  disc : Bool
  read : Nat := 0
  deriving DecidableEq, Repr

/-- A frame in output order as the decoding process finds it (R505, R511): its concealed and its tainted 16 × 16 blocks in
raster order, and, for the concealed ones, the output number of the most recent frame in the decoded picture buffer, none
where that is empty. `fault` marks a frame that an internal error met (R514). -/
structure MOut where
  width : Nat
  height : Nat
  bitDepth : Nat := 8
  mono : Bool := false
  concealed : List Nat := []
  tainted : List Nat := []
  source : Option Nat := none
  fault : Bool := false
  deriving DecidableEq, Repr

/-- A frame of a stream's decoded picture buffer: its output number, the bytes consumed when it came out, its marks. -/
structure DpbFrame where
  order : Nat
  fed : Nat
  pic : MOut
  deriving DecidableEq, Repr

/-- A sampled frame of the group under assembly: its patches as converted elements, its marked patches, its concealed and
tainted blocks. -/
structure GroupFrame where
  order : Nat
  marked : List Nat
  blocks : Nat
  fault : Bool
  patches : List (List Byte)
  deriving DecidableEq, Repr

/-- A media stream (R493 to R515). -/
structure MStream where
  ctx : Ctx
  codec : Nat
  outFmt : Nat
  patch : Nat
  tube : Nat
  frameStep : Nat
  lumaOnly : Bool
  notify : Bool
  cropX : Nat
  cropY : Nat
  cropW : Nat
  cropH : Nat
  dpbAddr : Nat
  dpbBytes : Nat
  ringAddr : Nat
  ringEntries : Nat
  coeffs : List (BitVec 32)
  chunks : List Chunk := []
  nextOrd : Nat := 0
  stopped : Option Nat := none
  /-- Bytes of the elementary stream consumed: the identity of the decoded samples. -/
  fed : List Byte := []
  outOrder : Nat := 0
  groupSeq : Nat := 0
  /-- Sampled frames of the group under assembly. -/
  group : List GroupFrame := []
  ringNext : Nat := 0
  ringHeld : Nat := 0
  skipped : Nat := 0
  disc : Bool := false
  busySince : Option Nat := none
  overloaded : Bool := false
  /-- Concealed and tainted blocks since the last MEDIA_CONCEAL, and its time (R515). -/
  concealed : Nat := 0
  tainted : Nat := 0
  concealAt : Option Nat := none
  waitRingSince : Option Nat := none
  dpb : List DpbFrame := []
  deriving DecidableEq, Repr

/-- The media front end. -/
structure Media where
  streams : Vector (Option MStream) 64 := Vector.replicate 64 none
  feedPersistMs : Nat := 100
  lastJ0 : Nat := 63
  lastJ1 : Nat := 63
  deriving DecidableEq, Repr

end Sys2Proof.Machine
end

