-- ==== Sys2Proof/Syntax.lean ====
section
/-! DEFINITION. The commands of the block: one constructor of `Instr` for each row of the table of operations
and events, with the facts the environment supplies as operands. -/

namespace Sys2Proof.Machine

/-- What a channel access meets (R278 to R284): no error, a corrected symbol, an uncorrectable codeword in a
DRAM row, or parity mismatches of one transfer (a fifth ends the fourth retry). -/
inductive HbmErr where
  | ok
  | ce
  | ue (row : Nat)
  | parity (mismatches : Nat)
  deriving DecidableEq, Repr

/-- What a slice access meets (R307). -/
inductive LlmErr where
  | ok
  | single
  | uncorrectable
  | tagParity
  deriving DecidableEq, Repr

/-- Element type of an add (R292). -/
inductive AddType where
  | fp32
  | bf16
  | int32
  | int64
  deriving DecidableEq, Repr

/-- What a move's copy meets (R324, R335). -/
inductive MoveErr where
  | ok
  | hbmUe
  | destFailed
  | codecFail (slot : Nat)
  deriving DecidableEq, Repr

/-- A message of the period negotiation (R161). -/
inductive PeriodMsg where
  | propose (dev : Nat) (ns : Nat)
  | candidate (ns : Nat)
  | ack (dev : Nat)
  | refuse (dev : Nat)
  deriving DecidableEq, Repr

/-- Why a link leaves UP (R381; causes of R484). -/
inductive LinkCause where
  | fecLost
  | replayLimit
  | peerRequest
  deriving DecidableEq, Repr

/-- A message between Mules (R359, Op 0x0B). Their layouts are the firmware's own; these are the messages the
manual's rules name. -/
inductive MuleMsg where
  /-- R465: halt the context. -/
  | halt (x : Ctx) (src : Nat)
  /-- R567: a device of the tree has issued job.start. -/
  | started (x : Ctx) (dev : Nat)
  /-- R416: a link of a device failed or was restored. -/
  | linkReport (dev port : Nat) (failed : Bool)
  /-- R443: the spare of the assumed DevNum reclaims; pages the manifests name are kept. -/
  | reclaim (x : Ctx) (dev : Nat) (kept : List Nat)
  /-- R230, R231: the previous device of a ring reports the move of its shard complete. -/
  | ringPass (x : Ctx) (ring : Nat)
  /-- R313: a borrower asks for a pool range, or returns one. -/
  | poolPlace (p : Party) (size : Nat)
  | poolFree (p : Party) (base : Nat)
  /-- R461: the buddy's referee refuses a package. -/
  | refereeBusy (item : Nat)
  deriving DecidableEq, Repr

/-- The payload of a FREEZE packet (R525). -/
structure FreezeRec where
  freezeId : Nat
  origin : Nat
  cause : Nat
  scope : Nat
  originTs : Nat
  deriving DecidableEq, Repr

/-- The referee's answer (R460 to R462). -/
inductive RefResult where
  | digest (d : BitVec 64)
  | miss
  deriving DecidableEq, Repr

/-- A frame one decode turn takes from a stream (R491 to R515): what the standard's decoding process finds in
the bytes consumed. -/
structure MFrame where
  stream : Fin 64
  /-- Bytes of the queue the frame consumes. -/
  consumed : Nat
  /-- Sequence header met: width, height, bit depth, DPB frames D. -/
  header : Option (Nat × Nat × Nat × Nat) := none
  /-- Frames that come out in output order. -/
  outs : List MOut := []
  syntaxErrors : Nat := 0
  /-- Number of an unsupported syntax element met (R513). -/
  unsupported : Option Nat := none
  /-- Frames discarded for a missing parameter set (R513). -/
  discarded : Nat := 0
  grain : Bool := false
  /-- The internal buffers met an uncorrectable error (R514). -/
  internalUe : Bool := false
  /-- Last frame of the stream. -/
  final : Bool := false
  /-- A chunk read meets an uncorrectable HBM error, or a PCIe completion error (R499). -/
  hbmUe : Bool := false
  pcieErr : Bool := false
  /-- The bytes read from host memory, in order. -/
  bytes : List Byte := []
  deriving DecidableEq, Repr

/-- What Mule reads over PCIe at a fetch turn: the entries at the head of every queue, and the payload of the
one it takes (R539, R540). -/
structure FetchedEntry where
  entries : List (Fin 16 × List Byte)
  payload : List Byte := []
  payloadErr : Bool := false
  outErr : Bool := false
  answers : List Nat := []
  answerBytes : List Byte := []
  /-- The queue's registers fail their parity as Mule uses them (R613). -/
  parity : Bool := false
  deriving DecidableEq, Repr

/-- A malformed or unimplemented BAR access (R580, R581, R611, R612). -/
structure BadAccess where
  bar4 : Bool
  off : Nat
  isWrite : Bool
  /-- The size, alignment or byte enables break R580. -/
  malformed : Bool
  /-- Made on Mule's internal bus. -/
  mule : Bool
  deriving DecidableEq, Repr

/-- Strap pins sampled at power good and module reset (R635). -/
structure Straps where
  beatSrc : Bool := false
  mgmtAddr : BitVec 3 := 0
  deriving DecidableEq, Repr

/-- A temperature sensor (R626). -/
inductive Sensor where
  | die (i : Fin 4)
  | hbm (i : Fin 8)
  | stage
  deriving DecidableEq, Repr

/-- One 1 ms sample (R591, R629). -/
structure Telemetry where
  volts : Nat
  amps : Nat
  watts : Nat
  loadW : Nat
  die : Vector Nat 4
  stage : Nat
  hbm : Vector Nat 8
  energyMj : Nat
  deriving DecidableEq, Repr

/-- Boundary-scan instructions (R643). -/
inductive JtagInstr where
  | bypass
  | idcode
  | sample
  | extest
  | clamp
  | highz
  deriving DecidableEq, Repr

/-- A message from an F2 pool controller (R325 to R328, R357). -/
inductive Ff2Msg where
  | leaseGrant (pool : Nat)
  | leaseRefuse (pool : Nat)
  | data (pool off : Nat) (bytes : List Byte)
  | ack (pool frame : Nat)
  | released (pool : Nat)
  deriving DecidableEq, Repr

end Sys2Proof.Machine

namespace Sys2Proof

open Sys2Proof.Machine

/-- The commands and events of the block, in the order of the table. -/
inductive Instr where
  /-- TCLR (R80). -/
  | tclr (c : Cl) (e : En) (u : Upset)
  /-- TLDA (R71). -/
  | tlda (c : Cl) (e : En) (u : Upset)
  /-- TLDB (R71). -/
  | tldb (c : Cl) (e : En) (u : Upset)
  /-- MCAST_LOAD_READ (R74). -/
  | mcastLoadRead (c : Cl) (mc : Nat) (u : Upset)
  /-- TCRD (R80). -/
  | tcrd (c : Cl) (e : En) (u : Upset)
  /-- TMMA (R75). -/
  | tmma (c : Cl) (e : En) (u : Upset)
  /-- TMMAT (R76). -/
  | tmmat (c : Cl) (e : En) (u : Upset)
  /-- TST (R77). -/
  | tst (c : Cl) (e : En) (u : Upset)
  /-- TSYNC (R80). -/
  | tsync (c : Cl) (e : En) (u : Upset)
  /-- TSYNC_TOKEN (R85). -/
  | tsyncToken (c : Cl) (e : En)
  /-- ENGINE_RELOAD (R88). -/
  | engineReload (c : Cl) (e : En)
  /-- STEAL (R119). -/
  | steal (c : Cl) (e : En)
  /-- RUN (R133). -/
  | run (c : Cl) (x : Ctx)
  /-- SETBND (R134). -/
  | setbnd (c : Cl) (x : Ctx)
  /-- WAIT (R134). -/
  | wait (c : Cl) (x : Ctx)
  /-- END (R134). -/
  | endProg (c : Cl) (x : Ctx)
  /-- COMMAND_COMPLETE (R128). -/
  | commandComplete (c : Cl) (x : Ctx) (d : Fin 64)
  /-- FUSED_TILE_CHAIN (R125). -/
  | fusedTileChain (c : Cl) (x : Ctx) (d : Fin 64)
  /-- BEAT (R137). -/
  | beat (x : Ctx) (msg : BeatMsg)
  /-- BEAT_BOUNDARY (R152). -/
  | beatBoundary (x : Ctx)
  /-- BEAT_IN_EDGE (R636). -/
  | beatInEdge (highNs : Nat)
  /-- BEAT_MISS (R141). -/
  | beatMiss (x : Ctx)
  /-- HANDOVER_HEADER_LAND (R149). -/
  | handoverHeaderLand (c : Cl) (x : Ctx) (inp : Fin 2) (slot : Fin 3) (hdr : List Byte)
  /-- SLOT_CREDIT (R151). -/
  | slotCredit (c : Cl) (x : Ctx) (out : Fin 2) (consumer : Fin 4)
  /-- SLOT_ACK (R150). -/
  | slotAck (c : Cl) (x : Ctx) (out : Fin 2) (slot : Fin 2) (consumer : Fin 4)
  /-- BEAT_COMMIT (R155). -/
  | beatCommit (c : Cl) (x : Ctx)
  /-- OVERRUN (R157). -/
  | overrun (c : Cl) (x : Ctx) (inp : Fin 2) (mb : Nat)
  /-- STEP_DONE (R160). -/
  | stepDone (x : Ctx) (dev : Nat)
  /-- PERIOD (R161). -/
  | period (x : Ctx) (msg : PeriodMsg)
  /-- PERIOD_TIMEOUT (R161). -/
  | periodTimeout (x : Ctx)
  /-- VE_LAUNCH (R169). -/
  | veLaunch (c : Cl)
  /-- VADD (R177). -/
  | vadd (c : Cl) (t : Th) (u : Upset)
  /-- VSUB (R177). -/
  | vsub (c : Cl) (t : Th) (u : Upset)
  /-- VMUL (R177). -/
  | vmul (c : Cl) (t : Th) (u : Upset)
  /-- VFMA (R177). -/
  | vfma (c : Cl) (t : Th) (u : Upset)
  /-- VMIN (R198). -/
  | vmin (c : Cl) (t : Th) (u : Upset)
  /-- VMAX (R198). -/
  | vmax (c : Cl) (t : Th) (u : Upset)
  /-- VCMP (R177). -/
  | vcmp (c : Cl) (t : Th) (u : Upset)
  /-- VSEL (R177). -/
  | vsel (c : Cl) (t : Th) (u : Upset)
  /-- VADDW (R192). -/
  | vaddw (c : Cl) (t : Th) (u : Upset)
  /-- VMULW (R192). -/
  | vmulw (c : Cl) (t : Th) (u : Upset)
  /-- VNRMW (R192). -/
  | vnrmw (c : Cl) (t : Th) (u : Upset)
  /-- VCVTW (R58). -/
  | vcvtw (c : Cl) (t : Th) (u : Upset)
  /-- VCVTF (R177). -/
  | vcvtf (c : Cl) (t : Th) (u : Upset)
  /-- VADDI (R177). -/
  | vaddi (c : Cl) (t : Th) (u : Upset)
  /-- VADDL (R177). -/
  | vaddl (c : Cl) (t : Th) (u : Upset)
  /-- VLOGI (R177). -/
  | vlogi (c : Cl) (t : Th) (u : Upset)
  /-- VCVTI (R177). -/
  | vcvti (c : Cl) (t : Th) (u : Upset)
  /-- VRED (R184). -/
  | vred (c : Cl) (t : Th) (u : Upset)
  /-- VREDW (R184). -/
  | vredw (c : Cl) (t : Th) (u : Upset)
  /-- VRMAX (R184). -/
  | vrmax (c : Cl) (t : Th) (u : Upset)
  /-- VFIRSTF (R185). -/
  | vfirstf (c : Cl) (t : Th) (u : Upset)
  /-- VPERM (R177). -/
  | vperm (c : Cl) (t : Th) (u : Upset)
  /-- VBCAST (R177). -/
  | vbcast (c : Cl) (t : Th) (u : Upset)
  /-- VSFU (R189). -/
  | vsfu (c : Cl) (t : Th) (u : Upset)
  /-- SFU_GRANT (R190). -/
  | sfuGrant (c : Cl)
  /-- VSMX (R193). -/
  | vsmx (c : Cl) (t : Th) (u : Upset)
  /-- VRMS (R196). -/
  | vrms (c : Cl) (t : Th) (u : Upset)
  /-- VLD (R180). -/
  | vld (c : Cl) (t : Th) (u : Upset)
  /-- VST (R180). -/
  | vst (c : Cl) (t : Th) (u : Upset)
  /-- VGATH (R181). -/
  | vgath (c : Cl) (t : Th) (u : Upset)
  /-- VSCAT (R181). -/
  | vscat (c : Cl) (t : Th) (u : Upset)
  /-- VFENCE (R372). -/
  | vfence (c : Cl) (t : Th) (u : Upset)
  /-- SMOVI (R177). -/
  | smovi (c : Cl) (t : Th) (u : Upset)
  /-- SADD (R177). -/
  | sadd (c : Cl) (t : Th) (u : Upset)
  /-- SMUL (R177). -/
  | smul (c : Cl) (t : Th) (u : Upset)
  /-- BR (R177). -/
  | br (c : Cl) (t : Th) (u : Upset)
  /-- VE_SETBND (R186). -/
  | veSetbnd (c : Cl) (t : Th) (u : Upset)
  /-- VRANGE (R177). -/
  | vrange (c : Cl) (t : Th) (u : Upset)
  /-- VEND (R187). -/
  | vend (c : Cl) (t : Th) (u : Upset)
  /-- CACHE_FILL (R257). -/
  | cacheFill (c : Cl) (line : Nat) (u : Upset)
  /-- ATTENTION_BLOCK_STEP (R220). -/
  | attentionBlockStep (c : Cl) (x : Ctx) (d : Fin 64) (far : List Host.Cell) (u : Upset)
  /-- ATTENTION_BACKWARD_STEP (R226). -/
  | attentionBackwardStep (c : Cl) (x : Ctx) (d : Fin 64) (far : List Host.Cell) (u : Upset)
  /-- PONY_WALK (R205). -/
  | ponyWalk (c : Cl) (x : Ctx) (seq : Nat) (va : Nat) (write : Bool) (pref : Bool)
  /-- RING_STEP_END (R230). -/
  | ringStepEnd (x : Ctx) (ring : Nat)
  /-- TRANSFER_REQUEST_ISSUE (R246). -/
  | transferRequestIssue (c : Cl) (x : Ctx) (d : Fin 64)
  /-- MCAST_FETCH_ISSUE (R253). -/
  | mcastFetchIssue (c : Cl) (x : Ctx) (d : Fin 64)
  /-- REQUEST_RETURN (R245). -/
  | requestReturn (c : Cl) (x : Ctx) (d : Fin 64) (req : Nat) (remote : List Byte) (status : Nat)
  /-- TRANSFER_RESUME (R269). -/
  | transferResume (c : Cl) (x : Ctx) (d : Fin 64)
  /-- HBM_READ (R278). -/
  | hbmRead (addr len : Nat) (unit : UnitId) (err : HbmErr)
  /-- HBM_WRITE (R281). -/
  | hbmWrite (addr : Nat) (data : List Byte) (unit : UnitId) (err : HbmErr)
  /-- CHANNEL_RETIRE (R286). -/
  | channelRetire (ch : Chan)
  /-- SCRUB_GRANULE (R288). -/
  | scrubGranule (ch : Chan) (errs : List (Nat × HbmErr))
  /-- SCRUB_FORCED (R289). -/
  | scrubForced (ch : Chan) (errs : List (Nat × HbmErr))
  /-- SCRUB_POSITION_SAVE (R291). -/
  | scrubPositionSave
  /-- NM_ADD (R293). -/
  | nmAdd (addr : Nat) (type : AddType) (operand : List Byte) (ret : Bool) (party : Party) (err : HbmErr)
  /-- LLM_ACCESS (R302). -/
  | llmAccess (addr : Nat) (len : Nat) (data : Option (List Byte)) (ctx : CtxNo) (err : LlmErr)
  /-- MOVE_START (R318). -/
  | moveStart (handle : Nat)
  /-- MOVE_COMPLETE (R319). -/
  | moveComplete (handle : Nat) (data : List Byte) (err : MoveErr)
  /-- ANCHOR_RECALL (R323). -/
  | anchorRecall (addr : Nat) (x : CtxNo)
  /-- BAR2_READ (R584). -/
  | bar2Read (off len : Nat)
  /-- BAR2_WRITE (R584). -/
  | bar2Write (off : Nat) (data : List Byte)
  /-- BAR2_HOLD_TIMEOUT (R321). -/
  | bar2HoldTimeout
  /-- CODEC_ENCODE_SLOT (R336). -/
  | codecEncodeSlot (h : Hub)
  /-- CODEC_DECODE_SLOT (R335). -/
  | codecDecodeSlot (h : Hub)
  /-- LINK_TRAINING_START (R352). -/
  | linkTrainingStart (p : Port)
  /-- NEGOTIATION_RECORD (R353). -/
  | negotiationRecord (p : Port) (r : NegRec)
  /-- FLIT_RECEIVE (R349). -/
  | flitReceive (p : Port) (f : Flit)
  /-- LINK_FAULT (R381). -/
  | linkFault (p : Port) (cause : LinkCause)
  /-- RETRAIN_ATTEMPT_END (R381). -/
  | retrainAttemptEnd (p : Port) (ok : Bool) (lanes : BitVec 8)
  /-- PACKET_FORWARD (R376). -/
  | packetForward (p : Port) (k : Pkt)
  /-- PACKET_RECEIVE (R363). -/
  | packetReceive (p : Port) (k : Pkt)
  /-- T_ACK (R362). -/
  | tAck (peer cls epoch seq : Nat)
  /-- T_NAK (R364). -/
  | tNak (peer cls epoch seq : Nat)
  /-- T_ACK_TIMER (R362). -/
  | tAckTimer (peer cls : Nat)
  /-- RETRANSMIT_TIMEOUT (R364). -/
  | retransmitTimeout (peer cls : Nat)
  /-- FLOW_CONTEXT_CLOSE (R366). -/
  | flowContextClose (isSource : Bool) (peer cls : Nat)
  /-- LOAD (R371). -/
  | load (k : Pkt)
  /-- STORE (R371). -/
  | store (k : Pkt)
  /-- ADD (R292). -/
  | add (k : Pkt)
  /-- READ_BULK (R359). -/
  | readBulk (k : Pkt)
  /-- LOAD_DATA (R373). -/
  | loadData (k : Pkt)
  /-- DONE (R372). -/
  | done (k : Pkt)
  /-- READ_DATA (R359). -/
  | readData (k : Pkt)
  /-- WRITE (R359). -/
  | write (k : Pkt)
  /-- DRAIN (R379). -/
  | drain (k : Pkt)
  /-- DRAIN_RET (R379). -/
  | drainRet (k : Pkt)
  /-- HEARTBEAT_SEND (R385). -/
  | heartbeatSend
  /-- HEARTBEAT (R385). -/
  | heartbeat (dev : Nat)
  /-- HEARTBEAT_TIMEOUT (R385). -/
  | heartbeatTimeout (dev : Nat)
  /-- FAULT_NOTICE (R386). -/
  | faultNotice (dev : Nat)
  /-- FAB_CONGEST (R387). -/
  | fabCongest (p : Port) (vc : Fin 8)
  /-- MULE (R359). -/
  | mule (msg : MuleMsg)
  /-- FREEZE (R526). -/
  | freeze (sender : Nat) (r : FreezeRec)
  /-- COLL_TRIGGER (R407). -/
  | collTrigger (x : Ctx) (group inst : Nat)
  /-- COLL_PACKET (R402). -/
  | collPacket (src : Nat) (x : Ctx) (payload : List Byte) (u : Upset)
  /-- COLL_TIMEOUT (R412). -/
  | collTimeout (x : Ctx) (group inst : Nat)
  /-- OX_GRANULE (R427). -/
  | oxGranule (ch : Chan) (fails : Nat)
  /-- LOCAL_REPLAY (R454). -/
  | localReplay (item : Nat)
  /-- REPLAY_COMPLETE (R456). -/
  | replayComplete (item : Nat)
  /-- REFEREE_PACKAGE (R461). -/
  | refereePackage (src item : Nat)
  /-- REFEREE_RUN_END (R460). -/
  | refereeRunEnd (digest : Option (BitVec 64))
  /-- REFEREE_RESULT (R462). -/
  | refereeResult (item : Nat) (r : RefResult)
  /-- REFEREE_REOFFER (R461). -/
  | refereeReoffer (item : Nat)
  /-- REFEREE_LOST (R461). -/
  | refereeLost (item : Nat)
  /-- GOOSE_FAIL (R445). -/
  | gooseFail
  /-- TEST_GRANULE (R473). -/
  | testGranule (pass : Bool)
  /-- TEST_OVERDUE (R476). -/
  | testOverdue (c : Cl)
  /-- CPER_SUMMARY (R485). -/
  | cperSummary
  /-- FAULT_LOG_WRITE (R489). -/
  | faultLogWrite
  /-- MEDIA_FRAME_DECODE (R501). -/
  | mediaFrameDecode (f : MFrame)
  /-- MEDIA_CONCEAL (R515). -/
  | mediaConceal (stream : Fin 64)
  /-- MEDIA_OVERLOAD (R498). -/
  | mediaOverload (stream : Fin 64)
  /-- MBX_FETCH (R553). -/
  | mbxFetch (e : FetchedEntry)
  /-- CMD_SLOW (R559). -/
  | cmdSlow
  /-- MBX_OVERLOAD (R557). -/
  | mbxOverload (q : Fin 16)
  /-- MSIX_COALESCE (R544). -/
  | msixCoalesce (q : Fin 16)
  /-- DBL_CMD (R612). -/
  | dblCmd (q : Fin 16) (index : BitVec 16)
  /-- DBL_CPL (R612). -/
  | dblCpl (q : Fin 16) (index : BitVec 16)
  /-- DBL_EVT (R612). -/
  | dblEvt (index : BitVec 16)
  /-- PCIE_RESET (R560). -/
  | pcieReset
  /-- MBX_OPEN (R548). -/
  | mbxOpen (m : MCmd)
  /-- MBX_CLOSE (R558). -/
  | mbxClose (m : MCmd)
  /-- MBX_NOP (R566). -/
  | mbxNop (m : MCmd)
  /-- MBX_CANCEL (R558). -/
  | mbxCancel (m : MCmd)
  /-- JOB_OPEN (R568). -/
  | jobOpen (m : MCmd)
  /-- JOB_START (R567). -/
  | jobStart (m : MCmd)
  /-- JOB_CLOSE (R567). -/
  | jobClose (m : MCmd)
  /-- JOB_HALT (R465). -/
  | jobHalt (m : MCmd)
  /-- JOB_REWIND (R467). -/
  | jobRewind (m : MCmd)
  /-- JOB_QUERY (R567). -/
  | jobQuery (m : MCmd)
  /-- BEAT_PERIOD (R161). -/
  | beatPeriod (m : MCmd)
  /-- STAGE_LOAD (R131). -/
  | stageLoad (m : MCmd)
  /-- STAGE_UNLOAD (R569). -/
  | stageUnload (m : MCmd)
  /-- MEM_PLACE (R312). -/
  | memPlace (m : MCmd)
  /-- MEM_FREE (R571). -/
  | memFree (m : MCmd)
  /-- MEM_MOVE (R318). -/
  | memMove (m : MCmd)
  /-- MEM_QUERY (R310). -/
  | memQuery (m : MCmd)
  /-- MEM_POOL_CONFIG (R313). -/
  | memPoolConfig (m : MCmd)
  /-- MEM_LLM_CONFIG (R306). -/
  | memLlmConfig (m : MCmd)
  /-- MEM_F2_OPEN (R325). -/
  | memF2Open (m : MCmd)
  /-- MEM_F2_FLUSH (R327). -/
  | memF2Flush (m : MCmd)
  /-- MEM_F2_CLOSE (R328). -/
  | memF2Close (m : MCmd)
  /-- MEM_STREAM_EST (R331). -/
  | memStreamEst (m : MCmd)
  /-- MEM_ENCODE (R339). -/
  | memEncode (m : MCmd)
  /-- KV_SEQ_DEFINE (R203). -/
  | kvSeqDefine (m : MCmd)
  /-- KV_INVAL (R208). -/
  | kvInval (m : MCmd)
  /-- KV_RETRY (R211). -/
  | kvRetry (m : MCmd)
  /-- KV_RING_DEFINE (R229). -/
  | kvRingDefine (m : MCmd)
  /-- OX_DESIGNATE (R422). -/
  | oxDesignate (m : MCmd)
  /-- OX_RUN (R426). -/
  | oxRun (m : MCmd)
  /-- OX_QUERY (R429). -/
  | oxQuery (m : MCmd)
  /-- CKPT_SAVE (R434). -/
  | ckptSave (m : MCmd)
  /-- CKPT_RESTORE (R436). -/
  | ckptRestore (m : MCmd)
  /-- FAB_PORT_CONFIG (R344). -/
  | fabPortConfig (m : MCmd)
  /-- FAB_ROUTE_LOAD (R379). -/
  | fabRouteLoad (m : MCmd)
  /-- FAB_ROUTE_SWAP (R379). -/
  | fabRouteSwap (m : MCmd)
  /-- FAB_STATUS (R572). -/
  | fabStatus (m : MCmd)
  /-- COLL_DEFINE (R390). -/
  | collDefine (m : MCmd)
  /-- COLL_FUSE (R395). -/
  | collFuse (m : MCmd)
  /-- COLL_ARM (R407). -/
  | collArm (m : MCmd)
  /-- COLL_QUERY (R415). -/
  | collQuery (m : MCmd)
  /-- COLL_UNDEFINE (R573). -/
  | collUndefine (m : MCmd)
  /-- CNT_CONFIG (R520). -/
  | cntConfig (m : MCmd)
  /-- CNT_CATALOG (R517). -/
  | cntCatalog (m : MCmd)
  /-- CNT_FREEZE (R524). -/
  | cntFreeze (m : MCmd)
  /-- CNT_RELEASE (R528). -/
  | cntRelease (m : MCmd)
  /-- CNT_SNAPSHOT (R529). -/
  | cntSnapshot (m : MCmd)
  /-- CNT_LOG_READ (R537). -/
  | cntLogRead (m : MCmd)
  /-- HEN_WATCH (R530). -/
  | henWatch (m : MCmd)
  /-- HEN_RELEASE (R532). -/
  | henRelease (m : MCmd)
  /-- HEN_UNWATCH (R574). -/
  | henUnwatch (m : MCmd)
  /-- MEDIA_OPEN (R494). -/
  | mediaOpen (m : MCmd)
  /-- MEDIA_FEED (R497). -/
  | mediaFeed (m : MCmd)
  /-- MEDIA_RELEASE (R508). -/
  | mediaRelease (m : MCmd)
  /-- MEDIA_CLOSE (R509). -/
  | mediaClose (m : MCmd)
  /-- MEDIA_CONFIG (R498). -/
  | mediaConfig (m : MCmd)
  /-- PWR_STATUS (R629). -/
  | pwrStatus (m : MCmd)
  /-- PWR_CAP_SET (R618). -/
  | pwrCapSet (m : MCmd)
  /-- FAULT_POLICY (R479). -/
  | faultPolicy (m : MCmd)
  /-- FAULT_TIME_SET (R576). -/
  | faultTimeSet (m : MCmd)
  /-- FAULT_CPER_READ (R642). -/
  | faultCperRead (m : MCmd)
  /-- FAULT_RETIRE_CLEAR (R287). -/
  | faultRetireClear (m : MCmd)
  /-- ID_READ (R437). -/
  | idRead (m : MCmd)
  /-- ID_CAP_READ (R576). -/
  | idCapRead (m : MCmd)
  /-- ID_ASSUME (R438). -/
  | idAssume (m : MCmd)
  /-- FLASH_READ (R577). -/
  | flashRead (m : MCmd)
  /-- FLASH_ERASE (R578). -/
  | flashErase (m : MCmd)
  /-- FLASH_WRITE (R578). -/
  | flashWrite (m : MCmd)
  /-- FLASH_IMAGE_COMMIT (R577). -/
  | flashImageCommit (m : MCmd)
  /-- REGISTER_WRITE (R9). -/
  | registerWrite (off : Nat) (v : BitVec 32)
  /-- UNIMPLEMENTED_ACCESS (R581). -/
  | unimplementedAccess (a : BadAccess)
  /-- GUARD_ARM (R594). -/
  | guardArm (mule : Bool) (off : Nat) (v : BitVec 32)
  /-- GUARD_EXPIRE (R595). -/
  | guardExpire (mule : Bool)
  /-- MODULE_RESET (R589). -/
  | moduleReset (mule : Bool) (v : BitVec 32) (straps : Straps)
  /-- ORDERLY_OFF (R593). -/
  | orderlyOff (mule : Bool) (v : BitVec 32)
  /-- FLASH_UNLOCK (R596). -/
  | flashUnlock (mule : Bool) (v : BitVec 32)
  /-- FUSE_COMMIT (R597). -/
  | fuseCommit (mule : Bool) (v : BitVec 32)
  /-- ID_ROLE_WRITE (R588). -/
  | idRoleWrite (mule : Bool) (v : BitVec 32)
  /-- EVT_STATUS_WRITE (R600). -/
  | evtStatusWrite (v : BitVec 32)
  /-- PWR_CAP_WRITE (R592). -/
  | pwrCapWrite (v : BitVec 32)
  /-- WIDE_SEL_LO_WRITE (R605). -/
  | wideSelLoWrite (v : BitVec 32) (parity : Bool)
  /-- WIDE_FETCH_DONE (R605). -/
  | wideFetchDone
  /-- MBX_QCTL_WRITE (R609). -/
  | mbxQctlWrite (ring : Fin 17) (v : BitVec 32)
  /-- POWER_GOOD (R644). -/
  | powerGood (straps : Straps)
  /-- MULE_START (R561). -/
  | muleStart
  /-- FOAL_ENTRY (R562). -/
  | foalEntry
  /-- HBM_TRAINING_DONE (R561). -/
  | hbmTrainingDone (failed : List Chan)
  /-- SERVICE_FULL (R561). -/
  | serviceFull (failed : List UnitId)
  /-- INPUT_LOSS (R624). -/
  | inputLoss
  /-- INPUT_OVERVOLTAGE (R624). -/
  | inputOvervoltage
  /-- CONVERTER_FAULT (R624). -/
  | converterFault
  /-- THERMAL_TRIP (R627). -/
  | thermalTrip (sensor : Sensor)
  /-- POWER_MANAGER_TICK (R619). -/
  | powerManagerTick (p10 withhold : Nat) (parity : Bool)
  /-- THERMAL_LIMIT_TICK (R627). -/
  | thermalLimitTick
  /-- HOLDUP_SAMPLE (R621). -/
  | holdupSample (mv : Nat)
  /-- TELEMETRY_SAMPLE (R591). -/
  | telemetrySample (t : Telemetry)
  /-- PERST_ASSERT (R646). -/
  | perstAssert
  /-- PERST_DEASSERT (R645). -/
  | perstDeassert
  /-- FREEZE_IN (R637). -/
  | freezeIn (highNs : Nat)
  /-- MGMT_COMMAND_WRITE (R640). -/
  | mgmtCommandWrite (pecOk : Bool) (entry : List Byte) (answers : List Nat)
  /-- MGMT_RESPONSE_READ (R640). -/
  | mgmtResponseRead (pecOk : Bool)
  /-- MGMT_OUTPUT_READ (R640). -/
  | mgmtOutputRead (pecOk : Bool) (off : BitVec 32)
  /-- MGMT_STATUS_READ (R640). -/
  | mgmtStatusRead
  /-- MGMT_ADDRESS_ASSIGN (R639). -/
  | mgmtAddressAssign (addr : BitVec 7)
  /-- JTAG_INSTRUCTION (R643). -/
  | jtagInstruction (j : JtagInstr)
  /-- LANES_LOCKED (R351). -/
  | lanesLocked (p : Port) (lanes : BitVec 8)
  /-- NEGOTIATION_RECORD_SEND (R353). -/
  | negotiationRecordSend (p : Port)
  /-- RETRAIN_ATTEMPT_START (R381). -/
  | retrainAttemptStart (p : Port)
  /-- FF2_RESPONSE (R357). -/
  | ff2Response (p : Port) (r : Ff2Msg)
  /-- COMPLEMENT_WRITE (R595). -/
  | complementWrite (mule : Bool) (off : Nat) (v : BitVec 32)
  /-- FABRIC_HOLD_EXPIRY (R317). -/
  | fabricHoldExpiry
  /-- MULE_SRAM_UE (R470). -/
  | muleSramUe
  /-- FLASH_OP_DONE (R623). -/
  | flashOpDone (verified : Bool)
  /-- ISLAND_STOP (R625). -/
  | islandStop
  deriving DecidableEq, Repr

end Sys2Proof
end

