-- ==== Sys2Proof/Machine/Cells.lean ====
section
/-! DEFINITION. Byte memories: lists of (address, byte) in one canonical form, addresses strictly rising and no
entry equal to what an unlisted address reads as. -/

namespace Sys2Proof

/-- A byte memory. -/
abbrev Mem := List Host.Cell

/-- Every address lies above `lo`, addresses rise strictly, and no entry holds the unlisted value `d`. -/
def Mem.wfAbove (d : Byte) : Option Nat → Mem → Bool
  | _, [] => true
  | lo, (a, b) :: m => (match lo with | none => true | some l => decide (l < a)) && (b != d) && wfAbove d (some a) m

/-- The canonical form of a memory whose unlisted bytes read `d`. -/
def Mem.wf (d : Byte) (m : Mem) : Bool := Mem.wfAbove d none m

/-- The byte at an address. -/
def Mem.get (d : Byte) : Mem → Nat → Byte
  | [], _ => d
  | (a, b) :: m, x => if x = a then b else if x < a then d else Mem.get d m x

/-- One byte written; writing the unlisted value removes the entry. -/
def Mem.set (d : Byte) : Mem → Nat → Byte → Mem
  | [], x, v => if v = d then [] else [(x, v)]
  | (a, b) :: m, x, v =>
    if x = a then (if v = d then m else (a, v) :: m)
    else if x < a then (if v = d then (a, b) :: m else (x, v) :: (a, b) :: m)
    else (a, b) :: Mem.set d m x v

/-- `n` bytes from an address. -/
def Mem.read (d : Byte) (m : Mem) (a : Nat) : Nat → List Byte
  | 0 => []
  | n + 1 => Mem.get d m a :: Mem.read d m (a + 1) n

/-- Bytes written from an address. -/
def Mem.write (d : Byte) (m : Mem) (a : Nat) : List Byte → Mem
  | [] => m
  | b :: bs => Mem.write d (Mem.set d m a b) (a + 1) bs

/-- Every byte of a range as an unlisted one. -/
def Mem.clear (m : Mem) (a n : Nat) : Mem := m.filter (fun p => p.1 < a || a + n ≤ p.1)

/-- The listed bytes of a range, as offsets from its start. -/
def Mem.part (m : Mem) (a n : Nat) : Mem :=
  (m.filter (fun p => a ≤ p.1 && p.1 < a + n)).map (fun p => (p.1 - a, p.2))

/-- A range replaced by a list of offsets and bytes: the copy of a whole range. -/
def Mem.paste (d : Byte) (m : Mem) (a n : Nat) (cs : Mem) : Mem :=
  cs.foldl (fun m p => Mem.set d m (a + p.1) p.2) (m.clear a n)

/-- A written byte added to a set of written bytes with their final contents (R533); 0 is listed like any other. -/
def Seen.put (l : List Host.Cell) (a : Nat) (b : Byte) : List Host.Cell :=
  (l.filter (fun p => p.1 != a)) ++ [(a, b)]

/-- Several bytes put into a set of written bytes. -/
def Seen.putAll (l : List Host.Cell) (a : Nat) : List Byte → List Host.Cell
  | [] => l
  | b :: bs => Seen.putAll (Seen.put l a b) (a + 1) bs

/-- The aligned words that hold a written byte, each once. -/
def Seen.words (l : List Host.Cell) : List Nat := (l.map (fun p => p.1 / 8)).eraseDups

/-- Word contents, unwritten bytes taken as 0, and the byte mask (R533). -/
def Seen.word (l : List Host.Cell) (w : Nat) : Nat × Nat :=
  l.foldl (fun acc p => if p.1 / 8 = w then
    (acc.1 + place p.2.toNat (8 * (p.1 % 8)), acc.2 + place 1 (p.1 % 8)) else acc) (0, 0)

/-- The digest of a set of written bytes (R533). -/
def Seen.digest (l : List Host.Cell) : BitVec 64 :=
  (Seen.words l).foldl (fun d w =>
    let c := Seen.word l w
    d + mix (BitVec.ofNat 64 (8 * w) ^^^ mix (BitVec.ofNat 64 c.1 ^^^ mix (BitVec.ofNat 64 c.2)))) 0

end Sys2Proof
end

