-- ==== Sys2Proof/Machine/Codes.lean ====
section
/-! DEFINITION. The status and event codes of R551, the command codes of R566 to R577 and the counter codes
of R517. -/

namespace Sys2Proof.Code

def OK : Nat := 0x0000
def NOT_READY : Nat := 0x0001
def BUSY : Nat := 0x0002
def BAD_CODE : Nat := 0x0003
def BAD_LEN : Nat := 0x0004
def BAD_ADDR : Nat := 0x0005
def NO_SESSION : Nat := 0x0006
def VERSION_NONE : Nat := 0x0007
def DESC_INVALID : Nat := 0x0008
def ABORTED : Nat := 0x0009
def NO_JOB : Nat := 0x000A
def JOB_OPEN : Nat := 0x000B
def BAD_HANDLE : Nat := 0x000C
def OWN_FAULT : Nat := 0x000D
def COMP_ACCESS : Nat := 0x000E
def HBM_UE : Nat := 0x000F
def HBM_POISON : Nat := 0x0010
def HBM_FENCED : Nat := 0x0011
def ADDR_UNMAPPED : Nat := 0x0012
def DEV_UNREACHABLE : Nat := 0x0013
def CHECK_FAIL : Nat := 0x0014
def SESSION_OPEN : Nat := 0x0015
def MAP_INVALID : Nat := 0x0101
def NOT_HALTED : Nat := 0x0102
def UPDATE_STARTED : Nat := 0x0103
def BEAT_SKEW : Nat := 0x0104
def BEAT_PERIOD_REFUSED : Nat := 0x0105
def CTX_OVERLAP : Nat := 0x0201
def SLACK_SHORT : Nat := 0x0202
def J1_GROUP_LONG : Nat := 0x0203
def DESC_RACE : Nat := 0x0204
def STAGE_LIVE : Nat := 0x0205
def SHAPE_OVER : Nat := 0x0206
def NO_ENGINE : Nat := 0x0207
def ILLEGAL_TILE : Nat := 0x0208
def VE_FAULT : Nat := 0x0209
def XFER_ALIGN : Nat := 0x020A
def MCAST_MISMATCH : Nat := 0x020B
def MCAST_LOST : Nat := 0x020C
def HOLD_FULL : Nat := 0x020D
def HANDOVER_BAD : Nat := 0x020E
def NO_SPACE : Nat := 0x0301
def OBJ_FULL : Nat := 0x0302
def LLM_PROT : Nat := 0x0303
def TIER_ILLEGAL : Nat := 0x0304
def NOT_LENDER : Nat := 0x0305
def POOL_IN_USE : Nat := 0x0306
def MOVE_BUSY : Nat := 0x0307
def F2_MODE : Nat := 0x0308
def F2_BUSY : Nat := 0x0309
def LLM_IN_USE : Nat := 0x030A
def STREAM_SLOW : Nat := 0x030B
def CODEC_FAIL : Nat := 0x030C
def KV_PROT : Nat := 0x030D
def KV_FAULT : Nat := 0x030E
def SEQ_BUSY : Nat := 0x030F
def OX_TOO_MANY : Nat := 0x0310
def OX_LAYOUT : Nat := 0x0311
def OX_NONE : Nat := 0x0312
def OX_INCOMPLETE : Nat := 0x0313
def CKPT_SLOT_INVALID : Nat := 0x0314
def CKPT_CRC : Nat := 0x0315
def MEDIA_PINNED : Nat := 0x0316
def LINK_MISMATCH : Nat := 0x0401
def ROUTE_DRAINING : Nat := 0x0402
def ROUTE_STATE : Nat := 0x0403
def ROUTE_EPOCH : Nat := 0x0404
def FAB_NODEV : Nat := 0x0405
def FAB_ALIGN : Nat := 0x0406
def LEVEL_ILLEGAL : Nat := 0x0407
def PORT_ROLE : Nat := 0x0408
def COLL_AXES : Nat := 0x0501
def COLL_NOT_MEMBER : Nat := 0x0502
def GROUP_BUSY : Nat := 0x0503
def COLL_OVERLAP : Nat := 0x0504
def COLL_MISMATCH : Nat := 0x0505
def COLL_TIMEOUT : Nat := 0x0506
def COLL_MEMBER_FAILED : Nat := 0x0507
def NO_GROUP : Nat := 0x0508
def CNT_FROZEN : Nat := 0x0601
def WATCH_BUSY : Nat := 0x0602
def STREAM_BUSY : Nat := 0x0701
def MEDIA_DPB_SHORT : Nat := 0x0702
def MEDIA_GEOMETRY : Nat := 0x0703
def MEDIA_UNSUPPORTED : Nat := 0x0704
def NO_STREAM : Nat := 0x0705
def CAP_RANGE : Nat := 0x0801
def RETIRE_NONE : Nat := 0x0901
def ID_NOT_SPARE : Nat := 0x0A01
def ID_RING : Nat := 0x0A02
def FLASH_LOCKED : Nat := 0x0B01
def FLASH_ENERGY : Nat := 0x0B02
def FLASH_RANGE : Nat := 0x0B03
def FLASH_VERIFY : Nat := 0x0B04
def FLASH_IMAGE : Nat := 0x0B05
def CAP_CHANGED : Nat := 0x8001
def SERVICE_FULL : Nat := 0x8002
def JOB_CLOSED : Nat := 0x8003
def JOB_HALTED : Nat := 0x8004
def BEAT_FAILED : Nat := 0x8005
def BEAT_OVERRUN : Nat := 0x8006
def BEAT_STALL : Nat := 0x8007
def BEAT_LOST : Nat := 0x8008
def BEAT_SLIP : Nat := 0x8009
def BEAT_PERSIST : Nat := 0x800A
def KV_PAGE_FAULT : Nat := 0x800B
def SOFTMAX_UNRESOLVED : Nat := 0x800C
def CS_UE : Nat := 0x800D
def LLM_UE : Nat := 0x800E
def HBM_IF_FAIL : Nat := 0x800F
def HBM_CE_STORM : Nat := 0x8010
def OBJ_DAMAGED : Nat := 0x8011
def LINK_FAILED : Nat := 0x8012
def RING_SPLIT : Nat := 0x8013
def DEV_FAILED : Nat := 0x8014
def FAB_CONGEST : Nat := 0x8015
def COLL_DONE : Nat := 0x8016
def MEDIA_ENTRY : Nat := 0x8017
def MEDIA_CHUNK_DONE : Nat := 0x8018
def MEDIA_OVERLOAD : Nat := 0x8019
def MEDIA_CONCEAL : Nat := 0x801A
def MEDIA_FAULT : Nat := 0x801B
def REFEREE_DISAGREE : Nat := 0x801C
def REFEREE_LOST : Nat := 0x801D
def REFEREE_SIZE : Nat := 0x801E
def GOOSE_FAIL : Nat := 0x801F
def TEST_FAIL : Nat := 0x8020
def TEST_OVERDUE : Nat := 0x8021
def CLUSTER_FENCED : Nat := 0x8022
def UNIT_FENCED : Nat := 0x8023
def CFG_PARITY : Nat := 0x8024
def CMD_SLOW : Nat := 0x8025
def MBX_OVERLOAD : Nat := 0x8026
def EVENTS_LOST : Nat := 0x8027
def FLOW_FAIL : Nat := 0x8028

end Sys2Proof.Code

namespace Sys2Proof.CmdCode

def mbxOpen : Nat := 0x0001
def mbxClose : Nat := 0x0002
def mbxNop : Nat := 0x0003
def mbxCancel : Nat := 0x0004
def jobOpen : Nat := 0x0101
def jobStart : Nat := 0x0102
def jobClose : Nat := 0x0103
def jobHalt : Nat := 0x0104
def jobRewind : Nat := 0x0105
def jobQuery : Nat := 0x0106
def beatPeriod : Nat := 0x0107
def stageLoad : Nat := 0x0201
def stageUnload : Nat := 0x0202
def memPlace : Nat := 0x0301
def memFree : Nat := 0x0302
def memMove : Nat := 0x0303
def memQuery : Nat := 0x0304
def memPoolConfig : Nat := 0x0305
def memLlmConfig : Nat := 0x0306
def memF2Open : Nat := 0x0307
def memF2Flush : Nat := 0x0308
def memF2Close : Nat := 0x0309
def memStreamEst : Nat := 0x030A
def memEncode : Nat := 0x030B
def kvSeqDefine : Nat := 0x030C
def kvInval : Nat := 0x030D
def kvRetry : Nat := 0x030E
def kvRingDefine : Nat := 0x030F
def oxDesignate : Nat := 0x0310
def oxRun : Nat := 0x0311
def oxQuery : Nat := 0x0312
def ckptSave : Nat := 0x0313
def ckptRestore : Nat := 0x0314
def fabPortConfig : Nat := 0x0401
def fabRouteLoad : Nat := 0x0402
def fabRouteSwap : Nat := 0x0403
def fabStatus : Nat := 0x0404
def collDefine : Nat := 0x0501
def collFuse : Nat := 0x0502
def collArm : Nat := 0x0503
def collQuery : Nat := 0x0504
def collUndefine : Nat := 0x0505
def cntConfig : Nat := 0x0601
def cntCatalog : Nat := 0x0602
def cntFreeze : Nat := 0x0603
def cntRelease : Nat := 0x0604
def cntSnapshot : Nat := 0x0605
def cntLogRead : Nat := 0x0606
def henWatch : Nat := 0x0607
def henRelease : Nat := 0x0608
def henUnwatch : Nat := 0x0609
def mediaOpen : Nat := 0x0701
def mediaFeed : Nat := 0x0702
def mediaRelease : Nat := 0x0703
def mediaClose : Nat := 0x0704
def mediaConfig : Nat := 0x0705
def pwrStatus : Nat := 0x0801
def pwrCapSet : Nat := 0x0802
def faultPolicy : Nat := 0x0901
def faultTimeSet : Nat := 0x0902
def faultCperRead : Nat := 0x0903
def faultRetireClear : Nat := 0x0904
def idRead : Nat := 0x0A01
def idCapRead : Nat := 0x0A02
def idAssume : Nat := 0x0A03
def flashRead : Nat := 0x0B01
def flashErase : Nat := 0x0B02
def flashWrite : Nat := 0x0B03
def flashImageCommit : Nat := 0x0B04

end Sys2Proof.CmdCode

namespace Sys2Proof.Cnt

def ME_BUSY : Nat := 0x0100
def ME_THROTTLE : Nat := 0x0101
def ME_STALL_SLOT : Nat := 0x0102
def ME_STALL_MCAST : Nat := 0x0103
def ME_STALL_BANK : Nat := 0x0104
def ME_STALL_LOAD : Nat := 0x0105
def ME_EMPTY : Nat := 0x0106
def ME_FENCED : Nat := 0x0107
def ME_CYC_4BIT : Nat := 0x0108
def ME_CYC_8BIT : Nat := 0x0109
def ME_CYC_16BIT : Nat := 0x010A
def ME_CYC_32BIT : Nat := 0x010B
def ME_UNCHECKED : Nat := 0x010C
def ME_NAN : Nat := 0x010D
def ME_SAT : Nat := 0x010E
def VE_ISSUE : Nat := 0x0200
def VE_PIPE_BUSY : Nat := 0x0201
def SFU_BUSY : Nat := 0x0202
def VE_MISS_WAIT : Nat := 0x0203
def WX_RANGE : Nat := 0x0204
def SOFTMAX_RERUN : Nat := 0x0205
def SOFTMAX_UNRESOLVED : Nat := 0x0206
def ARG_FLUSH : Nat := 0x0207
def EMPTY_ROW : Nat := 0x0208
def RMS_RANGE : Nat := 0x0209
def NAN_TO_INT : Nat := 0x020A
def VE_NAN : Nat := 0x020B
def IDLE_WAIT_INPUT : Nat := 0x0300
def IDLE_WAIT_INPUT_OVERRUN : Nat := 0x0301
def IDLE_BLOCKED_OUTPUT : Nat := 0x0302
def IDLE_OVERRUN_DEFER : Nat := 0x0303
def IDLE_J1_PREEMPT : Nat := 0x0304
def IDLE_STEP_WAIT : Nat := 0x0305
def IDLE_THROTTLE : Nat := 0x0306
def STAGE_RUN : Nat := 0x0307
def IDLE_SLACK : Nat := 0x0308
def TILES_SKIPPED_BOUND : Nat := 0x0310
def TILES_SKIPPED_RULE : Nat := 0x0311
def TILES_MASKED : Nat := 0x0312
def STEALS : Nat := 0x0313
def BEAT_OVERRUN : Nat := 0x0314
def BEAT_MISS : Nat := 0x0315
def J1_DISCARD_NS : Nat := 0x0316
def PWR_THROTTLE : Nat := 0x0317
def REPLAY_LOCAL : Nat := 0x0318
def REPLAY_CYCLES : Nat := 0x0319
def ESCALATIONS : Nat := 0x031A
def PF_ISSUED : Nat := 0x0320
def PF_DROPPED : Nat := 0x0321
def PF_TIMELY : Nat := 0x0322
def PF_LATE : Nat := 0x0323
def PF_UNUSED : Nat := 0x0324
def BANK_WAIT_ENG_LD : Nat := 0x0400
def BANK_WAIT_ENG_ST : Nat := 0x0401
def BANK_WAIT_VE : Nat := 0x0402
def BANK_WAIT_ATT_RD : Nat := 0x0403
def BANK_WAIT_ATT_WR : Nat := 0x0404
def BANK_WAIT_XFER : Nat := 0x0405
def BANK_WAIT_TRANSPOSE : Nat := 0x0406
def CS_CE : Nat := 0x0407
def CC_HIT : Nat := 0x0500
def CC_MISS : Nat := 0x0501
def CC_PARITY : Nat := 0x0502
def LLM_HIT : Nat := 0x0600
def LLM_MISS : Nat := 0x0601
def LLM_WRITEBACK : Nat := 0x0602
def LLM_CE : Nat := 0x0603
def HBM_RD_BYTES : Nat := 0x0700
def HBM_WR_BYTES : Nat := 0x0701
def HBM_CE : Nat := 0x0702
def HBM_IF_RETRY : Nat := 0x0703
def HBM_POISON_READ : Nat := 0x0704
def SCRUB_GRANULES : Nat := 0x0705
def SCRUB_FORCED : Nat := 0x0706
def NM_ADDS : Nat := 0x0707
def OX_GRANULES : Nat := 0x0708
def NM_NAN : Nat := 0x0709
def NM_INT_WRAP : Nat := 0x070A
def PORT_TX_BYTES : Nat := 0x0800
def PORT_RX_BYTES : Nat := 0x0801
def LINK_REPLAY : Nat := 0x0802
def CREDIT_WAIT_VC0 : Nat := 0x0808
def T_DUP : Nat := 0x0810
def E2E_CRC : Nat := 0x0811
def REORDER_FULL : Nat := 0x0812
def NO_ROUTE : Nat := 0x0813
def ROUTE_EPOCH_MISS : Nat := 0x0814
def DETOUR_FWD : Nat := 0x0815
def T_STALE : Nat := 0x0816
def T_CTX_WAIT : Nat := 0x0817
def FAB_BADOP : Nat := 0x0818
def FAB_HOPS : Nat := 0x0819
def DETOUR_FAIL : Nat := 0x081A
def COLL_BYTES : Nat := 0x0900
def COLL_WAIT_NS : Nat := 0x0901
def COLL_REJECT : Nat := 0x0902
def OXU_GRANULES : Nat := 0x0A00
def OXU_NAN : Nat := 0x0A01
def CODEC_SLOTS_ENC : Nat := 0x0B00
def CODEC_SLOTS_DEC : Nat := 0x0B01
def CODEC_QFULL : Nat := 0x0B02
def CODEC_FAIL : Nat := 0x0B03
def MEDIA_FEED_BUSY : Nat := 0x0B10
def MEDIA_RING_WAIT_NS : Nat := 0x0B11
def MEDIA_SYNTAX : Nat := 0x0B12
def MEDIA_GRAIN_SKIPPED : Nat := 0x0B13
def MBX_BUSY : Nat := 0x0C00
def MBX_NOT_READY : Nat := 0x0C01
def GRD_IGNORED : Nat := 0x0C02
def REFEREE_SERVED : Nat := 0x0C03
def REFEREE_CYCLES : Nat := 0x0C04
def FREEZE_IGNORED : Nat := 0x0C05
def HEN_DROP : Nat := 0x0C06
def LOG_DROP : Nat := 0x0C07
def LOG_WRAP : Nat := 0x0C08
def BAR2_HOLD_TIMEOUT : Nat := 0x0C09

end Sys2Proof.Cnt
end

