-- ==== Sys2Proof/Machine/Num.lean ====
section
/-! DEFINITION. Number formats and arithmetic (R29 to R64). A code of a format is decoded to the exact
value it stands for, operations are exact on values, and a result is rounded once into a format. -/

namespace Sys2Proof

/-- The exact value of a code: NaN, an infinity, or ±m × 2^e with its sign kept for zeros. -/
inductive FVal where
  | nan
  | inf (neg : Bool)
  | num (neg : Bool) (m : Nat) (e : Int)
  deriving DecidableEq, Repr

/-- The floating-point formats and element formats of R30. -/
inductive FF where
  | fp32 | bf16 | fp16 | e5m2 | e4m3 | e3m2 | e2m3 | e2m1 | wx32
  deriving DecidableEq, Repr

namespace FF
/-- Exponent bits (R30). -/
def eb : FF → Nat
  | fp32 => 8 | bf16 => 8 | fp16 => 5 | e5m2 => 5 | e4m3 => 4 | e3m2 => 3 | e2m3 => 2 | e2m1 => 2 | wx32 => 15
/-- Fraction bits (R30). -/
def fb : FF → Nat
  | fp32 => 23 | bf16 => 7 | fp16 => 10 | e5m2 => 2 | e4m3 => 3 | e3m2 => 2 | e2m3 => 3 | e2m1 => 1 | wx32 => 16
/-- Exponent bias (R30). -/
def bias : FF → Nat
  | fp32 => 127 | bf16 => 127 | fp16 => 15 | e5m2 => 15 | e4m3 => 7 | e3m2 => 3 | e2m3 => 1 | e2m1 => 1 | wx32 => 16383
/-- Whether the format has infinities (R30). -/
def hasInf : FF → Bool
  | fp32 | bf16 | fp16 | e5m2 | wx32 => true
  | _ => false
/-- Element width in bits. -/
def width (f : FF) : Nat := 1 + f.eb + f.fb
/-- Unbiased exponent of the smallest normal number. -/
def emin (f : FF) : Int := 1 - (f.bias : Int)
/-- Largest finite magnitude as (m, e): value m × 2^e (R30). -/
def maxFin : FF → Nat × Int
  | e4m3 => (14, 5)
  | e3m2 => (7, 2)
  | e2m3 => (15, -1)
  | e2m1 => (3, 1)
  | f => (2 ^ (f.fb + 1) - 1, (2 ^ f.eb - 2 : Nat) - (f.bias : Int) - f.fb)
/-- The canonical NaN of R32; formats without a NaN never receive one (R57). -/
def nanCode : FF → Nat
  | fp32 => 0x7FC00000 | bf16 => 0x7FC0 | fp16 => 0x7E00 | e5m2 => 0x7E | e4m3 => 0x7F | wx32 => 0x7FFF8000
  | e3m2 | e2m3 | e2m1 => 0

/-- The value a code stands for (R30, R34). -/
def decode (f : FF) (c : Nat) : FVal :=
  let neg := bit c (f.eb + f.fb)
  let ex := bits c (f.eb + f.fb - 1) f.fb
  let fr := bits c (f.fb - 1) 0
  if f.hasInf && ex == 2 ^ f.eb - 1 then (if fr = 0 then .inf neg else .nan)
  else if f == .e4m3 && ex == 15 && fr == 7 then .nan
  else if ex = 0 then (if f = .wx32 then .num neg 0 0 else .num neg fr (1 - (f.bias : Int) - f.fb))
  else .num neg (2 ^ f.fb + fr) ((ex : Int) - f.bias - f.fb)

/-- The code of the sign and a magnitude m × 2^e that lies on the format's grid. -/
def pack (f : FF) (neg : Bool) (m : Nat) (e : Int) : Nat :=
  let s := place (b2n neg) (f.eb + f.fb)
  if m = 0 then s
  else
    let k := Nat.log2 m
    let ex : Int := e + k
    if ex < f.emin then
      (if f = .wx32 then s else s + (m * 2 ^ (e - (f.emin - f.fb)).toNat))
    else
      let fr := if k ≤ f.fb then m * 2 ^ (f.fb - k) else m / 2 ^ (k - f.fb)
      s + place (ex + f.bias).toNat f.fb + (fr - 2 ^ f.fb)
end FF

/-- The two rounding modes of R48; stochastic rounding carries the element's 16-bit random value. -/
inductive Rnd where
  | rne
  | sr (rnd : Nat)
  deriving DecidableEq, Repr

/-- Whether a dropped remainder `r` of `2^sh` units rounds the truncated `t` up (R48, R52). -/
def roundsUp (md : Rnd) (t r sh : Nat) : Bool :=
  match md with
  | .rne => decide (2 * r > 2 ^ sh) || (decide (2 * r = 2 ^ sh) && t % 2 == 1)
  | .sr rnd => decide (65536 ≤ 65536 * r / 2 ^ sh + rnd)

/-- m × 2^e on the grid of spacing 2^q. -/
def roundGrid (md : Rnd) (m : Nat) (e q : Int) : Nat × Int :=
  if q ≤ e then (m * 2 ^ (e - q).toNat, q)
  else
    let sh := (q - e).toNat
    let t := m / 2 ^ sh
    let r := m % 2 ^ sh
    (if roundsUp md t r sh then t + 1 else t, q)

/-- m × 2^e rounded to the precision of `f` with the exponent unbounded above, and on the subnormal grid
below the normal range (R50); WX32 has no subnormal grid (R34). -/
def roundMag (f : FF) (md : Rnd) (m : Nat) (e : Int) : Nat × Int :=
  if m = 0 then (0, 0)
  else
    let q0 : Int := e + Nat.log2 m - f.fb
    let q := if f = .wx32 then q0 else max q0 (f.emin - f.fb)
    roundGrid md m e q

/-- Whether m × 2^e exceeds m' × 2^e'. -/
def magGt (m : Nat) (e : Int) (m' : Nat) (e' : Int) : Bool :=
  let lo := min e e'
  decide (m * 2 ^ (e - lo).toNat > m' * 2 ^ (e' - lo).toNat)

/-- The overflow result of R51. -/
def overflowCode (f : FF) (sat neg : Bool) : Nat :=
  let mx := f.maxFin
  if sat then f.pack neg mx.1 mx.2
  else if f.hasInf then place (b2n neg) (f.eb + f.fb) + place (2 ^ f.eb - 1) f.fb
  else if f = .e4m3 then f.nanCode
  else f.pack neg mx.1 mx.2

/-- Conversion of a value into a format (R50 to R52): the code, and whether it saturated or overflowed. -/
def FF.round (f : FF) (md : Rnd) (sat : Bool) : FVal → Nat × Bool
  | .nan => (f.nanCode, false)
  | .inf neg => (overflowCode f sat neg, true)
  | .num neg m e =>
    let r := roundMag f md m e
    let mx := f.maxFin
    if magGt r.1 r.2 mx.1 mx.2 then (overflowCode f sat neg, true)
    else (f.pack neg r.1 r.2, false)

/-- The code of a value rounded by RNE with Sat = 0: the rounding of all arithmetic (R49). -/
def FF.rne (f : FF) (v : FVal) : Nat := (f.round .rne false v).1

namespace FVal
/-- A signed integer as a value; zero is +0. -/
def ofInt (i : Int) : FVal := .num (decide (i < 0)) i.natAbs 0
/-- ±m × 2^e as a signed integer multiple of 2^lo. -/
def scaled (neg : Bool) (m : Nat) (e lo : Int) : Int :=
  let k : Int := (m * 2 ^ (e - lo).toNat : Nat)
  if neg then -k else k
/-- Exact product; a product of infinity and zero is NaN (R46). -/
def mul : FVal → FVal → FVal
  | nan, _ => nan
  | _, nan => nan
  | inf a, inf b => inf (a != b)
  | inf a, num b m _ => if m = 0 then nan else inf (a != b)
  | num a m _, inf b => if m = 0 then nan else inf (a != b)
  | num a m e, num b n g => num (a != b) (m * n) (e + g)
/-- Exact sum; an exact zero is +0 unless both addends are −0, opposite infinities give NaN (R46). -/
def add : FVal → FVal → FVal
  | nan, _ => nan
  | _, nan => nan
  | inf a, inf b => if a = b then inf a else nan
  | inf a, num _ _ _ => inf a
  | num _ _ _, inf b => inf b
  | num a m e, num b n g =>
    let lo := min e g
    let k := scaled a m e lo + scaled b n g lo
    if k = 0 then num (a && b && decide (m = 0) && decide (n = 0)) 0 0
    else num (decide (k < 0)) k.natAbs lo
/-- Sign change. -/
def negate : FVal → FVal
  | nan => nan
  | inf a => inf (!a)
  | num a m e => num (!a) m e
/-- Multiplication by 2^k, exact. -/
def shift (k : Int) : FVal → FVal
  | num a m e => num a m (e + k)
  | v => v
/-- Is NaN. -/
def isNan : FVal → Bool
  | nan => true
  | _ => false
/-- Is an infinity. -/
def isInf : FVal → Bool
  | inf _ => true
  | _ => false
/-- Is finite. -/
def isFinite : FVal → Bool
  | num _ _ _ => true
  | _ => false
/-- Is a zero of either sign. -/
def isZero : FVal → Bool
  | num _ m _ => decide (m = 0)
  | _ => false
/-- Order of two values that are not NaN, with −0 equal to +0. -/
def lt : FVal → FVal → Bool
  | nan, _ => false
  | _, nan => false
  | inf a, inf b => a && !b
  | inf a, num _ _ _ => a
  | num _ _ _, inf b => !b
  | num a m e, num b n g =>
    let lo := min e g
    decide (scaled a m e lo < scaled b n g lo)
/-- Equality of two values under IEEE comparison. -/
def eq : FVal → FVal → Bool
  | nan, _ => false
  | _, nan => false
  | inf a, inf b => a == b
  | inf _, num _ _ _ => false
  | num _ _ _, inf _ => false
  | num a m e, num b n g =>
    let lo := min e g
    decide (scaled a m e lo = scaled b n g lo)
/-- The sign of a value. -/
def neg? : FVal → Bool
  | nan => false
  | inf a => a
  | num a _ _ => a
/-- Order that also puts −0 below +0 (R198, R534). -/
def ltSigned (a b : FVal) : Bool :=
  lt a b || (a.isZero && b.isZero && a.neg? && !b.neg?)
/-- Unbiased exponent of a finite non-zero value: floor(log2 |x|). -/
def expo : FVal → Int
  | num _ m e => e + Nat.log2 m
  | _ => 0
/-- Exact sum of a list of values; the empty sum is +0. -/
def sum : List FVal → FVal
  | [] => num false 0 0
  | v :: vs => vs.foldl add v
end FVal

/-- A value rounded to an integer under a mode, for the integer targets of R58. -/
def roundInt (md : Rnd) : FVal → Int
  | .num neg m e =>
    let t := (roundGrid md m e 0).1
    if neg then -(t : Int) else t
  | _ => 0

/-- FP32 etc. to a two's complement integer of `w` bits: saturation, and NaN gives the most negative value
(R58, R59). Answers the code, whether it saturated and whether the source was NaN. -/
def toIntCode (w : Nat) (md : Rnd) (v : FVal) : Nat × Bool × Bool :=
  let lo : Int := -(2 ^ (w - 1) : Nat)
  let hi : Int := (2 ^ (w - 1) : Nat) - 1
  let enc (i : Int) : Nat := (i % (2 ^ w : Nat)).toNat
  match v with
  | .nan => (enc lo, false, true)
  | .inf neg => (enc (if neg then lo else hi), true, false)
  | v =>
    let i := roundInt md v
    if i < lo then (enc lo, true, false) else if i > hi then (enc hi, true, false) else (enc i, false, false)

/-- The exact quotient of two finite values, b non-zero, rounded once by RNE into `f`. The quotient is
carried with a sticky bit far below the rounding position. -/
def quotCode (f : FF) (a b : FVal) : Nat :=
  match a, b with
  | .num sa m e, .num sb n g =>
    if n = 0 then f.nanCode
    else
      let k := 2 * f.fb + 8 + Nat.log2 n
      let q := m * 2 ^ k / n
      let r := m * 2 ^ k % n
      f.rne (.num (sa != sb) (2 * q + (if r = 0 then 0 else 1)) (e - g - k - 1))
  | _, _ => f.nanCode

/-! ### FP32 and WX32 operations on codes, each rounded once by RNE (R49, R192) -/

/-- FP32 a + b. -/
def f32Add (a b : Nat) : Nat := FF.fp32.rne (FVal.add (FF.fp32.decode a) (FF.fp32.decode b))
/-- FP32 a × b. -/
def f32Mul (a b : Nat) : Nat := FF.fp32.rne (FVal.mul (FF.fp32.decode a) (FF.fp32.decode b))
/-- FP32 a × b + c with one rounding. -/
def f32Fma (a b c : Nat) : Nat :=
  FF.fp32.rne (FVal.add (FVal.mul (FF.fp32.decode a) (FF.fp32.decode b)) (FF.fp32.decode c))
/-- FP32 a − b. -/
def f32Sub (a b : Nat) : Nat := FF.fp32.rne (FVal.add (FF.fp32.decode a) (FF.fp32.decode b).negate)
/-- WX32 a + b, and whether it overflowed from finite operands (R62). -/
def wxAdd (a b : Nat) : Nat × Bool :=
  let v := FVal.add (FF.wx32.decode a) (FF.wx32.decode b)
  let r := FF.wx32.round .rne false v
  (r.1, r.2 && v.isFinite)
/-- WX32 a × b, and whether it overflowed from finite operands (R62). -/
def wxMul (a b : Nat) : Nat × Bool :=
  let v := FVal.mul (FF.wx32.decode a) (FF.wx32.decode b)
  let r := FF.wx32.round .rne false v
  (r.1, r.2 && v.isFinite)
/-- VNRMW (R192): WX32 quotient rounded once to FP32; the flag tells 0 ÷ 0. -/
def wxQuot (a b : Nat) : Nat × Bool :=
  match FF.wx32.decode a, FF.wx32.decode b with
  | .nan, _ => (FF.fp32.nanCode, false)
  | _, .nan => (FF.fp32.nanCode, false)
  | .inf _, .inf _ => (FF.fp32.nanCode, false)
  | .inf s, .num t _ _ => (FF.fp32.rne (.inf (s != t)), false)
  | .num s _ _, .inf t => (FF.fp32.pack (s != t) 0 0, false)
  | .num s m e, .num t n g =>
    if n = 0 then (if m = 0 then (0, true) else (FF.fp32.rne (.inf false), false))
    else (quotCode .fp32 (.num s m e) (.num t n g), false)
/-- FP32 to WX32 by RNE (R58); an infinity follows R51 with the given Sat. -/
def f32ToWx (sat : Bool) (a : Nat) : Nat := (FF.wx32.round .rne sat (FF.fp32.decode a)).1
/-- The smaller of two FP32 codes; NaN wins, −0 orders below +0 (R198). -/
def f32Min (a b : Nat) : Nat :=
  let x := FF.fp32.decode a
  let y := FF.fp32.decode b
  if x.isNan || y.isNan then FF.fp32.nanCode else if FVal.ltSigned y x then b else a
/-- The larger of two FP32 codes; NaN wins, −0 orders below +0 (R198). -/
def f32Max (a b : Nat) : Nat :=
  let x := FF.fp32.decode a
  let y := FF.fp32.decode b
  if x.isNan || y.isNan then FF.fp32.nanCode else if FVal.ltSigned x y then b else a

/-! ### Special functions (R35, R61, R63, R64) -/

/-- Whether a finite value lies in the WX32 range −11,355 ≤ x ≤ 11,355 (R35). -/
def inWxRange : FVal → Bool
  | .num _ m e => !(magGt m e 11355 0)
  | _ => false

/-- Whether an exp argument is out of range (R35, R61): +infinity and every finite argument outside the range. -/
def expOutOfRange : FVal → Bool
  | .nan => false
  | .inf neg => !neg
  | v => !(inWxRange v)

/-- exp, FP32 to WX32: specials of R64; in range a free value that is a positive finite normal WX32 number
(R35, R63); out of range +infinity or +0 by sign, with the range flag set by the caller. -/
def sfuExp (a : Nat) : Nat :=
  match FF.fp32.decode a with
  | .nan => FF.wx32.nanCode
  | .inf neg => if neg then 0 else 0x7FFF0000
  | .num neg m e =>
    if m = 0 then 0x3FFF0000
    else if inWxRange (.num neg m e) then
      let c := (Config.sfu 0 (BitVec.ofNat 32 a)).toNat
      if bits c 30 16 = 0 || bits c 30 16 = 0x7FFF || bit c 31 then 0x3FFF0000 else c
    else if neg then 0 else 0x7FFF0000

/-- Whether the FP32 code `c` lies within 1 ULP of the exact reciprocal of a finite non-zero value (R63). -/
def recipOk (v : FVal) (c : Nat) : Bool :=
  match v, FF.fp32.decode c with
  | .num s m e, .num t n g =>
    -- |n·2^g·m·2^e − 1| ≤ ulp·m·2^e, the ULP being that of the exact value's binade
    let ex : Int := -(e + Nat.log2 m) - (if 2 ^ Nat.log2 m = m then 0 else 1)
    let ul : Int := max (ex - 23) (-149)
    let lo := min (min (g + e) 0) (ul + e)
    let p : Int := (m * n * 2 ^ (g + e - lo).toNat : Nat)
    let one : Int := (2 ^ (0 - lo).toNat : Nat)
    let tol : Int := (m * 2 ^ (ul + e - lo).toNat : Nat)
    s == t && decide ((p - one).natAbs ≤ tol.natAbs)
  | _, _ => false

/-- Reciprocal, FP32 (R63, R64): a free value within the bound; the correctly rounded quotient is the value
taken where the free one breaks the bound. -/
def sfuRecip (a : Nat) : Nat :=
  match FF.fp32.decode a with
  | .nan => FF.fp32.nanCode
  | .inf neg => FF.fp32.pack neg 0 0
  | .num neg m e =>
    if m = 0 then FF.fp32.rne (.inf neg)
    else
      let c := (Config.sfu 3 (BitVec.ofNat 32 a)).toNat
      if recipOk (.num neg m e) c then c else quotCode .fp32 (.num false 1 0) (.num neg m e)

/-- The functions of VSFU other than exp and reciprocal, by Fn of R189, with the specials of R64; the rest is
the free value of R63. GELU above 10 and SiLU above 88 are x exactly. -/
def sfuOther (fn a : Nat) : Nat :=
  let f : FF := if fn = 2 then .wx32 else .fp32
  let free := (Config.sfu fn (BitVec.ofNat 32 a)).toNat
  let above (m : Nat) (e : Int) (k : Nat) : Bool := magGt m e k 0
  match f.decode a with
  | .nan => FF.fp32.nanCode
  | .inf neg =>
    if fn = 1 || fn = 2 then (if neg then FF.fp32.nanCode else FF.fp32.rne (.inf false))
    else if fn = 4 then (if neg then FF.fp32.nanCode else 0)
    else if fn = 5 then (if neg then 0xBF800000 else 0x3F800000)
    else (if neg then 0x80000000 else FF.fp32.rne (.inf false))
  | .num neg m e =>
    if m = 0 then
      (if fn = 1 || fn = 2 then FF.fp32.rne (.inf true)
       else if fn = 4 then FF.fp32.rne (.inf neg)
       else FF.fp32.pack neg 0 0)
    else if fn = 1 || fn = 2 || fn = 4 then (if neg then FF.fp32.nanCode else free)
    else if fn = 6 || fn = 7 then (if !neg && above m e 10 then a else free)
    else if fn = 8 then (if !neg && above m e 88 then a else free)
    else free

/-- The value of VSFU's function `fn` (R189). -/
def sfuEval (fn a : Nat) : Nat :=
  if fn = 0 then sfuExp a else if fn = 3 then sfuRecip a else sfuOther fn a

/-- Reciprocal square root, FP32 (R189 Fn 4), as the optimizer and the row instructions use it. -/
def sfuRsqrt (a : Nat) : Nat := sfuEval 4 a

/-! ### Formats of R70 -/

/-- The format codes of R70. -/
inductive Fmt where
  | fp32 | bf16 | fp16 | e4m3 | e5m2 | mxfp8e4 | mxfp8e5 | mxfp6e3 | mxfp6e2 | mxfp4 | mxint8 | sq6 | sq4 | int8 | int4
  deriving DecidableEq, Repr

namespace Fmt
/-- The format a code names; none for a reserved code (R70). -/
def ofCode : Nat → Option Fmt
  | 0x00 => some fp32 | 0x01 => some bf16 | 0x02 => some fp16 | 0x03 => some e4m3 | 0x04 => some e5m2
  | 0x05 => some mxfp8e4 | 0x06 => some mxfp8e5 | 0x07 => some mxfp6e3 | 0x08 => some mxfp6e2
  | 0x09 => some mxfp4 | 0x0A => some mxint8 | 0x0B => some sq6 | 0x0C => some sq4
  | 0x0D => some int8 | 0x0E => some int4
  | _ => none
/-- Element width in bits (R29). -/
def width : Fmt → Nat
  | fp32 => 32
  | bf16 | fp16 => 16
  | e4m3 | e5m2 | mxfp8e4 | mxfp8e5 | mxint8 | int8 => 8
  | mxfp6e3 | mxfp6e2 | sq6 => 6
  | mxfp4 | sq4 | int4 => 4
/-- Block-scaled with 1-D blocks of 32 (R37). -/
def isMx : Fmt → Bool
  | mxfp8e4 | mxfp8e5 | mxfp6e3 | mxfp6e2 | mxfp4 | mxint8 => true
  | _ => false
/-- Block-scaled with square blocks (R38). -/
def isSq : Fmt → Bool
  | sq6 | sq4 => true
  | _ => false
/-- Has a scale plane. -/
def scaled (f : Fmt) : Bool := f.isMx || f.isSq
/-- Is INT8 or INT4. -/
def isInt : Fmt → Bool
  | int8 | int4 => true
  | _ => false
/-- Legal as an A operand (R70). -/
def okA (f : Fmt) : Bool := !f.isSq
/-- Legal as a B operand, plain or transposed (R70, R41). -/
def okB (f : Fmt) (tr : Bool) : Bool := !(tr && f.isMx)
/-- Legal as a TST target (R70). -/
def okTst (f : Fmt) : Bool := !f.isSq
/-- The operand class's MACs per cell per cycle, as a group size (R42). -/
def g : Fmt → Nat
  | fp32 => 1
  | bf16 | fp16 => 2
  | mxfp4 | sq4 | int4 => 8
  | _ => 4
/-- Largest K of a buffer half (R68). -/
def maxK (f : Fmt) : Nat :=
  match f.width with
  | 32 => 64 | 16 => 128 | 8 => 256 | 6 => 320 | _ => 512
/-- The element's own floating-point format, for float formats and float-element blocks. -/
def elemFF : Fmt → FF
  | fp32 => .fp32 | bf16 => .bf16 | fp16 => .fp16 | e4m3 => .e4m3 | e5m2 => .e5m2
  | mxfp8e4 => .e4m3 | mxfp8e5 => .e5m2 | mxfp6e3 => .e3m2 | mxfp6e2 => .e2m3 | mxfp4 => .e2m1
  | sq6 => .e3m2 | sq4 => .e2m1
  | _ => .fp32
/-- Largest unbiased exponent of the element format (R55). -/
def emax : Fmt → Int
  | mxfp4 | sq4 => 2
  | mxfp6e2 => 2
  | mxfp6e3 | sq6 => 4
  | mxfp8e4 => 8
  | mxfp8e5 => 15
  | _ => 0
/-- The value of an element code, before any block scale (R30, R33, R37). -/
def elemVal (f : Fmt) (c : Nat) : FVal :=
  match f with
  | int8 => FVal.ofInt (signed 8 c)
  | int4 => FVal.ofInt (signed 4 c)
  | mxint8 => (FVal.ofInt (signed 8 c)).shift (-6)
  | _ => f.elemFF.decode c
/-- The value of an element under its block's E8M0 scale byte (R36, R58); a scale of 0xFF gives NaN. -/
def scaledVal (f : Fmt) (c sc : Nat) : FVal :=
  if f.scaled then (if sc % 256 = 0xFF then .nan else (f.elemVal c).shift ((sc % 256 : Nat) - 127))
  else f.elemVal c
/-- Pairing legality of R42: both float or block-scaled, or both INT8/INT4. -/
def pairs (a b : Fmt) : Bool := a.isInt == b.isInt
end Fmt

/-- Group size of a pairing (R42): the lower of the two operands' rates. -/
def pairG (a b : Fmt) : Nat := min a.g b.g

/-- Array cycles of a multiply-accumulate over K (R66). -/
def arrayCycles (a b : Fmt) (k : Nat) : Nat := if pairG a b = 1 then 2 * k else k / pairG a b

/-- A bit field of `w` bits at bit index `i × w` of a byte list: the packing of R33 and R39. -/
def packedAt (bs : List Byte) (w i : Nat) : Nat :=
  let b := i * w
  bits (ofBytes (slice bs (b / 8) 5)) (b % 8 + w - 1) (b % 8)

/-- Element codes packed least significant first into bytes (R33, R39). -/
def packCodes (w : Nat) (cs : List Nat) : List Byte :=
  let v := cs.foldr (fun c acc => c % 2 ^ w + acc * 2 ^ w) 0
  toBytes (cdiv (cs.length * w) 8) v

/-! ### Conversion into block-scaled formats (R55 to R57) -/

/-- A block's scale and element codes, chosen over the listed values (R55 to R57): `md i` is the rounding mode
of element i. A NaN or infinity in the block gives scale 0xFF and zero elements. -/
def blockConvert (f : Fmt) (md : Nat → Rnd) (vs : List FVal) : Nat × List Nat :=
  if vs.any (fun v => !v.isFinite) then (0xFF, vs.map (fun _ => 0))
  else if vs.all (fun v => v.isZero) then (0x7F, vs.map (fun _ => 0))
  else
    let ex := vs.foldl (fun (a : Int) v => if v.isZero then a else max a v.expo) (-100000)
    let x : Int := max (-127) (min 127 (ex - f.emax))
    let one (i : Nat) (v : FVal) : Nat :=
      let y := v.shift (-x)
      if f = .mxint8 then
        let k := roundInt (md i) (y.shift 6)
        let k := max (-127) (min 127 k)
        (k % 256).toNat
      else
        ((f.elemFF).round (md i) true y).1
    ((x + 127).toNat, (vs.zipIdx).map (fun p => one p.2 p.1))

/-- What one element conversion counted: saturated or overflowed, and NaN into an integer (R59). -/
structure ConvNote where
  sat : Nat := 0
  nanInt : Nat := 0
  deriving DecidableEq, Repr

/-- Conversion of one value into an unscaled format (R50 to R52, R58, R59). -/
def convElem (f : Fmt) (md : Rnd) (sat : Bool) (v : FVal) : Nat × ConvNote :=
  match f with
  | .int8 => let r := toIntCode 8 md v; (r.1, ⟨b2n r.2.1, b2n r.2.2⟩)
  | .int4 => let r := toIntCode 4 md v; (r.1, ⟨b2n r.2.1, b2n r.2.2⟩)
  | _ => let r := f.elemFF.round md sat v; (r.1, ⟨b2n r.2, 0⟩)

/-- The store of an FP32 code into an FP32 target: finite values, subnormals and NaN unchanged, an infinity
by R51 (R58). -/
def f32Store (sat : Bool) (c : Nat) : Nat :=
  match FF.fp32.decode c with
  | .inf neg => overflowCode .fp32 sat neg
  | _ => c

/-- Conversion of one FP32 code by a store (R58): FP32 targets keep NaN payloads. -/
def convF32 (f : Fmt) (md : Rnd) (sat : Bool) (c : Nat) : Nat × ConvNote :=
  if f = .fp32 then (f32Store sat c, ⟨b2n ((FF.fp32.decode c).isInf && sat), 0⟩)
  else convElem f md sat (FF.fp32.decode c)

/-- The pairwise tree of R184 over a list: adjacent entries combine, an odd last entry passes up. The fuel is
the list's length. -/
def treeFold {α : Type} (f : α → α → α) : Nat → List α → List α
  | 0, l => l
  | _ + 1, [] => []
  | _ + 1, [a] => [a]
  | k + 1, l => treeFold f k (pairUp f l)
where
  /-- One level of the tree. -/
  pairUp (f : α → α → α) : List α → List α
    | a :: b :: t => f a b :: pairUp f t
    | l => l

/-- The root of the pairwise tree over a list, `d` for an empty list. -/
def treeReduce {α : Type} (f : α → α → α) (d : α) (l : List α) : α :=
  (treeFold f l.length l).headD d

end Sys2Proof
end

