-- ==== Sys2Proof/Machine/State.lean ====
section
/-! DEFINITION. The state of the module, the reasons a step can stop, and the state after reset. -/

namespace Sys2Proof.Machine

/-- A step of this block never stops with a fault: every error the manual describes is a status, an event or a
fenced unit of the next state. The type has no constructor. Safe. -/
inductive Fault where
  deriving DecidableEq, Repr

/-- Why a command has no meaning. -/
inductive Refusal where
  /-- Raised by an arm of `exec` that has no meaning yet, with the row's mnemonic. Safe. -/
  | notModelled (mnemonic : String)
  deriving DecidableEq, Repr

/-- The module's state: everything the manual gives the PM1 that a command can read or change, the queue of
commands that wait, and the counter free values are drawn with (DESIGN CHOICE, log entry 4). -/
structure State where
  /-- Commands that wait, first in, first out. -/
  pending : List Instr := []
  /-- Nanoseconds since power good: the timestamp of R536. -/
  now : Nat := 0
  /-- The model's own: number of free values drawn so far. -/
  free : Nat := 0
  sys : Sys := {}
  power : Power := {}
  pins : Pins := {}
  ident : Ident := {}
  regs : Regs := {}
  mbx : Mbx := {}
  obs : Obs := {}
  log : FaultLog := {}
  goose : Goose := {}
  jobs : PerCtx Job := ⟨{}, {}⟩
  clusters : Vector Cluster 40 := Vector.replicate 40 {}
  mem : MemSt := {}
  fab : Fabric := {}
  coll : Coll := {}
  media : Media := {}
  deriving DecidableEq, Repr

/-- The machine right after power good and the reset that comes with it: every field at the value the manual
states, or at the value the assumption log names (entries 11 to 15). -/
def State.reset : State := {}

end Sys2Proof.Machine
end

