-- ==== Sys2Proof/Machine/Ops.lean ====
section
/-! DEFINITION. The operations every meaning shares: units, counters and freezes, packets injected into the
fabric, fault records and events, host memory, responses, device-local memory and its checks. -/

namespace Sys2Proof.Machine

/-! ## Units -/

/-- One cluster changed. -/
def State.updCluster (s : State) (c : Cl) (f : Cluster → Cluster) : State :=
  { s with clusters := upd s.clusters c f }

/-- One engine changed. -/
def State.updEngine (s : State) (c : Cl) (e : En) (f : Engine → Engine) : State :=
  s.updCluster c (fun k => { k with engines := upd k.engines e f })

/-- One VE thread changed. -/
def State.updThread (s : State) (c : Cl) (t : Th) (f : Thread → Thread) : State :=
  s.updCluster c (fun k => { k with threads := upd k.threads t f })

/-- One context's sequencer state of a cluster changed. -/
def State.updSeq (s : State) (c : Cl) (x : Ctx) (f : SeqCtx → SeqCtx) : State :=
  s.updCluster c (fun k => { k with seq := k.seq.set x (f (k.seq.get x)) })

/-- A cluster's stage of a context changed, when there is one. -/
def State.updStage (s : State) (c : Cl) (x : Ctx) (f : Stage → Stage) : State :=
  s.updSeq c x (fun q => { q with stage := q.stage.map f })

/-- The stage of a context on a cluster. -/
def State.stage (s : State) (c : Cl) (x : Ctx) : Option Stage := ((s.clusters.get c).seq.get x).stage

/-- The beat a stage is running. -/
def State.run (s : State) (c : Cl) (x : Ctx) : Option BeatRun := (s.stage c x).bind (·.run)

/-- The running beat changed. -/
def State.updRun (s : State) (c : Cl) (x : Ctx) (f : BeatRun → BeatRun) : State :=
  s.updStage c x (fun g => { g with run := g.run.map f })

/-- The command of a running beat that names a descriptor and is still running. -/
def State.cmd (s : State) (c : Cl) (x : Ctx) (d : Fin 64) : Option Cmd :=
  (s.run c x).bind (fun r => r.cmds.find? (fun k => k.desc = d && k.st == .running))

/-- That command changed. -/
def State.updCmd (s : State) (c : Cl) (x : Ctx) (d : Fin 64) (f : Cmd → Cmd) : State :=
  s.updRun c x (fun r => { r with cmds := r.cmds.map (fun k => if k.desc = d && k.st == .running then f k else k) })

/-- A job context changed. -/
def State.updJob (s : State) (x : Ctx) (f : Job → Job) : State := { s with jobs := s.jobs.set x (f (s.jobs.get x)) }

/-- One HBM channel changed. -/
def State.updChan (s : State) (ch : Chan) (f : HbmChan → HbmChan) : State :=
  { s with mem := { s.mem with chans := upd s.mem.chans ch f } }

/-- One fabric port changed. -/
def State.updPort (s : State) (p : Port) (f : FPort → FPort) : State :=
  { s with fab := { s.fab with ports := upd s.fab.ports p f } }

/-- One mailbox queue changed. -/
def State.updQueue (s : State) (q : Fin 16) (f : MQueue → MQueue) : State :=
  { s with mbx := { s.mbx with queues := upd s.mbx.queues q f } }

/-- The number of a context. -/
def ctxNo : Ctx → Nat
  | .j0 => 0
  | .j1 => 1

/-- The context a two-bit code names: J0, J1, or none (R539). -/
def ctxOf : Nat → CtxNo
  | 0 => some .j0
  | 1 => some .j1
  | _ => none

/-- A cluster is in service. -/
def State.clusterUp (s : State) (c : Cl) : Bool := !(s.clusters.get c).absent && !(s.clusters.get c).fenced

/-! ## Counters -/

/-- A count added to one named counter (R516). -/
def addCount (l : List (CntKey × BitVec 64)) (k : CntKey) (n : Nat) : List (CntKey × BitVec 64) :=
  match l with
  | [] => [(k, BitVec.ofNat 64 n)]
  | (k', v) :: l => if k' = k then (k', v + BitVec.ofNat 64 n) :: l else (k', v) :: addCount l k n

/-- The value of a counter: 0 when it has never counted. -/
def getCount (l : List (CntKey × BitVec 64)) (k : CntKey) : BitVec 64 :=
  match l.find? (fun p => p.1 = k) with
  | some p => p.2
  | none => 0

/-- A programmable counter selects an event (R520). -/
def ProgCnt.selects (p : ProgCnt) (k : CntKey) : Bool :=
  p.used && p.code = k.code && (p.unit = 0xFFFF || p.unit = k.unit) && (p.sub = 0xFF || p.sub = k.sub) &&
    (match k.ctx with
     | none => true
     | some .j0 => bit p.ctxMask 0
     | some .j1 => bit p.ctxMask 1)

/-- A programmable counter counts `n` (R521): plainly, or as the largest increment of one beat. -/
def ProgCnt.count (p : ProgCnt) (n : Nat) : ProgCnt :=
  if p.mode = 1 then
    { p with beatInc := p.beatInc + n,
             value := if p.value.toNat < p.beatInc + n then BitVec.ofNat 64 (p.beatInc + n) else p.value }
  else { p with value := p.value + BitVec.ofNat 64 n }

/-- An event counted `n` times, without the freeze a threshold may trigger. -/
def bump0 (s : State) (k : CntKey) (n : Nat) : State :=
  if n = 0 then s else
  { s with obs := { s.obs with
      counters := addCount s.obs.counters k n,
      pcs := if s.obs.frozen then s.obs.pcs else s.obs.pcs.map (fun p => if p.selects k then p.count n else p) } }

/-! ## Packets -/

/-- The 32 header bytes of a packet (R358) with Detour, Vc, Hops and E2eCrc taken as given. -/
def Pkt.header (k : Pkt) (detour vc : Bool) (hops crc : Nat) : List Byte :=
  toBytes 8 (k.cls % 8 + place (k.op % 32) 3 + place (k.dst % 65536) 8 + place (k.src % 65536) 24 +
    place (k.ctx % 4) 40 + place (b2n k.relaxed) 42 + place (b2n detour) 43 + place (b2n vc) 44 +
    place (k.routeEpoch % 256) 48 + place (k.flowEpoch % 256) 56) ++
  toBytes 8 (k.seq % 2 ^ 32 + place (k.len % 2 ^ 14) 32 + place (hops % 256) 48 + place (k.status % 256) 56) ++
  toBytes 8 k.addr ++
  toBytes 8 (k.tag % 65536 + place (k.elemType % 4) 16 + place (b2n k.ret) 18 + place (b2n k.last) 19 +
    place (crc % 2 ^ 32) 32)

/-- The end-to-end CRC of R358. -/
def Pkt.e2e (k : Pkt) : Nat := crc32 (k.header false false 0 0 ++ k.payload)

/-- Bytes of a packet on a link (R358). -/
def Pkt.bytes (k : Pkt) : Nat := 32 + k.payload.length

/-- Pod of a device and its index in the pod (R346). -/
def podOf (dev : Nat) : Nat := (dev - 1) / 512
def podIndex (dev : Nat) : Nat := (dev - 1) % 512

/-- The bank with a given epoch that still forwards (R376). -/
def Fabric.bank? (f : Fabric) (epoch : Nat) : Option RouteBank :=
  f.banks.toList.find? (fun b : RouteBank => (b.st = .active || b.st = .draining) && b.epoch = epoch)

/-- The route epoch stamped at injection (R379). -/
def Fabric.activeEpoch (f : Fabric) : Nat :=
  match f.banks.toList.find? (fun b => b.st = .active) with
  | some b => b.epoch
  | none => 0

/-- The port field and the whole entry a bank gives a destination (R375, R376). -/
def RouteBank.lookup (b : RouteBank) (me dst : Nat) : Nat × BitVec 64 × Bool :=
  let h := b.hall.getD (podOf dst) 0xF
  if bits h.toNat 3 0 = 0xE || podOf dst = podOf me && b.hall.isEmpty then
    let e := b.pod.getD (podIndex dst) 0xF
    (bits e.toNat 3 0, e, false)
  else (bits h.toNat 3 0, h, true)

/-- This device's physical coordinate on an axis (R437); axis 6 is the hall ring. -/
def State.coord (s : State) (axis : Nat) : Nat := bits s.ident.physCoord (6 * axis + 5) (6 * axis)

/-- Ring length of an axis as the open jobs map it. -/
def State.ringLen (s : State) (axis : Nat) : Nat :=
  let j := if s.jobs.j0.isOpen then s.jobs.j0 else s.jobs.j1
  if axis = 6 then j.map.lenH else j.map.lens.getD axis 1

/-- The destination's coordinate on a port's axis, from the route entry (R375, R383). -/
def entryCoord (e : BitVec 64) (hall : Bool) (axis : Nat) : Nat :=
  if hall then bits e.toNat 13 8 else bits e.toNat (6 * axis + 13) (6 * axis + 8)

/-- The virtual channel of R378 on a port: Vc 1 after the link between the last and the first coordinate. -/
def State.vcOn (s : State) (k : Pkt) (sameAxis : Bool) (p : Nat) : Bool :=
  let a := p / 2
  let c := s.coord a
  let crosses := if p % 2 = 0 then c + 1 = s.ringLen a else c = 0
  (sameAxis && k.vc) || crosses

/-- Virtual channel number of a packet: 2 × class + Vc (R347). -/
def Pkt.vcNo (k : Pkt) : Fin 8 := ⟨(2 * k.cls + b2n k.vc) % 8, Nat.mod_lt _ (by decide)⟩

/-- The bytes of a list in pieces of `n` (fuelled by its length). -/
def piecesOf {α : Type} (n : Nat) : Nat → List α → List (List α)
  | 0, _ => []
  | _, [] => []
  | f + 1, l => l.take n :: piecesOf n f (l.drop n)

/-- An entry of the event log of a hub die (R537), the oldest beyond 32,768 overwritten. -/
def logEvent (s : State) (die : Fin 2) (e : LogEntry) : State :=
  { s with obs := { s.obs with logs := upd s.obs.logs die (fun l => (e :: l).take 32768) } }

/-- Hub die of a port. -/
def dieOfPort (p : Port) : Fin 2 := if p.val < 6 then 0 else 1

/-- A packet is logged when it is sent or delivered (R537). -/
def loggedPkt (s : State) (k : Pkt) : Bool :=
  (k.cls = 0 && (k.op = 0x01 || k.op = 0x0A)) || (k.seq != 0 && k.seq % 2 ^ s.obs.logShift = 0)

/-- The log entry of a packet. -/
def logPkt (s : State) (p : Port) (kind : Nat) (k : Pkt) : State :=
  if loggedPkt s k then
    logEvent s (dieOfPort p) { ts := s.now, srcDev := k.src, dstDev := k.dst, cls := k.cls, port := p.val, kind := kind,
                               flowEpoch := k.flowEpoch, seqNum := k.seq }
  else s

/-- Flits a port's replay buffer holds (R349). -/
def FPort.replayCap (q : FPort) : Nat := if q.role = .uplink then 8192 else 512

/-- The packet has been sent before: its source keeps it as retransmitted. -/
def State.resent (s : State) (k : Pkt) : Bool :=
  s.fab.src.any (fun f => f.cls = k.cls && f.peer = k.dst && f.unacked.any (fun u => u.pkt.seq = k.seq && u.retries != 0))

/-- Credits a packet takes (R350). -/
def Pkt.units (k : Pkt) : Nat := cdiv k.bytes 64

/-- A collective packet: its address is in the collective engine's window (R401). -/
def Pkt.isColl (k : Pkt) : Bool := k.cls = 3 && 0xF00000000000 ≤ k.addr % 2 ^ 48

/-- A packet of a queue has its credits, and no older packet of its virtual channel and kind is before it. -/
def FPort.ready (q : FPort) (i : Nat) : Bool :=
  match q.txq[i]? with
  | some k => k.units ≤ q.credits.get k.vcNo && !(q.txq.take i).any (fun o => o.vcNo = k.vcNo && o.isColl = k.isColl)
  | none => false

/-- Place in the queue of the next packet to leave: the oldest that is ready. A collective packet yields to a BULK packet of
its context that is ready, and after three others takes its turn (R410). -/
def FPort.next (q : FPort) : Option Nat :=
  let is := (List.range q.txq.length).filter q.ready
  let coll (i : Nat) : Bool := match q.txq[i]? with | some k => k.isColl | none => false
  let peer (c i : Nat) : Bool := match q.txq[c]?, q.txq[i]? with
    | some a, some b => b.cls = 3 && !b.isColl && a.ctx = b.ctx
    | _, _ => false
  match is.find? coll with
  | some c =>
    if 3 ≤ q.collSkips then some c
    else match is.find? (peer c) with | some i => some i | none => is.head?
  | none => is.head?

/-- Virtual channels that have packets and no credit wait from now on (R387). -/
def FPort.markWaits (q : FPort) (now : Nat) : FPort :=
  { q with waitSince := Vector.ofFn (fun v =>
      if q.credits.get v = 0 && q.txq.any (fun k => k.vcNo = v) then some ((q.waitSince.get v).getD now) else none) }

/-- Bytes of a packet's flits (R347). -/
def Pkt.chunks (k : Pkt) : List (List Byte) :=
  let raw := k.header k.detour k.vc k.hops k.crc ++ k.payload
  piecesOf 240 (raw.length + 1) raw

/-- The virtual channel whose owed credits the next flit returns. -/
def FPort.owing (q : FPort) : Option (Fin 8) := (List.finRange 8).find? (fun i => q.crOwed.get i != 0)

/-- The flits of a packet: the first returns credits. -/
def FPort.flitsOf (q : FPort) (k : Pkt) : List Flit :=
  k.chunks.zipIdx.map (fun (bs, i) =>
    { seq := (q.txSeq + i) % 16384, ackSeq := q.rxLast,
      crVc := if i = 0 then (match q.owing with | some v => v.val | none => 0) else 0,
      crCount := if i = 0 then (match q.owing with | some v => q.crOwed.get v | none => 0) else 0, bytes := bs : Flit })

/-- A port after the packet at a place of its queue has left: its flits join the replay buffer. -/
def FPort.sent1 (q : FPort) (i : Nat) (k : Pkt) : FPort :=
  let n := k.chunks.length
  { q with
    collSkips := if k.isColl then 0 else if q.txq.any Pkt.isColl then q.collSkips + 1 else 0,
    txq := q.txq.eraseIdx i, txSeq := (q.txSeq + n) % 16384, replay := q.replay ++ q.flitsOf k,
    onWire := q.onWire ++ [((q.txSeq + (n - 1)) % 16384, k)],
    credits := upd q.credits k.vcNo (· - k.units),
    crOwed := (match q.owing with | some v => upd q.crOwed v (fun _ => 0) | none => q.crOwed) }

/-- A packet leaves a port: it is counted, and logged where it is new (R516, R537). -/
def leave (s : State) (p : Port) (i : Nat) (k : Pkt) : State :=
  let s := bump0 (s.updPort p (fun q => q.sent1 i k)) { code := Cnt.PORT_TX_BYTES, unit := p.val } k.bytes
  if k.hops = 0 && !s.resent k then logPkt s p 0 k else s

/-- Packets of a port's queue leave while the link is UP, credits suffice and the replay buffer has room (R349, R350): their
flits join the replay buffer, and credits owed to the peer go with them. The number bounds how many are tried. -/
def drainTx (s : State) (p : Port) : Nat → State
  | 0 => s
  | n + 1 =>
    let q := s.fab.ports.get p
    if q.link != .up then s
    else
      match q.next with
      | none => s.updPort p (fun q => q.markWaits s.now)
      | some i =>
        match q.txq[i]? with
        | none => s
        | some k => if q.replayCap < q.replay.length + k.chunks.length then s else drainTx (leave s p i k) p n

/-- A packet joins a port's queue, on the other port of the axis with Detour = 1 when the link has failed (R383). -/
def enqueue (s : State) (k : Pkt) (p : Port) : State :=
  let s := s.updPort p (fun q => { q with txq := q.txq ++ [k] })
  drainTx s p ((s.fab.ports.get p).txq.length + 1)

/-- The other port of an axis. -/
def otherPort (p : Port) : Port := if p.val % 2 = 0 then (if h : p.val + 1 < 12 then ⟨p.val + 1, h⟩ else p) else ⟨p.val - 1, by omega⟩

/-- A packet found both links of an axis failed (R384): it is dropped and counted, and the ring is split. -/
def detourFails (s : State) (o : Port) : State :=
  let s := bump0 s { code := Cnt.DETOUR_FAIL, unit := o.val } 1
  { s with fab := { s.fab with split := if s.fab.split.contains (100 + o.val / 2) || s.fab.split.contains (o.val / 2)
      then s.fab.split else (100 + o.val / 2) :: s.fab.split } }

/-- A packet takes a port as its detour (R383), with Vc 1. -/
def detourBy (s : State) (o : Port) (k : Pkt) : State :=
  if (s.fab.ports.get o).link = .failed then detourFails s o
  else enqueue (bump0 s { code := Cnt.DETOUR_FWD, unit := o.val } 1) { k with vc := true } o

/-- A packet leaves by the port its route names, or round a failed link (R376 to R383). -/
def forwardBy (s : State) (inPort : Option Port) (k : Pkt) (p : Port) : State :=
  let q := s.fab.ports.get p
  if q.role = .unused || q.role = .f2 || q.link = .disabled then bump0 s { code := Cnt.NO_ROUTE, unit := p.val } 1
  else
    let same := match inPort with | some i => !k.detour && i.val / 2 = p.val / 2 | none => false
    let k := { k with detour := false, vc := s.vcOn k same p.val }
    if q.link = .failed then detourBy s (otherPort p) { k with detour := true } else enqueue s k p

/-- A packet on a detour has reached the coordinate its route names on the axis it arrived by (R383). -/
def State.detourDone (s : State) (inPort : Option Port) (e : BitVec 64) (hall : Bool) : Bool :=
  match inPort with
  | some p => s.coord (if hall then 6 else p.val / 2) = entryCoord e hall (p.val / 2)
  | none => true

/-- Forwarding of a packet from this device: by its epoch's bank, or round a failed link (R376 to R384). `inPort`
is the port it arrived on, none where it is injected. -/
def routePkt (s : State) (inPort : Option Port) (k : Pkt) : State :=
  let cu : Nat := match inPort with | some p => p.val | none => 0
  match s.fab.bank? k.routeEpoch with
  | none => bump0 s { code := Cnt.ROUTE_EPOCH_MISS, unit := cu } 1
  | some b =>
    let (port, e, hall) := b.lookup s.ident.devNum k.dst
    if k.detour && !s.detourDone inPort e hall then
      match inPort with
      | some p => detourBy s (otherPort p) k
      | none => s
    else if h : port < 12 then forwardBy s inPort k ⟨port, h⟩
    else bump0 s { code := Cnt.NO_ROUTE, unit := cu } 1

/-- One transmission of a packet: stamped with the active route epoch and its CRC (R380). A drain marker keeps the epoch it
carries (R379). -/
def transmit (s : State) (k : Pkt) : State :=
  let k := { k with routeEpoch := if k.op = 0x1F then k.routeEpoch else s.fab.activeEpoch, hops := 0, detour := false, vc := false }
  routePkt s none { k with crc := k.e2e }

/-- The operations that carry no transport sequence number (R359). -/
def unsequenced (k : Pkt) : Bool := k.cls = 0 && (k.op = 0x08 || k.op = 0x0C || k.op = 0x0D)

/-- Unacknowledged payload of a flow, in bytes. -/
def SrcFlow.unackedBytes (f : SrcFlow) : Nat := (f.unacked.map (fun u => u.pkt.payload.length)).sum

/-- The source flow of a class to a device. -/
def Fabric.srcFlow? (f : Fabric) (cls peer : Nat) : Option SrcFlow :=
  f.src.find? (fun c => c.cls = cls && c.peer = peer)

/-- A source flow changed. -/
def Fabric.updSrc (f : Fabric) (cls peer : Nat) (g : SrcFlow → SrcFlow) : Fabric :=
  { f with src := f.src.map (fun c => if c.cls = cls && c.peer = peer then g c else c) }

/-- A packet injected into the fabric (R362 to R366): it takes its flow's next SeqNum and is kept until it is
acknowledged, waits under the limits of R365, or waits for a free context. -/
def inject (s : State) (k : Pkt) : State :=
  let k := { k with src := s.ident.devNum }
  if unsequenced k then transmit s k else
  let f? := s.fab.srcFlow? k.cls k.dst
  if f?.isNone && 8192 ≤ s.fab.src.length then
    { s with fab := { s.fab with ctxWait := s.fab.ctxWait ++ [(s.now, k)] } }
  else
    let last := match s.fab.epochs.find? (fun e => e.1 = k.cls && e.2.1 = k.dst) with
      | some e => (e.2.2 + 1) % 256
      | none => 0
    let fab := if f?.isNone then { s.fab with src := s.fab.src ++ [{ cls := k.cls, peer := k.dst, epoch := last }] } else s.fab
    match fab.srcFlow? k.cls k.dst with
    | none => s
    | some f =>
      if 4096 ≤ f.unacked.length || 4194304 < f.unackedBytes + k.payload.length then
        { s with fab := fab.updSrc k.cls k.dst (fun f => { f with waiting := f.waiting ++ [k] }) }
      else
        let k := { k with seq := f.nextSeq, flowEpoch := f.epoch }
        let re := fab.activeEpoch
        let fab := fab.updSrc k.cls k.dst (fun f => { f with
          nextSeq := (f.nextSeq + 1) % 2 ^ 32, unacked := f.unacked ++ [{ pkt := k, sentAt := s.now }], lastUse := s.now,
          routeEpochs := if k.op = 0x1F || f.routeEpochs.contains re then f.routeEpochs else re :: f.routeEpochs })
        transmit { s with fab := fab } k

/-- DevNums of the torus and hall neighbours: the peers of the ports whose links have come up (R385). -/
def State.neighbours (s : State) : List Nat :=
  ((s.fab.ports.toList.filter (fun p => p.role = .torus || p.role = .uplink)).filterMap
    (fun p => p.peer.map (·.devNum))).eraseDups

/-- A CTL packet of this device's Mule. -/
def ctlPkt (op dst : Nat) (payload : List Byte) : Pkt :=
  { cls := 0, op := op, dst := dst, src := 0, len := payload.length, payload := payload }

/-! ## Freeze -/

/-- The payload of a FREEZE packet (R525). -/
def FreezeRec.bytes (r : FreezeRec) : List Byte :=
  toBytes 8 (r.freezeId % 2 ^ 32 + place (r.origin % 65536) 32 + place (r.cause % 8) 48 + place (r.scope % 4) 51) ++
    toBytes 8 r.originTs

/-- The latch of R524: counters and beat numbers at one instant. -/
def latch (s : State) (freezeId origin cause : Nat) (frozen : Bool) : Snapshot :=
  { freezeId := freezeId, origin := origin, cause := cause, frozen := frozen, latchTs := s.now,
    beatJ0 := if s.jobs.j0.isOpen then s.jobs.j0.beat else 0,
    beatJ1 := if s.jobs.j1.isOpen then s.jobs.j1.beat else 0, counters := s.obs.counters }

/-- A freeze takes effect (R524), or is counted while the device is frozen (R527). -/
def freezeAs (s : State) (freezeId origin cause : Nat) : State :=
  if s.obs.frozen then bump0 s { code := Cnt.FREEZE_IGNORED } 1
  else { s with obs := { s.obs with frozen := true, snap := some (latch s freezeId origin cause true),
                                    freezeSeen := (origin, freezeId) :: s.obs.freezeSeen } }

/-- A local trigger of R523 with its cause code: a new freeze of this device, sent on under R526. -/
def localFreeze (s : State) (cause : Nat) : State :=
  if s.obs.frozen then bump0 s { code := Cnt.FREEZE_IGNORED } 1
  else
    let id := s.obs.freezeSeq + 1
    let s := freezeAs { s with obs := { s.obs with freezeSeq := id } } id s.ident.devNum cause
    if s.obs.scope = 0 then s
    else
      let r : FreezeRec := { freezeId := id, origin := s.ident.devNum, cause := cause, scope := s.obs.scope, originTs := s.now }
      s.neighbours.foldl (fun s d => inject s (ctlPkt 0x0A d r.bytes)) s

/-- Programmable counters of mode 0b10 that have reached their threshold trigger a freeze, each once (R521). -/
def checkThresholds (s : State) : State :=
  let hit := s.obs.pcs.any (fun p => p.used && p.mode = 2 && !p.fired && p.threshold ≤ p.value.toNat)
  if hit && !s.obs.frozen then
    localFreeze { s with obs := { s.obs with pcs := s.obs.pcs.map (fun p =>
      if p.used && p.mode = 2 && p.threshold ≤ p.value.toNat then { p with fired := true } else p) } } 2
  else s

/-- An event counted `n` times (R516, R520). -/
def bump (s : State) (k : CntKey) (n : Nat := 1) : State := checkThresholds (bump0 s k n)

/-- A counter of a cluster in a context. -/
def bumpC (s : State) (code : Nat) (c : Cl) (x : CtxNo := none) (n : Nat := 1) : State :=
  bump s { code := code, unit := c.val, ctx := x } n

/-- A packet sent by this device, with the freeze its counters may trigger. -/
def sendPkt (s : State) (k : Pkt) : State := checkThresholds (inject s k)

/-! ## Host memory -/

/-- Bytes written to host memory. -/
def writeHost (s : State) (a : Nat) (bs : List Byte) : State :=
  { s with mbx := { s.mbx with hostMem := Mem.write 0 s.mbx.hostMem a bs } }

/-- An MSI-X message on a vector: sent, or held pending while the table masks the vector (R544, R585). -/
def sendMsix (s : State) (v : Fin 16) : State :=
  if (s.regs.msixTable.get ⟨4 * v.val + 3, by omega⟩).getLsbD 0 then
    { s with regs := { s.regs with msixPba := s.regs.msixPba ||| (1#32 <<< v.val) } }
  else { s with mbx := { s.mbx with msix := upd s.mbx.msix v (· + 1) } }

/-! ## Fault records -/

/-- Two BCD digits as a number, and back. -/
def bcd (b : Nat) : Nat := b / 16 % 16 * 10 + b % 16
def toBcd (n : Nat) : Nat := n / 10 % 10 * 16 + n % 10

/-- Days of a month. -/
def monthDays (y m : Nat) : Nat :=
  if m = 2 then (if y % 4 = 0 && (y % 100 != 0 || y % 400 = 0) then 29 else 28)
  else if m = 4 || m = 6 || m = 9 || m = 11 then 30 else 31

/-- A date some days later. The fuel bounds the months passed. -/
def addDays : Nat → Nat × Nat × Nat → Nat → Nat × Nat × Nat
  | 0, d, _ => d
  | f + 1, (y, m, d), n =>
    let left := monthDays y m - d
    if n ≤ left then (y, m, d + n)
    else addDays f (if m = 12 then (y + 1, 1, 0) else (y, m + 1, 0)) (n - left)

/-- A CPER timestamp some seconds later (R480, DEDUCED, log entry 40): seconds, minutes, hours, precise flag, day, month, year and
century in BCD, a byte each. -/
def cperAdvance (t secs : Nat) : Nat :=
  let b (i : Nat) : Nat := bcd (bits t (8 * i + 7) (8 * i))
  let total := b 0 + 60 * b 1 + 3600 * b 2 + secs
  let (y, m, d) := addDays (total / 86400 + 1) (100 * b 7 + b 6, b 5, b 4) (total / 86400)
  toBcd (total % 60) + place (toBcd (total / 60 % 60)) 8 + place (toBcd (total / 3600 % 24)) 16 + place (bits t 31 24) 24 +
    place (toBcd d) 32 + place (toBcd m) 40 + place (toBcd (y % 100)) 48 + place (toBcd (y / 100)) 56

/-- Events whose records go to the persistent part too: fences, channel retirements, failed links (R487). -/
def persistentEvent (code : Nat) : Bool := code = 0x0105 || code = 0x0106 || code = 0x0205 || code = 0x0302 || code = 0x0401

/-- Mule's queue of 256 records: at a full queue the oldest summary record is dropped first, then the oldest
informational record (R489). The flag says that a record was dropped. -/
def queueRec (l : List FaultRec) (r : FaultRec) : List FaultRec × Bool :=
  if l.length < 256 then (l ++ [r], false)
  else
    match l.findIdx? (fun q => bit q.flags 2) with
    | some i => (l.eraseIdx i ++ [r], true)
    | none =>
      match l.findIdx? (fun q => q.severity = 3) with
      | some i => (l.eraseIdx i ++ [r], true)
      | none => (l, true)

/-- A fault record issued (R480 to R485): it takes the next RecordID and is offered to the host, to the collector
queue and to the flash log; beyond LogRate in one second it joins a summary. The second result is its RecordID,
0 where it was combined. -/
def logRec (s : State) (r : FaultRec) : State × Nat :=
  let sec := s.now / 1000000000
  let cnt := if s.log.rateSecond = sec then s.log.rateCount else 0
  if s.goose.policy.logRate ≤ cnt && !bit r.flags 1 then
    ({ s with log := { s.log with
        rateSecond := sec, rateCount := cnt + 1,
        pendingSummary := s.log.pendingSummary ++ [(r.unitClass, r.unitIndex, r.subIndex, r.eventCode, r.count)] } }, 0)
  else
    let id := s.log.lastSeq + 1
    let x := ctxOf (if bit r.flags 0 then 1 else 0)
    let j := match x with | some x => s.jobs.get x | none => s.jobs.j0
    let r := { r with recordId := id, devNum := s.ident.devNum, origDevNum := s.ident.origDevNum, ts := s.now,
                      hostTime := s.log.hostTime.map (fun h => cperAdvance h.1 ((s.now - h.2) / 1000000000)), jobId := if j.isOpen then j.jobId else 0, stepNum := j.step,
                      treeGen := j.treeGen,
                      flags := if persistentEvent r.eventCode then r.flags % 8 + 8 else r.flags % 8 }
    let (w, dropped) := queueRec s.log.waiting r
    let full := 64 ≤ s.log.collector.length
    let s := { s with log := { s.log with
      lastSeq := id, rateSecond := sec, rateCount := cnt + 1, waiting := w, host := s.log.host ++ [r],
      collector := (if full then s.log.collector.drop 1 else s.log.collector) ++ [r] } }
    (bump0 s { code := Cnt.LOG_DROP } (b2n dropped + b2n full), id)

/-- A corrected event kept for the hourly summary of its unit and event code (R485). -/
def noteCorrected (s : State) (u : UnitId) (event n : Nat) : State :=
  let hit (e : Nat × Nat × Nat × Nat × Nat) : Bool := e.1 = u.cls && e.2.1 = u.unit && e.2.2.1 = u.sub && e.2.2.2.1 = event
  let l := s.log.pendingSummary
  { s with log := { s.log with
      pendingSummary := if l.any hit then l.map (fun e => if hit e then (e.1, e.2.1, e.2.2.1, e.2.2.2.1, e.2.2.2.2 + n) else e)
        else l ++ [(u.cls, u.unit, u.sub, event, n)] } }

/-! ## Events -/

/-- An event as its raiser gives it (R545): code, context, unit and Detail bytes. -/
structure Ev where
  code : Nat
  ctx : CtxNo := none
  unit : UnitId := { cls := 0 }
  detail : List Byte := []
  deriving DecidableEq, Repr

/-- The Detail of an event that names a beat and an address, handle or index (R547). -/
def detailOf (beat subject recId : Nat) : List Byte :=
  toBytes 8 (beat % 2 ^ 48) ++ toBytes 8 subject ++ List.replicate 16 0 ++ toBytes 4 recId

/-- The 64 bytes of an event entry (R545). -/
def Ev.bytes (e : Ev) (seq : Nat) (ts : Nat) (phase : Bool) : List Byte :=
  toBytes 8 (e.code % 65536 + place (match e.ctx with | some .j0 => 0 | some .j1 => 1 | none => 2) 16 +
    place (b2n phase) 31 + place (seq % 2 ^ 32) 32) ++ toBytes 8 ts ++
  toBytes 8 (e.unit.cls % 256 + place (e.unit.unit % 65536) 8 + place (e.unit.sub % 256) 24) ++
  slice e.detail 0 40

/-- The events of links, rings and neighbours (R599). -/
def fabricEvent (code : Nat) : Bool :=
  code = Code.LINK_FAILED || code = Code.RING_SPLIT || code = Code.DEV_FAILED || code = Code.FAB_CONGEST ||
    code = Code.FLOW_FAIL || code = Code.LINK_MISMATCH

/-- The bits of EVT_SUMMARY an event sets (R599). -/
def summaryBits (e : Ev) (hasRec : Bool) : BitVec 32 :=
  BitVec.ofNat 32 (b2n hasRec + place (b2n e.ctx.isSome) 1 + place (b2n (fabricEvent e.code)) 2 +
    place (b2n (e.code = Code.SERVICE_FULL || e.code = Code.CAP_CHANGED || e.code = Code.JOB_CLOSED)) 3)

/-- The Seq after another: 1 follows 0xFFFF_FFFF (R600). -/
def nextSeq (q : BitVec 32) : BitVec 32 := if q = BitVec.allOnes 32 then 1 else q + 1

/-- An entry written into the event ring, which has room. -/
def putEvent (s : State) (e : Ev) (seq : Nat) : State :=
  let r := s.mbx.evt
  let s := writeHost s (r.base.toNat + 64 * r.writeIdx) (e.bytes seq s.now r.phase)
  let n := 2 ^ r.sizeLog2
  { s with mbx := { s.mbx with evt := { r with
      writeIdx := (r.writeIdx + 1) % n, unread := r.unread + 1,
      phase := if r.writeIdx + 1 = n then !r.phase else r.phase } } }

/-- EVT_STATUS takes an event's Seq, and vector 0 is sent when it leaves 0 (R546, R601). -/
def noteSeq (s : State) (seq : BitVec 32) (bits : BitVec 32) : State :=
  let was := s.regs.evtStatus
  let s := { s with regs := { s.regs with evtStatus := seq, evtSummary := s.regs.evtSummary ||| bits },
                    mbx := { s.mbx with evt := { s.mbx.evt with seq := seq } } }
  if was = 0 && s.regs.evtIntEnable then sendMsix s 0 else s

/-- With room in the ring and lost events to report, one EVENTS_LOST entry comes first (R546). -/
def flushLost (s : State) : State :=
  let r := s.mbx.evt
  if r.lostCount != 0 && r.enable && r.unread < 2 ^ r.sizeLog2 then
    let seq := nextSeq r.seq
    let s := putEvent s { code := Code.EVENTS_LOST,
                          detail := toBytes 4 r.lostFirst ++ toBytes 4 r.lostCount } seq.toNat
    noteSeq { s with mbx := { s.mbx with evt := { s.mbx.evt with lostCount := 0 } } } seq 0
  else s

/-- An event the ring has no room for is counted as lost (R546, R599). -/
def loseEvent (s : State) (seq : Nat) : State :=
  let r := s.mbx.evt
  { s with
    regs := { s.regs with evtLost := s.regs.evtLost + 1, evtSummary := s.regs.evtSummary ||| 16 },
    mbx := { s.mbx with evt := { r with lostFirst := if r.lostCount = 0 then seq else r.lostFirst, lostCount := r.lostCount + 1 } } }

/-- An event of the device (R546): it takes the next Seq, and is written to the ring or counted as lost. -/
def raise0 (s : State) (e : Ev) (hasRec : Bool) : State :=
  let s := flushLost s
  let seq := nextSeq s.mbx.evt.seq
  let s := noteSeq s seq (summaryBits e hasRec)
  if s.mbx.evt.enable && s.mbx.evt.unread < 2 ^ s.mbx.evt.sizeLog2 then putEvent s e seq.toNat else loseEvent s seq.toNat

/-- The FreezeOn bit of an event code (R523). -/
def freezeBit (code : Nat) : Option Nat :=
  if code = Code.BEAT_FAILED then some 0 else if code = Code.CHECK_FAIL then some 1
  else if code = Code.BEAT_OVERRUN then some 2 else if code = Code.LINK_FAILED then some 3 else none

/-- The freeze an event triggers when FreezeOn names it. -/
def freezeOnEvent (s : State) (code : Nat) : State :=
  match freezeBit code with
  | some b => if bit s.obs.freezeOn b then localFreeze s 3 else s
  | none => s

/-- An event raised, with no fault record. -/
def raise (s : State) (e : Ev) : State := freezeOnEvent (raise0 s e false) e.code

/-- An event raised with its fault record, whose RecordID the Detail carries. -/
def raiseRec (s : State) (e : Ev) (beat subject : Nat) (r : FaultRec) : State :=
  let (s, id) := logRec s { r with beatNum := beat, flags := if e.ctx = some .j1 then r.flags ||| 1 else r.flags,
                                   unitClass := e.unit.cls, unitIndex := e.unit.unit, subIndex := e.unit.sub }
  freezeOnEvent (raise0 s { e with detail := detailOf beat subject id } true) e.code

/-- The same with the Detail of the event as given. -/
def raiseRecAs (s : State) (e : Ev) (r : FaultRec) : State :=
  let (s, _) := logRec s { r with flags := if e.ctx = some .j1 then r.flags ||| 1 else r.flags,
                                  unitClass := e.unit.cls, unitIndex := e.unit.unit, subIndex := e.unit.sub }
  freezeOnEvent (raise0 s e true) e.code

/-- An event of a context that names a beat and a subject. -/
def raiseCtx (s : State) (code : Nat) (x : CtxNo) (u : UnitId) (beat subject : Nat) : State :=
  raise s { code := code, ctx := x, unit := u, detail := detailOf beat subject 0 }

/-! ## Responses -/

/-- The 32 bytes of a response entry (R541). -/
def respBytes (code : Nat) (tag : BitVec 16) (status q : Nat) (phase : Bool) (outBytes r0 r1 : Nat) : List Byte :=
  toBytes 8 (code % 65536 + place tag.toNat 16 + place (status % 65536) 32 + place q 48 + place (b2n phase) 63) ++
    toBytes 8 (outBytes % 2 ^ 32) ++ toBytes 8 r0 ++ toBytes 8 r1

/-- A response written to its queue's ring, or held for the management port (R542, R640). -/
def writeResp (s : State) (code : Nat) (m : MCmd) (status outBytes r0 r1 : Nat) : State :=
  if m.q.val = 0 then
    { s with mbx := { s.mbx with q0Busy := false, q0Resp := some (respBytes code m.tag status 0 true outBytes r0 r1) } }
  else
    let q := s.mbx.queues.get m.q
    let n := 2 ^ q.sizeLog2
    let s := writeHost s (q.rspBase.toNat + 32 * q.rspIdx) (respBytes code m.tag status m.q.val q.phase outBytes r0 r1)
    let due := q.coalesceNs != 0 && (match q.lastMsi with | some t => s.now < t + q.coalesceNs | none => false)
    let s := s.updQueue m.q (fun q => { q with
      rspIdx := (q.rspIdx + 1) % n, phase := if q.rspIdx + 1 = n then !q.phase else q.phase,
      rspUnread := q.rspUnread + 1, msiDue := q.msiDue || due, lastMsi := if due then q.lastMsi else some s.now })
    if due then s else sendMsix s m.q

/-- A command answered with a status and two results and no output. -/
def answer (s : State) (code : Nat) (m : MCmd) (status : Nat) (r0 : Nat := 0) (r1 : Nat := 0) : State :=
  let s := if status = Code.BUSY then bump s { code := Cnt.MBX_BUSY } else s
  let s := if status = Code.NOT_READY then bump s { code := Cnt.MBX_NOT_READY } else s
  let s := s.updQueue m.q (fun q =>
    if status = Code.BUSY then { q with heldSince := some (q.heldSince.getD s.now), heldLast := some s.now } else { q with heldSince := none })
  writeResp s code m status 0 r0 r1

/-- A command answered OK with output bytes, unless the buffer is too small or its write fails (R540). -/
def answerOut (s : State) (code : Nat) (m : MCmd) (out : List Byte) : State :=
  if m.q.val = 0 then
    writeResp { s with mbx := { s.mbx with q0Out := out.take 4096 } } code m Code.OK out.length 0 0
  else if m.outLen < out.length then answer s code m Code.BAD_LEN
  else if m.outErr then answer s code m Code.BAD_ADDR
  else writeResp (writeHost s m.outAddr out) code m Code.OK out.length 0 0

/-- A started command that will complete later (R554). -/
def startLater (s : State) (code : Nat) (m : MCmd) (key : Nat) (r0 : Nat := 0) (r1 : Nat := 0) : State :=
  { s with mbx := { s.mbx with started := s.mbx.started ++
      [{ code := code, cmd := m, at_ := s.now, key := key, result0 := r0, result1 := r1 }] } }

/-- mbx.close completes once every other command of its queue has completed (R558). -/
def finishCloses (s : State) : State :=
  s.mbx.started.foldl (fun s k =>
    let q := s.mbx.queues.get k.cmd.q
    if k.code = CmdCode.mbxClose && q.fetchIdx = q.cmdDbl && (s.mbx.started.filter (fun o => o.cmd.q = k.cmd.q && o.code != CmdCode.mbxClose)).isEmpty then
      let s := { s with mbx := { s.mbx with started := s.mbx.started.filter (fun o => o != k) } }
      let s := if k.sess then writeResp s k.code k.cmd Code.OK 0 0 0 else s
      s.updQueue k.cmd.q (fun q => { q with isOpen := false, closing := false })
    else s) s

/-- The started command of a code and key completes with a status; its response is discarded when its queue has
closed since (R560, R610). -/
def completeLater (s : State) (code key status : Nat) (r0 r1 : Option Nat := none) : State :=
  match s.mbx.started.find? (fun k => k.code = code && k.key = key) with
  | none => s
  | some k =>
    let s := { s with mbx := { s.mbx with started := s.mbx.started.erase k } }
    let s := if k.sess then answer s k.code k.cmd status (r0.getD k.result0) (r1.getD k.result1)
      else if k.cmd.q.val = 0 then { s with mbx := { s.mbx with q0Busy := false } } else s
    finishCloses s

/-- Every started command of a code and key completes with a status. -/
def completeAll (s : State) (code key status : Nat) : State :=
  (s.mbx.started.filter (fun k => k.code = code && k.key = key)).foldl (fun s _ => completeLater s code key status) s

/-! ## Device-local memory -/

/-- Channels of a hub die's half in its interleave list (R273), in ascending flat index. -/
def State.listOf (s : State) (h : Nat) : List Chan :=
  (List.finRange 256).filter (fun ch => ch.val / 128 = h && (s.mem.chans.get ch).listed && !(s.mem.chans.get ch).absent)

/-- 48 MiB. -/
def slabUnit : Nat := 0x3000000

/-- Size of a half's slabs (R273). -/
def State.slabSize (s : State) (h : Nat) : Nat := (s.listOf h).length * slabUnit

/-- End of the HBM range (R274). -/
def State.hbmEnd (s : State) : Nat := 32 * (s.slabSize 0 + s.slabSize 1)

/-- The scratchpad window's base (R304). -/
def scratchBase : Nat := 0xC00000000000

/-- Where a byte of HBM lives (R275): channel, channel offset, slice. -/
structure Loc where
  ch : Chan
  coff : Nat
  slice : Slice
  deriving DecidableEq, Repr

/-- The map of R275. -/
def State.locate (s : State) (a : Nat) : Option Loc :=
  let s0 := s.slabSize 0
  let pair := s0 + s.slabSize 1
  if pair = 0 || 32 * pair ≤ a then none
  else
    let i := a / pair
    let r := a % pair
    let h := if r < s0 then 0 else 1
    let off := if r < s0 then r else r - s0
    let l := s.listOf h
    let n := l.length
    let g := off / 256
    let p := g % n
    match l[p]? with
    | none => none
    | some ch => some { ch := ch, coff := i * slabUnit + (g / n) * 256 + off % 256,
                        slice := ⟨(32 * h + p % 32) % 64, Nat.mod_lt _ (by decide)⟩ }

/-- A byte address lies in the scratchpad window (R304). -/
def State.inScratch (s : State) (a : Nat) : Bool := scratchBase ≤ a && a < scratchBase + s.mem.llm.es * slabUnit

/-- A byte address lies in a window of the device-local map (R277). -/
def State.mapped (s : State) (a : Nat) : Bool := s.inScratch a || a < s.hbmEnd

/-- The eighth a scratchpad byte lies in. -/
def eighthOf (a : Nat) : Nat := (a - scratchBase) / slabUnit

/-- The map entry of the page of an address (R316). -/
def State.pageOf (s : State) (a : Nat) : Option MapRange := s.mem.pages.find? (fun r => r.base ≤ a && a < r.base + r.size)

/-- The pages an access touches, by the address of each page's first byte. -/
def pagesOf (a len : Nat) : List Nat := (List.range ((a + (len - 1)) / 65536 + 1 - a / 65536)).map (fun i => (a / 65536 + i) * 65536)

/-- What the ownership check of R315 answers. -/
inductive Own where
  | ok
  | notOwner
  | moving
  | absent
  deriving DecidableEq, Repr

/-- The check of one page. -/
def State.ownPage (s : State) (p : Party) (page : Nat) : Own :=
  match s.pageOf page with
  | none => .notOwner
  | some r =>
    match r.st with
    | .free => .notOwner
    | .moving => .moving
    | .absent => .absent
    | .owned => if r.owner = p then .ok else .notOwner

/-- The check of every page an access touches. -/
def State.own (s : State) (p : Party) (a len : Nat) : Own :=
  (pagesOf a len).foldl (fun o g => if o = .ok then s.ownPage p g else o) .ok

/-- The party of a context of this device. -/
def State.party (s : State) (x : Ctx) : Party := ⟨s.ident.devNum, ctxNo x⟩

/-- The host of this device. -/
def State.hostParty (s : State) : Party := ⟨s.ident.devNum, 2⟩

/-- The object whose home or anchor holds a device-local address. -/
def State.objAt (s : State) (a : Nat) : Option Obj :=
  s.mem.objs.find? (fun o => (o.tier = 1 || o.tier = 2 || o.tier = 6) && o.home ≤ a && a < o.home + o.size)

/-- Codewords of 32 bytes that a range touches. -/
def wordsOf (a len : Nat) : List Nat := (List.range ((a + (len - 1)) / 32 + 1 - a / 32)).map (fun i => (a / 32 + i) * 32)

/-- A codeword reads as poisoned: poisoned, suspect, or on a fenced channel (R280, R284, R286). -/
def State.badWord (s : State) (w : Nat) : Bool :=
  match s.locate w with
  | none => false
  | some l => let k := s.mem.chans.get l.ch
    k.fenced || k.poison.contains (l.coff / 32) || k.suspect.contains (l.coff / 32)

/-- A range holds poison (R282, R307). -/
def State.poisoned (s : State) (a len : Nat) : Bool :=
  if s.inScratch a then s.mem.llm.poison.any (fun w => 8 * w < a + len && a < 8 * w + 8)
  else (wordsOf a len).any s.badWord

/-- The status an access of a context meets, 0 for none: map, scratchpad context (R305), ownership. -/
def State.accessErr (s : State) (p : Party) (a len : Nat) : Nat :=
  if len = 0 then 0
  else if !(s.mapped a && s.mapped (a + len - 1)) then Code.ADDR_UNMAPPED
  else if s.inScratch a && p.dev = s.ident.devNum && p.ctx < 2 &&
      s.mem.llm.eighths.getD (eighthOf a) .both = (if p.ctx = 0 then .j1 else .j0) then Code.LLM_PROT
  else if s.own p a len = .ok then 0 else Code.OWN_FAULT

/-- Bytes of device-local memory. -/
def State.rd (s : State) (a len : Nat) : List Byte := Mem.read 0 s.mem.mem a len

/-- Lines of every cluster cache that hold a written byte are removed, counted where an unused prefetch goes
(R258, R266). -/
def dropLines (s : State) (a len : Nat) : State :=
  let lo := a / 128
  let hi := (a + (len - 1)) / 128
  let s := (List.finRange 40).foldl (fun s c =>
    let gone := (s.clusters.get c).cache.filter (fun l => lo ≤ l.line && l.line ≤ hi)
    bump (bump s { code := Cnt.PF_UNUSED, unit := c.val } (gone.filter (·.pf = 1)).length)
      { code := Cnt.PF_UNUSED + 8, unit := c.val } (gone.filter (·.pf = 2)).length) s
  { s with clusters := s.clusters.map (fun k => { k with cache := k.cache.filter (fun l => !(lo ≤ l.line && l.line ≤ hi)) }) }

/-- Frames of F2 working ranges that a write reaches become dirty (R326). -/
def markDirty (s : State) (a len : Nat) : State :=
  { s with mem := { s.mem with f2 := s.mem.f2.map (fun f =>
      let fr := (List.range ((a + (len - 1)) / 4096 + 1 - a / 4096)).map (fun i => a / 4096 + i)
      let mine := (fr.filter (fun g => f.work ≤ 4096 * g && 4096 * g < f.work + f.size)).map (fun g => g - f.work / 4096)
      { f with dirty := (f.dirty ++ mine).eraseDups }) } }

/-- Full codewords of a write lose their poison (R281, R307). -/
def clearPoison (s : State) (a len : Nat) : State :=
  let s := (wordsOf a len).foldl (fun s w =>
    if a ≤ w && w + 32 ≤ a + len then
      match s.locate w with
      | none => s
      | some l => s.updChan l.ch (fun k => { k with poison := k.poison.filter (· != l.coff / 32),
                                                    suspect := k.suspect.filter (· != l.coff / 32) })
    else s) s
  { s with mem := { s.mem with llm := { s.mem.llm with
      poison := s.mem.llm.poison.filter (fun w => !(a ≤ 8 * w && 8 * w + 8 ≤ a + len)) } } }

/-- The status a write of a range meets at its channels (R281, R286): whole or not at all. -/
def State.writeErr (s : State) (a len : Nat) : Nat :=
  if s.inScratch a then 0
  else if (wordsOf a len).any (fun w => match s.locate w with | some l => (s.mem.chans.get l.ch).fenced | none => false) then Code.HBM_FENCED
  else if (wordsOf a len).any (fun w => !(a ≤ w && w + 32 ≤ a + len) && s.badWord w) then Code.HBM_POISON
  else 0

/-- Bytes written to device-local memory: visible to every unit at once. -/
def State.wr (s : State) (a : Nat) (bs : List Byte) : State :=
  if bs.isEmpty then s
  else markDirty (dropLines (clearPoison { s with mem := { s.mem with mem := Mem.write 0 s.mem.mem a bs } } a bs.length) a bs.length) a bs.length

/-- An address names this device: bits [63:48] are 0 or its own number (R179). -/
def State.isLocal (s : State) (a : Nat) : Bool := a / 2 ^ 48 % 65536 = 0 || a / 2 ^ 48 % 65536 = s.ident.devNum

/-- The local offset of an address. -/
def localOff (a : Nat) : Nat := a % 2 ^ 48

/-! ## Cluster stores -/

/-- Bytes of a cluster store. -/
def State.csRd (s : State) (c : Cl) (a len : Nat) : List Byte := Mem.read 0 (s.clusters.get c).store a len

/-- The watches that see a write (R530). -/
def Watch.sees (w : Watch) (c : Nat) (x : Ctx) (d : Nat) : Bool := w.cluster = c && w.ctx = x && (w.allDesc || w.descIdx = d)

/-- The bytes of a write that fall in a watched range are added to what it has seen. -/
def Watch.see (w : Watch) (a : Nat) (bs : List Byte) : Watch :=
  { w with seen := bs.zipIdx.foldl (fun l (b, i) => if w.base ≤ a + i && a + i < w.base + w.len then Seen.put l (a + i) b else l) w.seen }

/-- Bytes written to a cluster store by a command's descriptor. `off` is the offset the program named, which
differs from the place written inside a window (R146, R530). -/
def State.csWr (s : State) (c : Cl) (x : Ctx) (d : Nat) (off a : Nat) (bs : List Byte) : State :=
  let s := s.updCluster c (fun k => { k with store := Mem.write 0 k.store a bs })
  { s with obs := { s.obs with watches := s.obs.watches.map (fun w => w.map (fun w => if w.sees c.val x d then w.see off bs else w)) } }

/-! ## Time -/

/-- One nanosecond of a stage, counted under its cause (R519). -/
def idleCode : Idle → Nat
  | .waitInput => Cnt.IDLE_WAIT_INPUT
  | .waitInputOverrun => Cnt.IDLE_WAIT_INPUT_OVERRUN
  | .blockedOutput => Cnt.IDLE_BLOCKED_OUTPUT
  | .slack => Cnt.IDLE_SLACK
  | .overrunDefer => Cnt.IDLE_OVERRUN_DEFER
  | .j1Preempt => Cnt.IDLE_J1_PREEMPT
  | .stepWait => Cnt.IDLE_STEP_WAIT
  | .throttle => Cnt.IDLE_THROTTLE

/-- The stage counters of one cluster and context for one nanosecond. -/
def tickStage (s : State) (c : Cl) (x : Ctx) : State :=
  match s.stage c x with
  | none => s
  | some g => bumpC s (if (g.run.map (·.failed)) = some none then Cnt.STAGE_RUN else idleCode g.idle) c (some x)

/-- One nanosecond passes (DESIGN CHOICE, log entry 1): the timestamp advances and each stage's time is counted. -/
def tick (s : State) : State :=
  (List.finRange 40).foldl (fun s c => tickStage (tickStage s c .j0) c .j1) { s with now := s.now + 1 }

/-- A free value's number is used up (DESIGN CHOICE, log entry 4). -/
def State.draw (s : State) : State := { s with free := s.free + 1 }

end Sys2Proof.Machine
end

