-- ==== Sys2Proof/Machine/Operands.lean ====
section
/-! DEFINITION. The operand forms: fields of tile words (R69 to R80), of VE words (R176), of loop-nest
descriptors (R96 to R100, R216, R240), of hand-over headers (R147) and of program and schedule entries. -/

namespace Sys2Proof.Machine

/-! ## Tile words -/

/-- A field of a tile word. -/
def tw (w : BitVec 128) (hi lo : Nat) : Nat := bits w.toNat hi lo

/-- Opcodes of R69. -/
def opTclr : Nat := 0x10
def opTlda : Nat := 0x20
def opTldb : Nat := 0x21
def opTcrd : Nat := 0x30
def opTmma : Nat := 0x40
def opTmmat : Nat := 0x41
def opTst : Nat := 0x60
def opTsync : Nat := 0x70

/-- The opcodes that are assigned. -/
def tileOps : List Nat := [opTclr, opTlda, opTldb, opTcrd, opTmma, opTmmat, opTst, opTsync]

/-- The fields of TLDA and TLDB (R71). -/
structure LoadW where
  isB : Bool
  half : Nat
  tr : Bool
  fmt : Nat
  kBlocks : Nat
  kTail : Nat
  lines : Nat
  elem : Nat
  scale : Nat
  rowStride : Nat
  scaleStride : Nat
  engMask : Nat
  deriving DecidableEq, Repr

/-- The load a word holds. -/
def LoadW.of (w : BitVec 128) : LoadW :=
  { isB := tw w 7 0 = opTldb, half := tw w 8 8, tr := tw w 9 9 = 1, fmt := tw w 14 10, kBlocks := tw w 20 15,
    kTail := tw w 25 21, lines := tw w 32 26, elem := tw w 54 33, scale := tw w 76 55, rowStride := tw w 92 77,
    scaleStride := tw w 108 93, engMask := tw w 124 109 }

/-- The word of a load (R71). -/
def LoadW.word (l : LoadW) : BitVec 128 :=
  BitVec.ofNat 128 ((if l.isB then opTldb else opTlda) + place l.half 8 + place (b2n l.tr) 9 + place l.fmt 10 +
    place l.kBlocks 15 + place l.kTail 21 + place l.lines 26 + place l.elem 33 + place l.scale 55 +
    place l.rowStride 77 + place l.scaleStride 93 + place l.engMask 109)

/-- The fields of TST (R77). -/
structure StoreW where
  acc : Nat
  rnd : Nat
  sat : Bool
  clearAfter : Bool
  fmt : Nat
  rows : Nat
  cols : Nat
  elem : Nat
  scale : Nat
  rowStride : Nat
  scaleStride : Nat
  stream : Nat
  deriving DecidableEq, Repr

/-- The store a word holds. -/
def StoreW.of (w : BitVec 128) : StoreW :=
  { acc := tw w 9 8, rnd := tw w 11 10, sat := tw w 12 12 = 1, clearAfter := tw w 13 13 = 1, fmt := tw w 18 14,
    rows := tw w 23 19, cols := tw w 30 24, elem := tw w 53 32, scale := tw w 75 54, rowStride := tw w 91 76,
    scaleStride := tw w 107 92, stream := tw w 115 108 }

/-- The word of a store (R77). -/
def StoreW.word (t : StoreW) : BitVec 128 :=
  BitVec.ofNat 128 (opTst + place t.acc 8 + place t.rnd 10 + place (b2n t.sat) 12 + place (b2n t.clearAfter) 13 +
    place t.fmt 14 + place t.rows 19 + place t.cols 24 + place t.elem 32 + place t.scale 54 + place t.rowStride 76 +
    place t.scaleStride 92 + place t.stream 108)

/-- The word of a multiply-accumulate (R75). -/
def macWord (tr : Bool) (acc ah bh : Nat) (zeroAcc : Bool) (afmt bfmt kBlocks : Nat) : BitVec 128 :=
  BitVec.ofNat 128 ((if tr then opTmmat else opTmma) + place acc 8 + place ah 10 + place bh 11 +
    place (b2n zeroAcc) 12 + place afmt 16 + place bfmt 21 + place kBlocks 26)

/-- The word of a TCRD (R80). -/
def crdWord (acc row col : Nat) : BitVec 128 :=
  BitVec.ofNat 128 (opTcrd + place acc 8 + place (row % 2 ^ 28) 32 + place (col % 2 ^ 24) 60)

/-- The word of a TSYNC (R80). -/
def syncWord (loads macs stores : Bool) (token : Nat) : BitVec 128 :=
  BitVec.ofNat 128 (opTsync + place (b2n loads) 8 + place (b2n macs) 9 + place (b2n stores) 10 + place (token % 65536) 16)

/-- A load word with EngMask 0: the fields R117 and R118 compare. -/
def noMask (w : BitVec 128) : BitVec 128 := w &&& ~~~(BitVec.ofNat 128 (place 0xFFFF 109))

/-- A load word with its EngMask replaced. -/
def withMask (w : BitVec 128) (m : Nat) : BitVec 128 := noMask w ||| BitVec.ofNat 128 (place (m % 65536) 109)

/-! ## VE words -/

/-- The fields of a VE instruction in both forms (R176). -/
structure VeW where
  op : Nat
  vd : Nat
  va : Nat
  vb : Nat
  vc : Nat
  msk : Nat
  fmt : Nat
  rnd : Nat
  sat : Bool
  seg : Nat
  space : Bool
  raw : Bool
  sa : Nat
  sb : Nat
  stream : Nat
  fn : Nat
  /-- Scalar form. -/
  sd : Nat
  sSa : Nat
  sSb : Nat
  cond : Nat
  rsv : Nat
  imm : Int
  deriving DecidableEq, Repr

/-- The fields of a word. -/
def VeW.of (v : BitVec 64) : VeW :=
  let w := v.toNat
  { op := bits w 7 0, vd := bits w 12 8, va := bits w 17 13, vb := bits w 22 18, vc := bits w 27 23,
    msk := bits w 29 28, fmt := bits w 34 30, rnd := bits w 36 35, sat := bit w 37, seg := bits w 40 38,
    space := bit w 41, raw := bit w 42, sa := bits w 46 43, sb := bits w 50 47, stream := bits w 58 51,
    fn := bits w 63 59, sd := bits w 11 8, sSa := bits w 15 12, sSb := bits w 19 16, cond := bits w 23 20,
    rsv := bits w 31 24, imm := signed 32 (bits w 63 32) }

/-- The segment lengths of Seg (R176); none for a reserved code. -/
def segLen : Nat → Option Nat
  | 0 => some 8 | 1 => some 16 | 2 => some 32 | 3 => some 64 | 4 => some 128 | _ => none

/-- The opcodes of R177. -/
def veOps : List Nat :=
  [0x01, 0x02, 0x03, 0x04, 0x05, 0x06, 0x07, 0x08, 0x10, 0x11, 0x12, 0x13, 0x14, 0x18, 0x19, 0x1A, 0x1B, 0x20, 0x21,
   0x22, 0x23, 0x24, 0x25, 0x30, 0x38, 0x39, 0x40, 0x41, 0x42, 0x43, 0x48, 0x50, 0x51, 0x52, 0x58, 0x59, 0x5A, 0x5F]

/-! ## Descriptors -/

/-- An operand entry (R98). -/
structure OpEnt where
  fmt : Nat
  tr : Bool
  used : Bool
  rsv : Nat
  elem : Nat
  scale : Nat
  rowStride : Nat
  scaleStride : Nat
  deriving DecidableEq, Repr

/-- The operand entry at an offset of a descriptor. -/
def OpEnt.at_ (d : List Byte) (off : Nat) : OpEnt :=
  let f := fldN d off 12
  { fmt := f 4 0, tr := f 5 5 = 1, used := f 6 6 = 1, rsv := f 7 7 + f 95 84, elem := f 29 8, scale := f 51 30,
    rowStride := f 67 52, scaleStride := f 83 68 }

/-- A level record (R100). -/
structure Lvl where
  plan : Nat
  bndReg : Nat
  bndUse : Bool
  step : Nat
  dim : Nat
  rank : Nat
  skip : Nat
  couple : Nat
  coupleOff : Int
  rsv : Nat
  eA : Int
  eB : Int
  eOut : Int
  eAux : Int
  sA : Int
  sB : Int
  sOut : Int
  sAux : Int
  deriving DecidableEq, Repr

/-- Level record `i` of a descriptor. -/
def Lvl.at_ (d : List Byte) (i : Nat) : Lvl :=
  let f := fldN d (0x40 + 32 * i) 32
  { plan := f 23 0, bndReg := f 28 24, bndUse := f 29 29 = 1, step := f 47 32, dim := f 49 48, rank := f 52 50,
    skip := f 54 53, couple := f 57 55, coupleOff := signed 24 (f 87 64), rsv := f 31 30 + f 63 58 + f 95 88,
    eA := signed 24 (f 119 96), eB := signed 24 (f 143 120), eOut := signed 24 (f 167 144),
    eAux := signed 24 (f 191 168), sA := signed 16 (f 207 192), sB := signed 16 (f 223 208),
    sOut := signed 16 (f 239 224), sAux := signed 16 (f 255 240) }

/-- A descriptor's header and level records (R94, R96). -/
structure Desc where
  ver : Nat
  levels : Nat
  stealEn : Bool
  kind : Nat
  rnd : Nat
  sat : Bool
  stream : Nat
  engMask : Nat
  rowBase : Nat
  colBase : Nat
  veEntry : Nat
  codecOp : Nat
  slotCount : Nat
  accGroup : Nat
  rsv : Nat
  a : OpEnt
  b : OpEnt
  out : OpEnt
  aux : OpEnt
  lvls : List Lvl
  raw : List Byte
  deriving DecidableEq, Repr

/-- The descriptor 256 bytes hold. -/
def Desc.of (d : List Byte) : Desc :=
  let f := fldN d 0 16
  { ver := f 7 0, levels := f 10 8, stealEn := f 11 11 = 1, kind := f 15 12, rnd := f 17 16, sat := f 18 18 = 1,
    stream := f 27 20, engMask := f 43 28, rowBase := f 71 44, colBase := f 95 72, veEntry := f 111 96,
    codecOp := f 115 112, slotCount := f 119 116, accGroup := f 121 120, rsv := f 19 19 + f 127 122,
    a := OpEnt.at_ d 0x10, b := OpEnt.at_ d 0x1C, out := OpEnt.at_ d 0x28, aux := OpEnt.at_ d 0x34,
    lvls := (List.range (min (f 10 8) 6)).map (Lvl.at_ d), raw := d }

/-- The transfer entry (R240). -/
structure XferEnt where
  ext : Nat
  dir : Nat
  kv : Bool
  seq : Nat
  shift : Nat
  leader : Nat
  recvMask : Nat
  extRowStride : Nat
  rsv : Nat
  deriving DecidableEq, Repr

/-- The transfer entry of a descriptor. -/
def Desc.xfer (d : Desc) : XferEnt :=
  let f := fldN d.raw 0x1C 24
  { ext := f 63 0, dir := f 66 64, kv := f 67 67 = 1, seq := f 79 68, shift := f 83 80, leader := f 89 84,
    recvMask := f 135 96, extRowStride := f 151 136, rsv := f 95 90 + f 191 152 }

/-- The attention record (R216), level record 5. -/
structure AttRec where
  seq : Nat
  init : Bool
  final : Bool
  mode : Bool
  ringRel : Bool
  kvFmt : Nat
  pFmt : Nat
  headDim : Nat
  gqaLog : Nat
  rsv : Nat
  alpha : Nat
  kvBase : Nat
  kvHead : Nat
  headsKv : Nat
  qPos : Nat
  kPos : Nat
  mask : Nat
  ringId : Nat
  window : Nat
  gradBase : Nat
  deriving DecidableEq, Repr

/-- The attention record of a descriptor; HeadDim is decoded to 64, 128 or 256. -/
def Desc.att (d : Desc) : AttRec :=
  let f := fldN d.raw (0x40 + 32 * 5) 32
  { seq := f 11 0, init := f 12 12 = 1, final := f 13 13 = 1, mode := f 14 14 = 1, ringRel := f 15 15 = 1,
    kvFmt := f 20 16, pFmt := f 25 21, headDim := 64 * 2 ^ f 27 26, gqaLog := f 30 28, rsv := f 31 31 + f 183 182,
    alpha := f 63 32, kvBase := f 111 64, kvHead := f 119 112, headsKv := f 127 120, qPos := f 151 128,
    kPos := f 175 152, mask := f 177 176, ringId := f 181 178, window := f 207 184, gradBase := f 255 208 }

/-- The innermost step of a transfer nest in bytes: 0 encodes 65,536 (R242). -/
def Lvl.tile (l : Lvl) : Nat := if l.step = 0 then 65536 else l.step

/-- The level records in rank order. -/
def Desc.byRank (d : Desc) : List (Nat × Lvl) :=
  (List.range d.levels).filterMap (fun r => d.lvls.zipIdx.findSome? (fun (l, i) => if l.rank = r then some (i, l) else none))

/-! ## Loop walks -/

/-- Level record `i` is the outermost level of its Dim; each Outer level is one of its own (R105). -/
def Desc.outermost (d : Desc) (i : Nat) : Bool :=
  match d.lvls[i]? with
  | none => false
  | some l => l.dim = 3 || d.lvls.all (fun o => o.dim != l.dim || l.rank ≤ o.rank)

/-- The next outer level of the same Dim. -/
def Desc.parentOf (d : Desc) (i : Nat) : Option Nat :=
  match d.lvls[i]? with
  | none => none
  | some l =>
    (d.lvls.zipIdx.filter (fun (o, _) => o.dim = l.dim && o.rank < l.rank)).foldl
      (fun best (o, j) => match best with
        | none => some j
        | some b => if ((d.lvls[b]?).map (·.rank)).getD 0 < o.rank then some j else best) none

/-- The innermost level of a Dim. -/
def Desc.innermost (d : Desc) (dim : Nat) : Option Nat :=
  (d.lvls.zipIdx.filter (fun (o, _) => o.dim = dim)).foldl
    (fun best (o, j) => match best with
      | none => some j
      | some b => if ((d.lvls[b]?).map (·.rank)).getD 0 < o.rank then some j else best) none

/-- The step of a level in elements, as its kind encodes it. -/
def Desc.stepOf (d : Desc) (l : Lvl) : Nat := if d.kind = 4 then l.tile else l.step

/-- The effective bound of level `i` at the indices already chosen (R105); `ext` holds the actual extents. -/
def Desc.effBound (d : Desc) (ext idx : List Nat) (i : Nat) : Nat → Nat
  | 0 => 0
  | fuel + 1 =>
    match d.lvls[i]? with
    | none => 0
    | some l =>
      if d.outermost i then ext.getD i 0
      else
        match d.parentOf i with
        | none => ext.getD i 0
        | some p =>
          match d.lvls[p]? with
          | none => 0
          | some lp => min l.plan (d.effBound ext idx p fuel - idx.getD p 0 * d.stepOf lp)

/-- Every vector of loop indices, in the order of R104: rank 0 outermost. Skipped iterations are not removed. -/
def Desc.walk (d : Desc) (ext : List Nat) : List (List Nat) :=
  (d.byRank).foldl (fun acc (i, l) =>
    acc.flatMap (fun idx => (List.range (cdiv (d.effBound ext idx i 7) (d.stepOf l))).map (fun k => idx.set i k)))
    [List.replicate d.levels 0]

/-- First element of the current iteration of a level in the whole Dim, through that level (R113). -/
def Desc.startOf (d : Desc) (idx : List Nat) (i : Nat) : Nat :=
  match d.lvls[i]? with
  | none => 0
  | some l => (d.lvls.zipIdx.map (fun (o, j) =>
      if o.dim = l.dim && o.rank ≤ l.rank && (l.dim != 3 || i = j) then idx.getD j 0 * d.stepOf o else 0)).sum

/-- Elements the current iteration of a level covers (R105). -/
def Desc.covers (d : Desc) (ext idx : List Nat) (i : Nat) : Nat :=
  match d.lvls[i]? with
  | none => 0
  | some l => min (d.stepOf l) (d.effBound ext idx i 7 - idx.getD i 0 * d.stepOf l)

/-- Level `i` skips the current iteration (R113). -/
def Desc.skips (d : Desc) (ext idx : List Nat) (i : Nat) : Bool :=
  match d.lvls[i]? with
  | none => false
  | some l =>
    let s : Int := d.startOf idx i
    let e : Int := d.startOf idx i + d.covers ext idx i - 1
    let sc : Int := d.startOf idx l.couple
    let ec : Int := d.startOf idx l.couple + d.covers ext idx l.couple - 1
    if l.skip = 1 then decide (s > ec + l.coupleOff) else if l.skip = 2 then decide (e < sc + l.coupleOff) else false

/-- Some level skips the current iteration. -/
def Desc.skipped (d : Desc) (ext idx : List Nat) : Bool := (List.range d.levels).any (d.skips ext idx)

/-- An address of R106: base plus the strides of the indices, modulo 2^22. -/
def addr22 (base : Nat) (d : Desc) (idx : List Nat) (stride : Lvl → Int) : Nat :=
  (((base : Int) + (d.lvls.zipIdx.map (fun (l, i) => (idx.getD i 0 : Int) * stride l)).sum) % (2 ^ 22 : Int)).toNat

/-- The outside address of a transfer tile (R243), modulo 2^64. -/
def outside (d : Desc) (idx : List Nat) : Nat :=
  let t := d.xfer
  (((t.ext : Int) + (d.lvls.zipIdx.map (fun (l, i) => (idx.getD i 0 : Int) * l.eB * (2 ^ t.shift : Nat))).sum) % (2 ^ 64 : Int)).toNat

/-! ## Hand-over headers, programs and schedules -/

/-- A hand-over header (R147). -/
structure HoHdr where
  beat : Nat
  isEmpty : Bool
  stepLast : Bool
  ctx : Nat
  overran : Bool
  stage : Nat
  mb : Nat
  payload : Nat
  bndMask : Nat
  bndVals : List Nat
  crc : Nat
  crcOk : Bool
  deriving DecidableEq, Repr

/-- The header 64 bytes hold. -/
def HoHdr.of (h : List Byte) : HoHdr :=
  { beat := fld h 0 47 0, isEmpty := fld h 0 48 48 = 1, stepLast := fld h 0 49 49 = 1, ctx := fld h 0 50 50,
    overran := fld h 0 51 51 = 1, stage := fld h 8 15 0, mb := fld h 8 31 16, payload := fld h 8 63 32,
    bndMask := fld h 0x10 31 0, bndVals := (List.range 8).map (fun i => bits (u32At h (0x18 + 4 * i)) 23 0),
    crc := u32At h 0x3C, crcOk := crc32 (slice h 0 0x3C) = u32At h 0x3C }

/-- The 64 bytes of a hand-over header (R147). -/
def hoBytes (beat : Nat) (isEmpty last : Bool) (x : Ctx) (overran : Bool) (stage mb payload bndMask : Nat) (vals : List Nat) : List Byte :=
  let b := toBytes 8 (beat % 2 ^ 48 + place (b2n isEmpty) 48 + place (b2n last) 49 + place (ctxNo x) 50 + place (b2n overran) 51) ++
    toBytes 8 (stage % 65536 + place (mb % 65536) 16 + place (payload % 2 ^ 32) 32) ++ toBytes 8 (bndMask % 2 ^ 32) ++
    (List.range 8).flatMap (fun i => toBytes 4 (vals.getD i 0 % 2 ^ 24)) ++ toBytes 4 0
  b ++ toBytes 4 (crc32 b)

/-- A program entry (R133). -/
structure ProgEnt where
  op : Nat
  async : Bool
  desc : Nat
  bndReg : Nat
  value : Nat
  rsv : Nat
  deriving DecidableEq, Repr

/-- The entry a word holds. -/
def ProgEnt.of (v : BitVec 64) : ProgEnt :=
  let w := v.toNat
  { op := bits w 7 0, async := bit w 8, desc := bits w 23 16, bndReg := bits w 28 24, value := bits w 55 32,
    rsv := bits w 15 9 + bits w 31 29 + bits w 63 56 }

/-- A schedule entry (R135): InSel, ProgSel, OutSel and the reserved bits. -/
def schedOf (v : BitVec 16) : Nat × Nat × Nat × Nat :=
  (bits v.toNat 1 0, bits v.toNat 3 2, bits v.toNat 5 4, bits v.toNat 15 6)

/-- The beat message of R137 in its 32 bytes. -/
def BeatMsg.bytes (m : BeatMsg) : List Byte :=
  toBytes 8 (m.beat % 2 ^ 48 + place (m.master % 65536) 48) ++
  toBytes 8 (m.step % 2 ^ 48 + place (b2n m.stepStart) 48 + place (b2n m.periodNew) 49) ++
  toBytes 8 (m.period % 2 ^ 18) ++ toBytes 8 (m.hops % 256)

end Sys2Proof.Machine
end

