-- ==== Sys2Proof/Machine/Sequencer.lean ====
section
/-! DEFINITION. The loop-nest sequencer: output tiles, tile groups, the instructions each group issues, merged
loads, withdrawal and stolen groups (R104 to R123), and the hand-over windows (R146). -/

namespace Sys2Proof.Machine

/-- The descriptor of an index in a context of a cluster. -/
def State.desc (s : State) (c : Cl) (x : Ctx) (d : Fin 64) : Desc := Desc.of (((s.clusters.get c).seq.get x).descs.get d)

/-- Length of the input and the output window: the larger SlotBytes of the used inputs or outputs (R131). -/
def Stage.inLen (g : Stage) : Nat := (g.ins.toList.map (fun i => if i.used then i.slotBytes else 0)).foldl max 0
def Stage.outLen (g : Stage) : Nat := (g.outs.toList.map (fun o => if o.used then o.slotBytes else 0)).foldl max 0

/-- Where an access at a cluster-store offset goes: inside a window, to the same offset of the slot the running
beat uses (R146). -/
def Stage.place (g : Stage) (a : Nat) : Nat :=
  match g.run with
  | none => a
  | some r =>
    let viaOut : Nat := match r.outSel with
      | some (o, sl) =>
        if g.outWin ≤ a && a < g.outWin + g.outLen then
          (g.outs.toList[o]?).elim a (fun k => k.slotBase + sl * k.slotBytes + (a - g.outWin)) else a
      | none => a
    match r.inSel with
    | some (i, sl) =>
      if g.inWin ≤ a && a < g.inWin + g.inLen then
        (g.ins.toList[i]?).elim a (fun k => k.slotBase + sl * k.slotBytes + (a - g.inWin)) else viaOut
    | none => viaOut

/-- The same, for a context of a cluster. -/
def State.win (s : State) (c : Cl) (x : Ctx) (a : Nat) : Nat :=
  match s.stage c x with
  | none => a
  | some g => g.place a

/-- Bytes a descriptor operand reads at an offset, through the windows. -/
def State.csRdW (s : State) (c : Cl) (x : Ctx) (a len : Nat) : List Byte := s.csRd c (s.win c x a) len

/-- Bytes a descriptor operand writes at an offset, through the windows. -/
def State.csWrW (s : State) (c : Cl) (x : Ctx) (d a : Nat) (bs : List Byte) : State := s.csWr c x d a (s.win c x a) bs

/-- Index of the K level record. -/
def Desc.kLevel (d : Desc) : Nat := ((d.lvls.zipIdx.find? (fun (l, _) => l.dim = 2)).map (·.2)).getD 0

/-- The actual extent of each level record from the bound registers (R100, R109). -/
def Desc.extents (d : Desc) (bnd : Vector (BitVec 24) 32) : List Nat :=
  d.lvls.map (fun l => if l.bndUse then (bnd.get ⟨l.bndReg % 32, Nat.mod_lt _ (by decide)⟩).toNat else l.plan)

/-- The planned extent of each level record. -/
def Desc.plans (d : Desc) : List Nat := d.lvls.map (·.plan)

/-- The lowest-numbered level record whose actual extent exceeds its PlanBound (R111). -/
def Desc.shapeOver (d : Desc) (ext : List Nat) : Option Nat :=
  (d.lvls.zipIdx.find? (fun (l, i) => decide (l.plan < ext.getD i 0))).map (·.2)

/-- Some level's effective bound is 0 (R110). -/
def extEmpty (ext : List Nat) : Bool := ext.any (· = 0)

/-- First element of the tile on a Dim: Σ index × Step over its levels. -/
def Desc.dimStart (d : Desc) (idx : List Nat) (dim : Nat) : Nat :=
  (d.lvls.zipIdx.map (fun (l, i) => if l.dim = dim then idx.getD i 0 * d.stepOf l else 0)).sum

/-- The linear index of the Outer levels, in rank order with their PlanBounds as radices (R107). -/
def Desc.outerIndex (d : Desc) (idx : List Nat) : Nat :=
  d.byRank.foldl (fun o (i, l) => if l.dim = 3 then o * l.plan + idx.getD i 0 else o) 0

/-- RowTiles of R107. -/
def Desc.rowTiles (d : Desc) : Nat :=
  match d.lvls.zipIdx.find? (fun (l, i) => l.dim = 0 && d.outermost i) with
  | some (l, _) => cdiv l.plan 16
  | none => 0

/-- The output tile at a vector of loop indices (R105 to R107, R112). -/
def Desc.tile (d : Desc) (ext idx : List Nat) : Tile :=
  let mi := (d.innermost 0).getD 0
  let ni := (d.innermost 1).getD 0
  { row := d.rowBase + d.outerIndex idx * d.rowTiles + d.dimStart idx 0 / 16,
    col := d.colBase + d.dimStart idx 1 / 64,
    validRows := d.covers ext idx mi, validCols := d.covers ext idx ni, idx := idx,
    outAddr := addr22 d.out.elem d idx (·.eOut), outScale := addr22 d.out.scale d idx (·.sOut),
    auxAddr := addr22 d.aux.elem d idx (·.eAux), auxScale := addr22 d.aux.scale d idx (·.sAux) }

/-- The iterations that form output tiles: K index 0. -/
def Desc.outIdx (d : Desc) (ext : List Nat) : List (List Nat) := (d.walk ext).filter (fun idx => idx.getD d.kLevel 0 = 0)

/-- The output tiles a command computes, in loop order. -/
def Desc.tiles (d : Desc) (ext : List Nat) : List Tile :=
  ((d.outIdx ext).filter (fun idx => !d.skipped ext idx)).map (d.tile ext)

/-- The level a group's tiles may differ in: the highest-ranked one before K (R114). -/
def Desc.groupLevel (d : Desc) : Nat :=
  ((d.byRank.filter (fun (_, l) => l.dim != 2)).getLast?.map (·.1)).getD 0

/-- Tiles cut into groups (R114). -/
def groupsOf (n lvl : Nat) (ts : List Tile) : List (List Tile) :=
  (ts.foldl (fun (acc : List (List Tile)) t =>
    match acc with
    | g :: rest =>
      match g with
      | u :: _ => if g.length < n && u.idx.set lvl 0 = t.idx.set lvl 0 then (t :: g) :: rest else [t] :: acc
      | [] => [t] :: rest
    | [] => [[t]]) []).reverse.map List.reverse

/-- The A or B load of a tile at K iteration `k` (R98, R112), for one engine. -/
def Desc.load (d : Desc) (ext : List Nat) (t : Tile) (isB : Bool) (k half eng : Nat) : LoadW :=
  let idx := t.idx.set d.kLevel k
  let v := d.covers ext idx d.kLevel
  let o := if isB then d.b else d.a
  let sc := match Fmt.ofCode o.fmt with | some f => f.scaled | none => false
  { isB := isB, half := half, tr := isB && o.tr, fmt := o.fmt, kBlocks := cdiv v 32, kTail := v % 32,
    lines := if isB then t.validCols else t.validRows,
    elem := addr22 o.elem d idx (if isB then (·.eB) else (·.eA)),
    scale := if sc then addr22 o.scale d idx (if isB then (·.sB) else (·.sA)) else 0,
    rowStride := o.rowStride, scaleStride := o.scaleStride, engMask := 2 ^ eng }

/-- A load word with its half and EngMask taken as 0: what R117 compares. -/
def loadKey (w : BitVec 128) : BitVec 128 := noMask w &&& ~~~(256#128)

/-- Issue state of an engine while a group's instructions are written: loads per half, next halves, entries. -/
structure IssueSt where
  issued : Vector (Option (BitVec 128)) 4
  nextA : Bool
  nextB : Bool
  out : List QEntry
  deriving DecidableEq, Repr

/-- One load, omitted where a half already holds it (R117). The result names the half used. -/
def issueLoad (st : IssueSt) (mk : Nat → LoadW) (isB : Bool) (q : BitVec 128 → QEntry) : IssueSt × Nat :=
  let base := if isB then 2 else 0
  let key := loadKey (mk 0).word
  let held (h : Fin 4) : Bool := match st.issued.get h with | some w => loadKey w = key | none => false
  let i0 : Fin 4 := if isB then 2 else 0
  let i1 : Fin 4 := if isB then 3 else 1
  if held i0 then (st, i0.val - base) else if held i1 then (st, i1.val - base)
  else
    let nx := if isB then st.nextB else st.nextA
    let i := if nx then i1 else i0
    let w := (mk (b2n nx)).word
    ({ st with
        issued := upd st.issued i (fun _ => some (noMask w)),
        nextA := if isB then st.nextA else !nx, nextB := if isB then !nx else st.nextB,
        out := st.out ++ [q w] }, b2n nx)

/-- The instructions of one tile group, in the order of R116. -/
def issueGroup (d : Desc) (dn : Fin 64) (x : Ctx) (ext : List Nat) (eng ord : Nat) (ts : List Tile) (st : IssueSt) : IssueSt :=
  let q (j : Nat) (w : BitVec 128) : QEntry := { word := w, ctx := x, desc := dn, group := ord, tile := j }
  let jt := ts.zipIdx
  let st := { st with out := st.out ++ jt.map (fun (t, j) => q j (crdWord j t.row t.col)) }
  let ks := match ts with | t :: _ => cdiv (d.effBound ext t.idx d.kLevel 7) (((d.lvls[d.kLevel]?).map (·.step)).getD 1) | [] => 0
  let st := (List.range ks).foldl (fun st k =>
    jt.foldl (fun st (t, j) =>
      let (st, bh) := issueLoad st (fun h => d.load ext t true k h eng) true (q j)
      let (st, ah) := issueLoad st (fun h => d.load ext t false k h eng) false (q j)
      let kb := (d.load ext t false k 0 eng).kBlocks
      { st with out := st.out ++ [q j (macWord d.b.tr j ah bh (k = 0) d.a.fmt d.b.fmt kb)] }) st) st
  let sc := match Fmt.ofCode d.out.fmt with | some f => f.scaled | none => false
  let st := { st with out := st.out ++ jt.map (fun ((t : Tile), (j : Nat)) =>
    let w := StoreW.word
      { acc := j, rnd := d.rnd, sat := d.sat, clearAfter := false, fmt := d.out.fmt, rows := t.validRows,
        cols := t.validCols, elem := t.outAddr, scale := if sc then t.outScale else 0, rowStride := d.out.rowStride,
        scaleStride := d.out.scaleStride, stream := d.stream }
    { q j w with fused := d.kind = 2 }) }
  { st with out := st.out ++ [q 0 (syncWord false false true ord)] }

/-- A group's instructions placed at the end of an engine's queue. -/
def pushGroup (s : State) (c : Cl) (x : Ctx) (d : Fin 64) (ext : List Nat) (e : En) (g : Group) : State :=
  let k := (s.clusters.get c).engines.get e
  let st := issueGroup (s.desc c x d) d x ext e.val g.ord g.tiles { issued := k.issued, nextA := k.nextA, nextB := k.nextB, out := [] }
  s.updEngine c e (fun k => { k with issued := st.issued, nextA := st.nextA, nextB := st.nextB, queue := k.queue ++ st.out })

/-- An entry is a TLDA or TLDB. -/
def QEntry.isLoad (q : QEntry) : Bool := tw q.word 7 0 = opTlda || tw q.word 7 0 = opTldb

/-- Loads of one wave that are identical in every field except EngMask become one multicast load (R118).
`ord` groups of a command form waves of `n`; the entries of the command are those of descriptor `d`. -/
def mergeWaves (s : State) (c : Cl) (x : Ctx) (d : Fin 64) (n : Nat) : State :=
  let k := s.clusters.get c
  let mine (q : QEntry) : Bool := q.ctx = x && q.desc = d && q.isLoad && q.mc = 0
  -- every load of the command: engine, wave, word without mask, occurrence within engine and wave
  let keyed : List (Nat × Nat × BitVec 128 × Nat) := (List.finRange 16).flatMap (fun e =>
    (((k.engines.get e).queue.filter mine).foldl (fun (acc : List (Nat × Nat × BitVec 128 × Nat)) q =>
      let w := noMask q.word
      let wv := q.group / n
      acc ++ [(e.val, wv, w, (acc.filter (fun a => a.2.1 = wv && a.2.2.1 = w)).length)]) []))
  let keys := (keyed.map (·.2)).eraseDups
  let merged := keys.filter (fun key => 1 < (keyed.filter (fun a => a.2 = key)).length)
  let number (key : Nat × BitVec 128 × Nat) : Nat := k.mcNext + (merged.findIdx (· = key))
  let mask (key : Nat × BitVec 128 × Nat) : Nat := (keyed.filter (fun a => a.2 = key)).foldl (fun m a => m + 2 ^ a.1) 0
  let rewrite (_e : Nat) (qs : List QEntry) : List QEntry :=
    (qs.foldl (fun (acc : List QEntry × List (Nat × BitVec 128)) q =>
      if mine q then
        let w := noMask q.word
        let wv := q.group / n
        let occ := (acc.2.filter (fun a => a = (wv, w))).length
        let key := (wv, w, occ)
        let q' := if merged.contains key then { q with word := withMask q.word (mask key), mc := number key } else q
        (acc.1 ++ [q'], acc.2 ++ [(wv, w)])
      else (acc.1 ++ [q], acc.2)) ([], [])).1
  let s := (List.finRange 16).foldl (fun s e => s.updEngine c e (fun g => { g with queue := rewrite e.val g.queue })) s
  s.updCluster c (fun k => { k with mcNext := k.mcNext + merged.length })

/-- Engines of a mask that are in service, in ascending number (R115). -/
def State.enginesIn (s : State) (c : Cl) (mask : Nat) : List En :=
  (List.finRange 16).filter (fun e => bit mask e.val && !((s.clusters.get c).engines.get e).fenced)

/-- The commands of a cluster's running beats. -/
def State.cmds (s : State) (c : Cl) : List Cmd :=
  (((s.run c .j0).map (·.cmds)).getD []) ++ (((s.run c .j1).map (·.cmds)).getD [])

/-- A group record of a running command. -/
def State.group? (s : State) (c : Cl) (x : Ctx) (d : Fin 64) (ord : Nat) : Option Group :=
  (s.cmd c x d).bind (fun k => k.groups.find? (·.ord = ord))

/-- A group record changed. -/
def State.updGroup (s : State) (c : Cl) (x : Ctx) (d : Fin 64) (ord : Nat) (f : Group → Group) : State :=
  s.updCmd c x d (fun k => { k with groups := k.groups.map (fun g => if g.ord = ord then f g else g) })

/-- Loads last placed into the halves once entries leave the queue: those still queued, else those executed
(R117). -/
def Engine.reissued (k : Engine) (qs : List QEntry) : Engine :=
  let f (i : Fin 4) : Option (BitVec 128) :=
    match (qs.filter (fun q => q.isLoad && (if tw q.word 7 0 = opTldb then 2 else 0) + tw q.word 8 8 = i.val)).getLast? with
    | some q => some (noMask q.word)
    | none => k.loaded.get i
  let parity (b : Bool) : Bool :=
    match (qs.filter (fun q => q.isLoad && (tw q.word 7 0 = opTldb) == b)).getLast? with
    | some q => tw q.word 8 8 = 0
    | none => if b then k.nextB else k.nextA
  { k with queue := qs, issued := Vector.ofFn f, nextA := parity false, nextB := parity true }

/-- Copies of merged loads no longer name an engine whose copy is withdrawn. -/
def dropCopies (s : State) (c : Cl) (e : En) (mcs : List Nat) : State :=
  (List.finRange 16).foldl (fun s o => s.updEngine c o (fun g => { g with queue := g.queue.map (fun q =>
    if q.mc != 0 && mcs.contains q.mc then
      let m := tw q.word 124 109
      { q with word := withMask q.word (if bit m e.val then m - 2 ^ e.val else m) } else q) })) s

/-- The groups of the entries of a queue, in order, each once. -/
def groupKeys (qs : List QEntry) : List (Ctx × Fin 64 × Nat) := (qs.map (fun q => (q.ctx, q.desc, q.group))).eraseDups

/-- Withdraws a group's instructions from an engine's queue (R89); the groups that stand behind it in the queue
are issued again on the basis of R117. -/
def withdraw (s : State) (c : Cl) (e : En) (x : Ctx) (d : Fin 64) (ord : Nat) : State :=
  let k := (s.clusters.get c).engines.get e
  let isG (q : QEntry) : Bool := q.ctx = x && q.desc = d && q.group = ord
  let pre := k.queue.takeWhile (fun q => !isG q)
  let rest := k.queue.drop pre.length
  let post := rest.filter (fun q => !isG q)
  let s := dropCopies s c e ((rest.filter (fun q => q.mc != 0)).map (·.mc))
  let s := s.updEngine c e (fun k => k.reissued pre)
  (groupKeys post).foldl (fun s (x', d', o') =>
    match s.cmd c x' d' with
    | none => s
    | some cm =>
      match cm.groups.find? (·.ord = o') with
      | none => s
      | some g => pushGroup s c x' d' cm.extents e g) s

/-- A group passes to an engine as a stolen group (R121). -/
def giveGroup (s : State) (c : Cl) (x : Ctx) (d : Fin 64) (ord : Nat) (thief : En) : State :=
  match s.cmd c x d with
  | none => s
  | some cm =>
    match cm.groups.find? (·.ord = ord) with
    | none => s
    | some g =>
      let s := s.updGroup c x d ord (fun g => { g with owner := thief.val, started := false, stolen := true, out := [] })
      pushGroup s c x d cm.extents thief g

/-- Tiles of the groups an engine holds that are not started. -/
def State.unstarted (s : State) (c : Cl) (e : En) : Nat :=
  ((s.cmds c).map (fun k => ((k.groups.filter (fun g => g.owner = e.val && !g.started && !g.done)).map (·.tiles.length)).sum)).sum

/-- The engine of a list that holds the fewest unstarted tiles, the lowest-numbered of those. -/
def State.leastLoaded (s : State) (c : Cl) (es : List En) : Option En :=
  es.foldl (fun b e => match b with
    | none => some e
    | some o => if s.unstarted c e < s.unstarted c o then some e else b) none

end Sys2Proof.Machine
end

