-- ==== Sys2Proof/Machine/Recover.lean ====
section
/-! DEFINITION. Strikes, work items, fences, failed beats and halts (R444 to R471), which every unit's meaning
reaches when one of its checks fails. -/

namespace Sys2Proof.Machine

/-! ## Units and records -/

/-- A matrix engine as a unit (R483). -/
def engineUnit (c : Cl) (e : En) : UnitId := { cls := 1, unit := c.val, sub := e.val }
/-- The VE of a cluster. -/
def veUnit (c : Cl) : UnitId := { cls := 2, unit := c.val }
/-- The sequencer of a cluster. -/
def seqUnit (c : Cl) : UnitId := { cls := 3, unit := c.val }
/-- The cluster store of a cluster. -/
def storeUnit (c : Cl) : UnitId := { cls := 4, unit := c.val }

/-- The Work detail of R484. -/
def workDetail (kind d stage ord opcode struct rows capture : Nat) : List Byte :=
  toBytes 1 kind ++ toBytes 1 d ++ toBytes 2 stage ++ toBytes 4 ord ++ toBytes 1 opcode ++ toBytes 1 struct ++
    toBytes 2 rows ++ toBytes 4 capture

/-- The Memory detail of R484. -/
def memDetail (addr off unitClass symbol : Nat) : List Byte :=
  toBytes 8 addr ++ toBytes 8 off ++ toBytes 2 unitClass ++ toBytes 2 symbol

/-- The Link detail of R484. -/
def linkDetail (peer port cause before after replays : Nat) : List Byte :=
  toBytes 2 peer ++ toBytes 1 port ++ toBytes 1 cause ++ toBytes 1 before ++ toBytes 1 after ++ toBytes 2 0 ++ toBytes 4 replays

/-- Number of the stage of a context on a cluster. -/
def State.stageNo (s : State) (c : Cl) (x : Ctx) : Nat := ((s.stage c x).map (·.number)).getD 0

/-- Number of the beat a stage runs. -/
def State.beatNo (s : State) (c : Cl) (x : Ctx) : Nat := ((s.run c x).map (·.beat)).getD 0

/-- Code of an item kind (R484). -/
def ItemKind.code : ItemKind → Nat
  | .group => 1
  | .launch => 2
  | .attStep => 3

/-- Bytes that a list of ranges covers, each once (R457). -/
def coveredFrom : Nat → List (Nat × Nat) → Nat
  | _, [] => 0
  | hi, (a, n) :: l =>
    let lo := max hi a
    let e := a + n
    (e - lo) + coveredFrom (max hi e) l

/-- Bytes of a capture (R457). -/
def WorkItem.captureBytes (w : WorkItem) : Nat :=
  w.captureInstr + coveredFrom 0 (w.captureReads.mergeSort (fun p q => decide (p.1 ≤ q.1)))

/-- The fault record of a work item, with an event code, severity and action of R482 and R483. -/
def itemRec (s : State) (w : WorkItem) (code sev action : Nat) : FaultRec :=
  { severity := sev, eventCode := code, unitClass := w.failing.cls, action := action, strikes := w.strikes, beatNum := w.beat,
    digestOrig := w.digestOrig.toNat, digestReplay := w.digestReplay.toNat,
    detail := workDetail w.kind.code w.desc.val w.stage w.ord w.opcode w.struct w.rows.toNat w.captureBytes,
    origDevNum := s.ident.origDevNum }

/-! ## Links between devices -/

/-- Pod entries that place the devices of this pod: those of the active bank, or, while a job is open, of the bank active
when the job was opened, since a takeover changes routes and no logical place (R437, R441, DEDUCED, log entry 20). -/
def State.placeTable (s : State) : List (BitVec 64) :=
  if (s.jobs.j0.isOpen || s.jobs.j1.isOpen) && !s.fab.places.isEmpty then s.fab.places
  else match s.fab.bank? s.fab.activeEpoch with
    | none => []
    | some b => b.pod

/-- The entry that places a device of this pod. -/
def State.podEntry (s : State) (dev : Nat) : Option (BitVec 64) :=
  if podOf dev = podOf s.ident.devNum then s.placeTable[podIndex dev]? else none

/-- The device of this pod at given coordinates on axes A to F, as the active route bank places them (R375); 0 where
no entry names it (DEDUCED, log entry 20). -/
def State.devAt (s : State) (coords : List Nat) : Nat :=
  let mine := (List.range 6).map (fun a => bits s.ident.logCoord (6 * a + 5) (6 * a))
  if coords = mine then s.ident.devNum
  else
      match s.placeTable.findIdx? (fun e => bits e.toNat 3 0 != 0xF && (List.range 6).map (fun a => entryCoord e false a) = coords) with
      | some i => podOf s.ident.devNum * 512 + i + 1
      | none => 0

/-- The device a number of positions along the plus direction of an axis (R345, R388). -/
def State.along (s : State) (axis off : Nat) : Nat :=
  let mine := (List.range 6).map (fun a => bits s.ident.logCoord (6 * a + 5) (6 * a))
  let len := max 1 (s.ringLen axis)
  s.devAt (mine.set axis ((mine.getD axis 0 + off) % len))

/-- The buddy of a context's mapping (R388). -/
def State.buddy (s : State) (x : Ctx) : Nat := s.along (s.jobs.get x).map.buddyAxis (s.jobs.get x).map.buddyOff

/-- A message of this device's Mule to another (R359). The manual gives its length and not its layout: the first byte
names the message and the rest its fields (DESIGN CHOICE, log entry 21). -/
def muleMsg (dst kind : Nat) (fields : List Nat) : Pkt := ctlPkt 0x0B dst (toBytes 1 kind ++ fields.flatMap (toBytes 8))

/-- A RING_SPLIT that a forwarding step has found is raised, once for the axis (R384). -/
def raiseSplits (s : State) : State :=
  s.fab.split.foldl (fun s a =>
    if 100 ≤ a then
      raise { s with fab := { s.fab with split := (a - 100) :: s.fab.split.filter (· != a) } }
        { code := Code.RING_SPLIT, unit := { cls := 8, unit := 2 * (a - 100) }, detail := detailOf 0 (a - 100) 0 }
    else s) s

/-- A packet sent, with the events its forwarding raises. -/
def send (s : State) (k : Pkt) : State := raiseSplits (sendPkt s k)

/-! ## Halts and failed beats -/

/-- This device halts a context (R465). -/
def haltHere (s : State) (x : Ctx) : State :=
  let j := s.jobs.get x
  if !j.isOpen || j.halted then s
  else raiseCtx (s.updJob x (fun j => { j with halted := true })) Code.JOB_HALTED (some x) { cls := 0 } j.beat 0

/-- This device halts a context and sends the halt to every other device of the job (R465). -/
def haltAll (s : State) (x : Ctx) : State :=
  let s := haltHere s x
  ((s.jobs.get x).members.filter (fun m => m.1 != s.ident.devNum)).foldl
    (fun s m => send s (muleMsg m.1 1 [ctxNo x])) s

/-- A held command fails with its own fault when its beat fails (R211, R269). -/
def Cmd.failHeld (k : Cmd) : Cmd :=
  let h := match k.xfer.bind (·.held), k.att.bind (·.held) with
    | some h, _ => some h
    | none, some h => some h
    | none, none => none
  match k.st, h with
  | .running, some (cause, _) => { k with st := .failed (if cause = 1 then Code.KV_FAULT else Code.OWN_FAULT) }
  | _, _ => k

/-- A beat fails with a status (R465): it is discarded, BEAT_FAILED is raised and the context halts. -/
def failBeat (s : State) (c : Cl) (x : Ctx) (status : Nat) : State :=
  match s.run c x with
  | none => s
  | some r =>
    if r.failed.isSome then s
    else
      let s := s.updRun c x (fun r => { r with failed := some status, cmds := r.cmds.map Cmd.failHeld })
      let s := { s with
        goose := { s.goose with items := s.goose.items.map (fun (w : WorkItem) =>
          if w.cluster = c && w.ctx = x && w.st != ItemSt.resolved then { w with st := .failed status } else w) },
        mem := { s.mem with kvHeld := s.mem.kvHeld.filter (fun (k : KvHeld) => !(k.cluster = c.val && k.ctx = x)) } }
      let s := s.updJob x (fun j => { j with failedBeat := some (min r.beat (j.failedBeat.getD r.beat)) })
      let sub := s.stageNo c x + place status 16
      let s := raiseRecAs s { code := Code.BEAT_FAILED, ctx := some x, unit := seqUnit c,
                              detail := toBytes 8 (r.beat % 2 ^ 48) ++ toBytes 8 sub }
        { severity := 0, eventCode := 0x0107, unitClass := 3, action := 6, beatNum := r.beat,
          detail := workDetail 0 0 (s.stageNo c x) 0 0 0 0 0 }
      haltAll s x

/-- A command fails (R129): it issues nothing more, its unstarted groups leave their engines, and its beat fails. -/
def failCmd (s : State) (c : Cl) (x : Ctx) (d : Fin 64) (status : Nat) (report : List Nat := []) : State :=
  match s.cmd c x d with
  | none => s
  | some cm =>
    let s := (cm.groups.filter (fun g => !g.started && !g.done)).foldl (fun s g =>
      if h : g.owner < 16 then withdraw s c ⟨g.owner, h⟩ x d g.ord else s) s
    let s := s.updCmd c x d (fun k => { k with st := .failed status, report := report })
    failBeat s c x status

/-! ## Strikes and fences -/

/-- Strikes against a unit that count now (R448). -/
def State.strikesOf (s : State) (u : UnitId) : Nat :=
  (s.goose.strikes.filter (fun p => p.1 = u && s.now ≤ p.2 + s.goose.policy.strikeWindow * 1000000000)).length

/-- CAP_CHANGED (R26). The capability record is computed from the state, so it already shows the change. -/
def capChanged (s : State) : State := raise s { code := Code.CAP_CHANGED }

/-- A work item that is still to be resolved. -/
def WorkItem.isOpen (w : WorkItem) : Bool :=
  match w.st with
  | .resolved => false
  | .failed _ => false
  | _ => true

/-- The open item of a kind and ordinal of a command. -/
def State.itemOf (s : State) (kind : ItemKind) (c : Cl) (x : Ctx) (d : Fin 64) (ord : Nat) : Option WorkItem :=
  s.goose.items.find? (fun w => w.kind = kind && w.cluster = c && w.ctx = x && w.desc = d && w.ord = ord && w.isOpen)

/-- An item changed. -/
def State.updItem (s : State) (id : Nat) (f : WorkItem → WorkItem) : State :=
  { s with goose := { s.goose with items := s.goose.items.map (fun w => if w.id = id then f w else w) } }

/-- Slots that hold a group's stored tiles are let go when the group is recomputed (R123, R125). -/
def Cmd.freeSlots (k : Cmd) (ord : Nat) : Cmd :=
  { k with slots := k.slots.map (fun sl => match sl with | .stored g _ => if g = ord then .free else sl | _ => sl),
           order := k.order.filter (fun i => match k.slots[i]? with | some (.stored g _) => g != ord | _ => true),
           groups := k.groups.map (fun g => if g.ord = ord then { g with slots := [] } else g) }

/-- The groups of a fenced engine pass to the engines of the command still in service, each to the one with fewest
unstarted tiles (R123, DEDUCED, log entry 22). A group with an open item stays for its replay. -/
def passGroups (s : State) (c : Cl) (e : En) : State :=
  [Ctx.j0, Ctx.j1].foldl (fun s x =>
    (((s.run c x).map (·.cmds)).getD []).foldl (fun s cm =>
      if cm.st != .running then s else
      (cm.groups.filter (fun g => g.owner = e.val && !g.done)).foldl (fun s g =>
        if ((s.clusters.get c).engines.get e).tokens.any (fun t => t.ctx = x && t.desc = cm.desc && t.group = g.ord) then s
        else
          let s := withdraw s c e x cm.desc g.ord
          if (s.itemOf .group c x cm.desc g.ord).isSome then s
          else
            match s.leastLoaded c (s.enginesIn c (s.desc c x cm.desc).engMask) with
            | none => failCmd s c x cm.desc Code.NO_ENGINE
            | some t => giveGroup (s.updCmd c x cm.desc (fun k => k.freeSlots g.ord)) c x cm.desc g.ord t) s) s) s

/-- A receive whose leader is fenced fails (R253). -/
def loseReceives (s : State) (leader : Cl) : State :=
  (List.finRange 40).foldl (fun s c =>
    [Ctx.j0, Ctx.j1].foldl (fun s x =>
      (((s.run c x).map (·.cmds)).getD []).foldl (fun s cm =>
        let d := s.desc c x cm.desc
        if cm.st == .running && d.kind = 4 && d.xfer.dir = 2 && d.xfer.leader = leader.val then
          failCmd s c x cm.desc Code.MCAST_LOST else s) s) s) s

/-- A cluster is fenced (R463): CLUSTER_FENCED and CAP_CHANGED are raised and every beat on it fails. -/
def fenceCluster (s : State) (c : Cl) (u : UnitId) : State :=
  if (s.clusters.get c).fenced then s
  else
    let s := s.updCluster c (fun k => { k with fenced := true })
    let s := { s with goose := { s.goose with fenced := u :: s.goose.fenced } }
    let s := raiseRec s { code := Code.CLUSTER_FENCED, unit := u } 0 c.val
      { severity := 0, eventCode := 0x0106, unitClass := u.cls, action := 4, strikes := s.strikesOf u }
    let s := capChanged s
    let s := failBeat (failBeat s c .j0 Code.CLUSTER_FENCED) c .j1 Code.CLUSTER_FENCED
    loseReceives s c

/-- A unit of a cluster is fenced (R463). -/
def fenceUnit (s : State) (u : UnitId) (r : FaultRec) : State :=
  if s.goose.fenced.contains u then s
  else
    let s0 := { s with goose := { s.goose with fenced := u :: s.goose.fenced } }
    let rec' := { r with severity := 0, eventCode := 0x0105, unitClass := u.cls, action := 4, strikes := s.strikesOf u }
    if u.cls = 1 then
      if h : u.unit < 40 ∧ u.sub < 16 then
        let c : Cl := ⟨u.unit, h.1⟩
        let e : En := ⟨u.sub, h.2⟩
        let s := s0.updEngine c e (fun k => { k with fenced := true })
        let s := capChanged (raiseRec s { code := Code.UNIT_FENCED, unit := u } r.beatNum u.unit rec')
        let s := passGroups s c e
        s.updEngine c e (fun k => { k with queue := [], stopped := none })
      else s
    else if 2 ≤ u.cls ∧ u.cls ≤ 5 then
      if h : u.unit < 40 then
        let s1 := raiseRec s { code := Code.UNIT_FENCED, unit := u } r.beatNum u.unit rec'
        fenceCluster s1 ⟨u.unit, h⟩ u
      else s
    else if u.cls = 9 then
      if h : u.unit < 2 then
        let s := { s0 with coll := { s0.coll with fencedHalf := upd s0.coll.fencedHalf ⟨u.unit, h⟩ (fun _ => true) } }
        capChanged (raiseRec s { code := Code.UNIT_FENCED, unit := u } r.beatNum u.unit rec')
      else s
    else if u.cls = 10 then
      if h : u.unit < 256 then
        let s := s0.updChan ⟨u.unit, h⟩ (fun k => { k with oxFenced := true })
        capChanged (raiseRec s { code := Code.UNIT_FENCED, unit := u } r.beatNum u.unit rec')
      else s
    else capChanged (raiseRec s0 { code := Code.UNIT_FENCED, unit := u } r.beatNum u.unit rec')

/-- A strike is charged to a unit; its second within StrikeWindow fences it (R447, R448, R463). -/
def charge (s : State) (u : UnitId) (r : FaultRec) : State :=
  let s := { s with goose := { s.goose with strikes := s.goose.strikes ++ [(u, s.now)] } }
  if 2 ≤ s.strikesOf u then fenceUnit s u r else s

/-- A check fails in a work item (R93, R447): Goose is told, the item becomes suspect, and the unit takes a
strike. -/
def checkFail (s : State) (kind : ItemKind) (c : Cl) (x : Ctx) (d : Fin 64) (ord : Nat) (u : UnitId)
    (opcode struct : Nat) (rows : BitVec 16) : State :=
  let w : WorkItem := { id := s.goose.nextItem, kind := kind, cluster := c, ctx := x, desc := d, ord := ord, beat := s.beatNo c x,
                        stage := s.stageNo c x, failing := u, strikes := s.strikesOf u + 1, opcode := opcode, struct := struct,
                        rows := rows }
  let s := match s.itemOf kind c x d ord with
    | some o => s.updItem o.id (fun o => { o with checkFailed := true, strikes := w.strikes, replayPassed := false })
    | none => { s with goose := { s.goose with items := s.goose.items ++ [w], nextItem := s.goose.nextItem + 1 } }
  let s := raiseCtx s Code.CHECK_FAIL (some x) u (s.beatNo c x) d.val
  charge s u (itemRec s w 0x0105 0 4)

/-- A group that holds a group excluded from the residue check is replayed as if it were suspect, with no strike
(R446). -/
def uncheckedItem (s : State) (c : Cl) (x : Ctx) (d : Fin 64) (ord : Nat) (u : UnitId) : State :=
  match s.itemOf .group c x d ord with
  | some _ => s
  | none =>
    let w : WorkItem := { id := s.goose.nextItem, kind := .group, cluster := c, ctx := x, desc := d, ord := ord,
                          beat := s.beatNo c x, stage := s.stageNo c x, failing := u, checkFailed := false, strikes := 0 }
    { s with goose := { s.goose with items := s.goose.items ++ [w], nextItem := s.goose.nextItem + 1 } }

/-- Bytes and ranges that a replay reads join its capture (R457). -/
def capture (s : State) (item : Option Nat) (instr : Nat) (reads : List (Nat × Nat)) : State :=
  match item with
  | none => s
  | some id => s.updItem id (fun w => { w with captureInstr := w.captureInstr + instr, captureReads := w.captureReads ++ reads })

/-! ## Cluster-store errors -/

/-- A read of a cluster-store word meets an uncorrectable error (R238): CS_UE once in the beat, the beat fails, and a
second within StrikeWindow fences the cluster (R463). -/
def csUe (s : State) (c : Cl) (x : Ctx) (off : Nat) : State :=
  let w := off / 8
  if ((s.clusters.get c).seq.get x).ueRaised.contains w then s
  else
    let s := s.updSeq c x (fun q => { q with ueRaised := w :: q.ueRaised })
    let s := s.updCluster c (fun k => { k with csUe := s.now :: k.csUe })
    let s := raiseRec s { code := Code.CS_UE, ctx := some x, unit := storeUnit c } (s.beatNo c x) (8 * w)
      { severity := 0, eventCode := 0x0201, unitClass := 4, action := 6, detail := memDetail (8 * w) (8 * w) 4 0xFFFF }
    let s := failBeat s c x Code.CS_UE
    if 2 ≤ ((s.clusters.get c).csUe.filter (fun t => s.now ≤ t + s.goose.policy.strikeWindow * 1000000000)).length then
      fenceCluster s c (storeUnit c)
    else s

/-- A read of the cluster store under an upset of its SECDED words (R238). -/
def csUpset (s : State) (c : Cl) (x : Ctx) (off : Nat) : Upset → State
  | .ce => noteCorrected (bumpC s Cnt.CS_CE c) (storeUnit c) 0x0202 1
  | .ue => csUe s c x off
  | _ => s

/-! ## Work of a beat let go -/

/-- Every activity of a context on a cluster is let go: engine queues, tokens, launches and threads of its commands,
and their SFU requests (R164, R188, R467). -/
def dropWork (s : State) (c : Cl) (x : Ctx) : State :=
  let s := (List.finRange 16).foldl (fun s e =>
    s.updEngine c e (fun k =>
      let qs := k.queue.filter (fun q => q.ctx != x)
      let k := { k with tokens := k.tokens.filter (fun t => t.ctx != x) }
      if qs.length = k.queue.length then k else k.reissued qs)) s
  s.updCluster c (fun k =>
    let mine (t : Thread) : Bool := match t.launch with | some l => t.active && l.ctx = x | none => false
    let gone := (List.finRange 8).filter (fun t => mine (k.threads.get t))
    { k with
      threads := k.threads.map (fun t => if mine t then { t with active := false, launch := none } else t),
      launchQ := k.launchQ.filter (fun l => l.ctx != x),
      sfuQ := k.sfuQ.filter (fun r => !gone.contains r.thread) })

end Sys2Proof.Machine
end

