-- ==== Sys2Proof/Machine/Tile.lean ====
section
/-! DEFINITION. The tile instructions (R65 to R93), the tokens they post, the reload of a stopped engine and
stealing. An engine's queue holds what the sequencer issued to it; each command executes its head. -/

namespace Sys2Proof.Machine

/-! ## Operand halves -/

/-- Valid elements along K of a load (R71, R73). -/
def LoadW.kValid (l : LoadW) : Nat := if l.kTail = 0 then 32 * l.kBlocks else 32 * (l.kBlocks - 1) + l.kTail

/-- Bytes of `n` elements of `w` bits. -/
def rowBytes (w n : Nat) : Nat := cdiv (n * w) 8

/-- Where the element rows of a load lie and how many elements of each are valid (R72): for each line of the half, the
pieces it is made of. -/
def LoadW.rows (l : LoadW) (f : Fmt) : List (List (Nat × Nat)) :=
  let v := l.kValid
  let blk := 128 * f.width
  let halves : List Nat := List.range (cdiv l.lines 32)
  if !l.isB then (List.range l.lines).map (fun i => [(l.elem + i * l.rowStride, v)])
  else if f.isSq then
    if !l.tr then
      (List.range v).map (fun k => halves.map (fun c =>
        (l.elem + (k / 32) * l.rowStride + c * blk + (k % 32) * 4 * f.width, min 32 (l.lines - 32 * c))))
    else
      (List.range l.lines).map (fun n => (List.range l.kBlocks).map (fun j =>
        (l.elem + (n / 32) * l.rowStride + j * blk + (n % 32) * 4 * f.width, min 32 (v - 32 * j))))
  else if l.tr then (List.range l.lines).map (fun n => [(l.elem + n * l.rowStride, v)])
  else (List.range v).map (fun k => [(l.elem + k * l.rowStride, l.lines)])

/-- Where the scale rows of a load lie and their lengths (R72). -/
def LoadW.scaleRows (l : LoadW) (f : Fmt) : List (Nat × Nat) :=
  if !f.scaled then []
  else if !l.isB then (List.range l.lines).map (fun i => (l.scale + i * l.scaleStride, l.kBlocks))
  else if f.isSq then
    if l.tr then (List.range (cdiv l.lines 32)).map (fun c => (l.scale + c * l.scaleStride, l.kBlocks))
    else (List.range l.kBlocks).map (fun j => (l.scale + j * l.scaleStride, cdiv l.lines 32))
  else (List.range l.kBlocks).map (fun j => (l.scale + j * l.scaleStride, l.lines))

/-- The byte ranges a load reads. -/
def LoadW.reads (l : LoadW) (f : Fmt) : List (Nat × Nat) :=
  ((l.rows f).flatMap id).map (fun p => (p.1, rowBytes f.width p.2)) ++ l.scaleRows f

/-- The operand a load finds in the cluster store. -/
def readHalf (s : State) (c : Cl) (x : Ctx) (l : LoadW) (f : Fmt) : Half :=
  { record := some { fmt := l.fmt, kBlocks := l.kBlocks, tr := l.tr },
    elems := (l.rows f).map (fun ps => ps.flatMap (fun (p : Nat × Nat) =>
      let bs := s.csRdW c x p.1 (rowBytes f.width p.2)
      (List.range p.2).map (packedAt bs f.width))),
    scales := (l.scaleRows f).map (fun (p : Nat × Nat) => (s.csRdW c x p.1 p.2).map (·.toNat)),
    lines := l.lines, kValid := l.kValid }

/-- Exactly +0: what a zero-filled position reads as (R73). -/
def fzero : FVal := .num false 0 0

/-- An entry of a table of codes. -/
def at2 (t : List (List Nat)) (i j : Nat) : Nat := (t.getD i []).getD j 0

/-- Row `i` of an A half over `k` positions. -/
def Half.aRow (h : Half) (f : Fmt) (k i : Nat) : List FVal :=
  (List.range k).map (fun j => if i < h.lines && j < h.kValid then f.scaledVal (at2 h.elems i j) (at2 h.scales i (j / 32)) else fzero)

/-- Column `n` of a B half over `k` positions, as the expander delivers it (R76, R81, R40). -/
def Half.bCol (h : Half) (f : Fmt) (tr : Bool) (k n : Nat) : List FVal :=
  (List.range k).map (fun j =>
    if n < h.lines && j < h.kValid then
      let code := if tr then at2 h.elems n j else at2 h.elems j n
      let sc := if f.isSq then (if tr then at2 h.scales (n / 32) (j / 32) else at2 h.scales (j / 32) (n / 32))
        else at2 h.scales (j / 32) n
      f.scaledVal code sc
    else fzero)

/-! ## Legality (R87): the answer is the number of the condition in the manual's list -/

/-- No bit of a word is set outside a list of fields. -/
def onlyFields (w : BitVec 128) (fs : List (Nat × Nat)) : Bool :=
  (w.toNat &&& (fs.foldl (fun m p => m ||| (2 ^ (p.1 + 1) - 2 ^ p.2)) 0)) = w.toNat

/-- The fields each opcode has. -/
def tileFields (op : Nat) : List (Nat × Nat) :=
  if op = opTclr then [(11, 0)]
  else if op = opTlda || op = opTldb then [(124, 0)]
  else if op = opTcrd then [(9, 0), (83, 32)]
  else if op = opTmma || op = opTmmat then [(12, 0), (31, 16)]
  else if op = opTst then [(30, 0), (115, 32)]
  else [(10, 0), (31, 16)]

/-- 4 MiB. -/
def storeBytes : Nat := 0x400000

/-- The condition an operand load breaks. -/
def LoadW.bad (l : LoadW) : Option Nat :=
  match Fmt.ofCode l.fmt with
  | none => some 1
  | some f =>
    if l.isB && l.tr && f.isMx then some 1
    else if l.kBlocks = 0 || f.maxK < 32 * l.kBlocks then some 2
    else if !l.isB && f.isSq then some 6
    else if l.lines = 0 || (if l.isB then 64 else 16) < l.lines || l.engMask = 0 then some 6
    else if (!l.isB && l.tr) || (!f.scaled && (l.scale != 0 || l.scaleStride != 0)) then some 7
    else if l.elem % 8 != 0 || l.rowStride % 8 != 0 then some 8
    else if (l.reads f).any (fun p => storeBytes < p.1 + p.2) then some 8
    else none

/-- The byte ranges a store writes, from its element and scale addresses (R77, R78). -/
def StoreW.writes (t : StoreW) (f : Fmt) (elem scale : Nat) : List (Nat × Nat) :=
  (List.range t.rows).map (fun r => (elem + r * t.rowStride, rowBytes f.width t.cols)) ++
    (if f.scaled then (List.range t.rows).map (fun r => (scale + r * t.scaleStride, cdiv t.cols 32)) else [])

/-- The condition a store breaks. -/
def StoreW.bad (t : StoreW) : Option Nat :=
  match Fmt.ofCode t.fmt with
  | none => some 1
  | some f =>
    if !f.okTst || 2 ≤ t.rnd then some 1
    else if t.rows = 0 || 16 < t.rows || t.cols = 0 || 64 < t.cols then some 6
    else if !f.scaled && (t.scale != 0 || t.scaleStride != 0) then some 7
    else if t.elem % 8 != 0 || t.rowStride % 8 != 0 then some 8
    else if (t.writes f t.elem t.scale).any (fun p => storeBytes < p.1 + p.2) then some 8
    else none

/-- The condition a multiply-accumulate breaks on an engine. -/
def macBad (k : Engine) (w : BitVec 128) : Option Nat :=
  let af := tw w 20 16
  let bf := tw w 25 21
  let kb := tw w 31 26
  match Fmt.ofCode af, Fmt.ofCode bf with
  | some fa, some fb =>
    if !fa.okA || !Fmt.pairs fa fb then some 1
    else
      match (k.halfA.get ⟨tw w 10 10 % 2, Nat.mod_lt _ (by decide)⟩).record, (k.halfB.get ⟨tw w 11 11 % 2, Nat.mod_lt _ (by decide)⟩).record with
      | some ra, some rb =>
        if (tw w 7 0 = opTmmat) && fb.isMx then some 1
        else if kb = 0 || min fa.maxK fb.maxK < 32 * kb || ra.kBlocks != kb || rb.kBlocks != kb then some 2
        else if ra.fmt != af || rb.fmt != bf then some 3
        else if rb.tr != (tw w 7 0 = opTmmat) then some 5
        else none
      | _, _ => some 4
  | _, _ => some 1

/-- The condition the head of an engine's queue breaks, if it is illegal (R69, R87). -/
def illegal (k : Engine) (w : BitVec 128) : Option Nat :=
  let op := tw w 7 0
  if !tileOps.contains op then some 1
  else if !onlyFields w (tileFields op) then some 1
  else if op = opTclr then (if tw w 11 8 = 0 then some 7 else none)
  else if op = opTlda || op = opTldb then (LoadW.of w).bad
  else if op = opTmma || op = opTmmat then macBad k w
  else if op = opTst then (StoreW.of w).bad
  else none

/-! ## One instruction of an engine -/

/-- The head of an engine's queue is used up. -/
def popHead (s : State) (c : Cl) (e : En) : State := s.updEngine c e (fun k => { k with queue := k.queue.drop 1 })

/-- An engine stops on its head (R88). -/
def stopEngine (s : State) (c : Cl) (e : En) (op cond : Nat) : State :=
  s.updEngine c e (fun k => { k with stopped := some (op, 0, cond) })

/-- The frame of every tile instruction: the head of the engine's queue, when its opcode is `op`, is executed by `act`.
A reserved opcode and every illegal word stop the engine; a parity error of the queue stops it with CHECK_FAIL (R92). -/
def tileRow (op : Nat) (act : State → QEntry → State) (c : Cl) (e : En) (u : Upset) (s : State) : State :=
  let k := (s.clusters.get c).engines.get e
  if !s.clusterUp c || k.fenced || k.stopped.isSome then s
  else
    match k.queue with
    | [] => s
    | q :: _ =>
      let o := tw q.word 7 0
      if o != op && tileOps.contains o then s
      else
        match u with
        | .check 4 rows _ =>
          checkFail (stopEngine s c e o 0) .group c q.ctx q.desc q.group (engineUnit c e) o 4 rows
        | _ =>
          match illegal k q.word with
          | some cond => stopEngine s c e o cond
          | none => act s q

/-- Number of an accumulator field. -/
def accIdx (n : Nat) : Fin 4 := ⟨n % 4, Nat.mod_lt _ (by decide)⟩

/-- A check of the engine fails on an instruction of a work item. -/
def engineCheck (s : State) (c : Cl) (e : En) (q : QEntry) (struct : Nat) (rows : BitVec 16) : State :=
  match q.replay with
  | some id =>
    charge (s.updItem id (fun w => { w with replayPassed := false })) (engineUnit c e)
      { severity := 0, eventCode := 0x0105, unitClass := 1 }
  | none => checkFail s .group c q.ctx q.desc q.group (engineUnit c e) (tw q.word 7 0) struct rows

/-- TCLR (R80). -/
def doTclr (c : Cl) (e : En) (u : Upset) (s : State) (q : QEntry) : State :=
  let m := tw q.word 11 8
  let s := s.updEngine c e (fun k => { k with
    acc := Vector.ofFn (fun (i : Fin 4) => if bit m i.val then
      { k.acc.get i with vals := Vector.replicate 1024 0, suspect := false } else k.acc.get i) })
  let s := popHead (capture s q.replay 16 []) c e
  match u with
  | .check st rows _ => engineCheck s c e q st rows
  | _ => s

/-- The half a load fills, among A0, A1, B0, B1. -/
def halfIdx (l : LoadW) : Fin 4 := ⟨((if l.isB then 2 else 0) + l.half % 2) % 4, Nat.mod_lt _ (by decide)⟩

/-- A half of an engine takes a loaded operand. -/
def setHalf (k : Engine) (l : LoadW) (w : BitVec 128) (h : Half) : Engine :=
  let i : Fin 2 := ⟨l.half % 2, Nat.mod_lt _ (by decide)⟩
  let k := { k with loaded := upd k.loaded (halfIdx l) (fun _ => some (noMask w)) }
  if l.isB then { k with halfB := upd k.halfB i (fun _ => h) } else { k with halfA := upd k.halfA i (fun _ => h) }

/-- TLDA and TLDB (R71 to R73). A merged load waits for the read of R74. -/
def doLoad (c : Cl) (e : En) (u : Upset) (s : State) (q : QEntry) : State :=
  let l := LoadW.of q.word
  match Fmt.ofCode l.fmt with
  | none => s
  | some f =>
    if q.mc != 0 && l.engMask != 2 ^ e.val then s
    else
      let h := readHalf s c q.ctx l f
      let s := s.updEngine c e (fun k => setHalf k l q.word h)
      let s := popHead (capture s q.replay 16 (l.reads f)) c e
      match u with
      | .check st rows _ => engineCheck s c e q st rows
      | u => csUpset s c q.ctx (s.win c q.ctx l.elem) u

/-- TCRD (R80). -/
def doTcrd (c : Cl) (e : En) (u : Upset) (s : State) (q : QEntry) : State :=
  let s := s.updEngine c e (fun k => { k with
    acc := upd k.acc (accIdx (tw q.word 9 8)) (fun a => { a with row := tw q.word 59 32, col := tw q.word 83 60 }) })
  let s := popHead (capture s q.replay 16 []) c e
  match u with
  | .check st rows _ => engineCheck s c e q st rows
  | _ => s

/-- One cell of a multiply-accumulate (R43 to R47): the accumulator, and for each group whether its add overflowed. -/
def macCell (g : Nat) (zero : Bool) (acc : Nat) (a b : List FVal) : Nat × List Bool :=
  let sums := (piecesOf g (a.length + 1) (a.zipWith FVal.mul b)).map FVal.sum
  let r := sums.foldl (fun (p : Option Nat × List Bool) v =>
    let prev := match p.1 with | some w => FF.fp32.decode w | none => fzero
    let sum := match p.1 with | some w => FVal.add (FF.fp32.decode w) v | none => v
    let code := FF.fp32.rne sum
    (some code, ((FF.fp32.decode code).isInf && v.isFinite && prev.isFinite) :: p.2)) (if zero then none else some acc, [])
  (r.1.getD acc, r.2.reverse)

/-- Busy counter of an operand class (R42, R517). -/
def classCode (g : Nat) : Nat :=
  if g = 8 then Cnt.ME_CYC_4BIT else if g = 4 then Cnt.ME_CYC_8BIT else if g = 2 then Cnt.ME_CYC_16BIT else Cnt.ME_CYC_32BIT

/-- TMMA and TMMAT (R75, R76, R43 to R47, R66, R91). -/
def doMac (c : Cl) (e : En) (u : Upset) (s : State) (q : QEntry) : State :=
  let k := (s.clusters.get c).engines.get e
  let w := q.word
  match Fmt.ofCode (tw w 20 16), Fmt.ofCode (tw w 25 21) with
  | some fa, some fb =>
    let ha := k.halfA.get ⟨tw w 10 10 % 2, Nat.mod_lt _ (by decide)⟩
    let hb := k.halfB.get ⟨tw w 11 11 % 2, Nat.mod_lt _ (by decide)⟩
    let ai := accIdx (tw w 9 8)
    let acc := k.acc.get ai
    let zero := tw w 12 12 = 1
    let g := pairG fa fb
    let kk := 32 * tw w 31 26
    let tr : Bool := tw w 7 0 = opTmmat
    let rowsA := (List.range 16).map (ha.aRow fa kk)
    let colsB := (List.range 64).map (hb.bCol fb tr kk)
    let cells := (List.range 1024).map (fun i =>
      macCell g zero (acc.vals.getD i 0).toNat (rowsA.getD (i / 64) []) (colsB.getD (i % 64) []))
    let seen (i : Nat) : Bool := i / 64 < ha.lines && i % 64 < hb.lines
    let odd (v : List FVal) : List Bool := (piecesOf g (v.length + 1) v).map (fun p => p.any (fun x => !x.isFinite))
    let flags := (List.range (kk / g)).map (fun j =>
      ((rowsA.take ha.lines) ++ (colsB.take hb.lines)).any (fun v => (odd v).getD j false) ||
      cells.zipIdx.any (fun p => seen p.2 && p.1.2.getD j false))
    let unchecked := (flags.filter id).length
    let isNan (v : Nat) : Bool := (FF.fp32.decode v).isNan
    let nans := (cells.zipIdx.filter (fun p => seen p.2 && isNan p.1.1 && (zero || !isNan (acc.vals.getD p.2 0).toNat))).length
    let (bad, st, rows, flip) : Bool × Nat × BitVec 16 × BitVec 32 := match u with
      | .check st rows flip => (true, st, rows, flip)
      | .ue => (true, 2, BitVec.allOnes 16, 0)
      | _ => (false, 0, 0, 0)
    let out : Vector (BitVec 32) 1024 := Vector.ofFn (fun (i : Fin 1024) =>
      let v := BitVec.ofNat 32 ((cells.getD i.val (0, [])).1)
      if bad && rows.getLsbD (i.val / 64) then v ^^^ flip else v)
    let s := s.updEngine c e (fun k => { k with
      acc := upd k.acc ai (fun a => { a with vals := out, suspect := a.suspect || bad }) })
    let s := popHead (capture s q.replay 16 []) c e
    let s := if q.replay.isNone then s.updGroup c q.ctx q.desc q.group (fun r => { r with
        started := true, unchecked := r.unchecked || decide (0 < unchecked) }) else s
    let cyc := arrayCycles fa fb kk
    let key (code : Nat) : CntKey := { code := code, unit := c.val, sub := e.val }
    let s := bump (bump s (key Cnt.ME_BUSY) cyc) (key (classCode g)) cyc
    let s := bump (bump s (key Cnt.ME_UNCHECKED) unchecked) (key Cnt.ME_NAN) nans
    let s := match u with | .ce => noteCorrected s (engineUnit c e) 0x0202 1 | _ => s
    if bad then engineCheck s c e q st rows else s
  | _, _ => s

/-- Seed, step and stage number of a context's stage: the key words of R53. -/
def State.srW0 (s : State) (x : Ctx) : BitVec 64 := (s.jobs.get x).seed
def State.srKey (s : State) (c : Cl) (x : Ctx) (stream : Nat) : BitVec 64 :=
  srW1 (((s.run c x).map (·.step)).getD 0) (s.stageNo c x) x stream

/-- Packed element codes written over a row, the bits beyond the last element kept. -/
def packOver (old : List Byte) (w : Nat) (codes : List Nat) : List Byte :=
  let n := codes.length * w
  let v := ofBytes (packCodes w codes)
  let keep := (ofBytes old / 2 ^ n) * 2 ^ n
  toBytes (cdiv n 8) (v + keep)

/-- A conversion store's rounding mode for an element (R48). -/
def rndOf (code rnd : Nat) : Rnd := if code = 1 then .sr rnd else .rne

/-- The bytes of one row of a store and its scale bytes, with what it counted (R55 to R59, R78). -/
def storeRow (f : Fmt) (sat : Bool) (md : Nat → Rnd) (vals : List Nat) (old : List Byte) : List Byte × List Nat × ConvNote :=
  if f.isMx then
    let blocks := piecesOf 32 (vals.length + 1) vals
    let bs := blocks.zipIdx.map (fun p => blockConvert f (fun i => md (32 * p.2 + i)) (p.1.map FF.fp32.decode))
    (packOver old f.width (bs.flatMap (·.2)), bs.map (·.1), {})
  else
    let es := vals.zipIdx.map (fun p => convF32 f (md p.2) sat p.1)
    (packOver old f.width (es.map (·.1)), [], ⟨(es.map (·.2.sat)).sum, (es.map (·.2.nanInt)).sum⟩)

/-- The slot a fused tile's store takes: the lowest free one, or on a replay the one the tile was stored in (R125). -/
def slotFor (cm : Cmd) (q : QEntry) : Option Nat :=
  if q.replay.isSome then
    (cm.groups.find? (·.ord = q.group)).bind (fun g => (g.slots.find? (fun p => p.1 = q.tile)).map (·.2))
  else cm.slots.findIdx? (· == .free)

/-- One row of a TST (R77, R78): its element bytes, and its scale bytes where the format has them. -/
def tstRow (c : Cl) (q : QEntry) (t : StoreW) (f : Fmt) (elem scale : Nat) (md : Nat → Nat → Rnd) (vals : Nat → List Nat)
    (p : State × List Host.Cell × ConvNote) (r : Nat) : State × List Host.Cell × ConvNote :=
  let s := p.1
  let a := elem + r * t.rowStride
  let old := s.csRdW c q.ctx a (rowBytes f.width t.cols)
  let (bs, scs, note) := storeRow f t.sat (md r) (vals r) old
  let s := s.csWrW c q.ctx q.desc.val a bs
  let sb := scs.map (BitVec.ofNat 8)
  let s := if sb.isEmpty then s else s.csWrW c q.ctx q.desc.val (scale + r * t.scaleStride) sb
  (s, Seen.putAll (Seen.putAll p.2.1 a bs) (scale + r * t.scaleStride) sb, ⟨p.2.2.sat + note.sat, p.2.2.nanInt + note.nanInt⟩)

/-- TST (R77 to R79). -/
def doTst (c : Cl) (e : En) (u : Upset) (s : State) (q : QEntry) : State :=
  let t := StoreW.of q.word
  match Fmt.ofCode t.fmt with
  | none => s
  | some f =>
    let slot : Option (Option Nat) :=
      if q.fused then
        match s.cmd c q.ctx q.desc with
        | none => some none
        | some cm => (slotFor cm q).map some
      else some none
    match slot with
    | none => s
    | some sl =>
      let off := (sl.getD 0) * 16
      let elem := t.elem + off * t.rowStride
      let scale := t.scale + off * t.scaleStride
      let k := (s.clusters.get c).engines.get e
      let ai := accIdx t.acc
      let acc := k.acc.get ai
      let (bad, st, rows, flip) : Bool × Nat × BitVec 16 × BitVec 32 := match u with
        | .check st rows flip => (true, st, rows, flip)
        | .ue => (true, 3, BitVec.allOnes 16, 0)
        | _ => (false, 0, 0, 0)
      let w0 := s.srW0 q.ctx
      let w1 := s.srKey c q.ctx t.stream
      let md (r i : Nat) : Rnd := rndOf t.rnd (srRnd w0 w1 (srW2Engine acc.row acc.col (64 * r + i)))
      let vals (r : Nat) : List Nat := (List.range t.cols).map (fun n =>
        let v := acc.vals.getD (64 * r + n) 0
        (if bad && rows.getLsbD r then v ^^^ flip else v).toNat)
      let step := tstRow c q t f elem scale md vals
      let (s, out, note) := (List.range t.rows).foldl step (s, [], {})
      let s := s.updGroup c q.ctx q.desc q.group (fun g => { g with
        out := out.foldl (fun l p => Seen.put l p.1 p.2) g.out,
        slots := match sl with | some i => if q.replay.isSome then g.slots else (q.tile, i) :: g.slots | none => g.slots })
      let s := match sl with
        | some i => if q.replay.isSome then s else s.updCmd c q.ctx q.desc (fun m => { m with slots := m.slots.set i (.stored q.group q.tile), order := m.order ++ [i] })
        | none => s
      let s := s.updEngine c e (fun k => { k with
        acc := upd k.acc ai (fun a => if t.clearAfter then { a with vals := Vector.replicate 1024 0, suspect := false }
          else { a with suspect := a.suspect || bad }) })
      let s := popHead (capture s q.replay 16 []) c e
      let s := bump s { code := Cnt.ME_SAT, unit := c.val, sub := e.val } note.sat
      let s := bumpC s Cnt.NAN_TO_INT c (some q.ctx) note.nanInt
      if bad then engineCheck s c e q st rows else s

/-- TSYNC (R80, R85): every earlier instruction has completed, since the engine's queue runs in order; its token is on
its way. -/
def doTsync (c : Cl) (e : En) (u : Upset) (s : State) (q : QEntry) : State :=
  let s := s.updEngine c e (fun k => { k with
    tokens := k.tokens ++ [{ ctx := q.ctx, desc := q.desc, group := q.group, value := tw q.word 31 16, replay := q.replay }] })
  let s := popHead (capture s q.replay 16 []) c e
  match u with
  | .check st rows _ => engineCheck s c e q st rows
  | _ => s

/-! ## The commands -/

def execTclr (c : Cl) (e : En) (u : Upset) (s : State) : Host.Outcome State Fault Refusal :=
  .next (tileRow opTclr (doTclr c e u) c e u s)

def execTlda (c : Cl) (e : En) (u : Upset) (s : State) : Host.Outcome State Fault Refusal :=
  .next (tileRow opTlda (doLoad c e u) c e u s)

def execTldb (c : Cl) (e : En) (u : Upset) (s : State) : Host.Outcome State Fault Refusal :=
  .next (tileRow opTldb (doLoad c e u) c e u s)

def execTcrd (c : Cl) (e : En) (u : Upset) (s : State) : Host.Outcome State Fault Refusal :=
  .next (tileRow opTcrd (doTcrd c e u) c e u s)

def execTmma (c : Cl) (e : En) (u : Upset) (s : State) : Host.Outcome State Fault Refusal :=
  .next (tileRow opTmma (doMac c e u) c e u s)

def execTmmat (c : Cl) (e : En) (u : Upset) (s : State) : Host.Outcome State Fault Refusal :=
  .next (tileRow opTmmat (doMac c e u) c e u s)

def execTst (c : Cl) (e : En) (u : Upset) (s : State) : Host.Outcome State Fault Refusal :=
  .next (tileRow opTst (doTst c e u) c e u s)

def execTsync (c : Cl) (e : En) (u : Upset) (s : State) : Host.Outcome State Fault Refusal :=
  .next (tileRow opTsync (doTsync c e u) c e u s)

/-- The engines whose copy of a merged load stands at the head of a running queue. -/
def copiesAt (s : State) (c : Cl) (mc : Nat) : List (En × QEntry) :=
  (List.finRange 16).filterMap (fun e =>
    let k := (s.clusters.get c).engines.get e
    match k.queue with
    | q :: _ => if q.mc = mc && !k.fenced && k.stopped.isNone && (illegal k q.word).isNone then some (e, q) else none
    | [] => none)

/-- The one read of a multicast load (R74), once every named engine has reached its copy. -/
def mcastRead (c : Cl) (mc : Nat) (u : Upset) (s : State) : State :=
  let cs := copiesAt s c mc
  if mc = 0 || !s.clusterUp c then s
  else
    match cs with
    | [] => s
    | (_, q) :: _ =>
      let l := LoadW.of q.word
      if (cs.map (fun p => 2 ^ p.1.val)).sum != l.engMask then s
      else
        match Fmt.ofCode l.fmt with
        | none => s
        | some f =>
          let h := readHalf s c q.ctx l f
          let s := cs.foldl (fun s p => popHead (s.updEngine c p.1 (fun k => setHalf k l p.2.word h)) c p.1) s
          match u with
          | .check st rows _ => cs.foldl (fun s p => engineCheck s c p.1 p.2 st rows) s
          | u => csUpset s c q.ctx (s.win c q.ctx l.elem) u

def execMcastLoadRead (c : Cl) (mc : Nat) (u : Upset) (s : State) : Host.Outcome State Fault Refusal :=
  .next (mcastRead c mc u s)

/-- A group's token reaches the sequencer: the group is done, or a replay of it has ended (R85, R128, R456). -/
def takeToken (s : State) (c : Cl) (e : En) (t : Token) : State :=
  match t.replay with
  | some id =>
    let out := ((s.group? c t.ctx t.desc t.group).map (·.out)).getD []
    let s := s.updItem id (fun w => { w with
      st := .replayed, digestReplay := Seen.digest out, replayUnit := some (engineUnit c e) })
    s.updGroup c t.ctx t.desc t.group (fun g => { g with done := true })
  | none =>
    let s := s.updGroup c t.ctx t.desc t.group (fun g => { g with done := true })
    match s.group? c t.ctx t.desc t.group with
    | some g => if g.unchecked then uncheckedItem s c t.ctx t.desc t.group (engineUnit c e) else s
    | none => s

/-- TSYNC_TOKEN (R85). -/
def tokenArrives (c : Cl) (e : En) (s : State) : State :=
  match ((s.clusters.get c).engines.get e).tokens with
  | [] => s
  | t :: ts => takeToken (s.updEngine c e (fun k => { k with tokens := ts })) c e t

def execTsyncToken (c : Cl) (e : En) (s : State) : Host.Outcome State Fault Refusal :=
  .next (tokenArrives c e s)

/-- ENGINE_RELOAD (R88): the rest of the queue is discarded and every command that had an instruction in it fails. -/
def reload (c : Cl) (e : En) (s : State) : State :=
  let k := (s.clusters.get c).engines.get e
  match k.stopped, k.queue with
  | some _, q :: qs =>
    let s := dropCopies s c e (((q :: qs).filter (fun q => q.mc != 0)).map (·.mc))
    let s := s.updEngine c e (fun k => { k.reissued [] with stopped := none })
    (((q :: qs).map (fun r => (r.ctx, r.desc))).eraseDups).foldl
      (fun s p => failCmd s c p.1 p.2 Code.ILLEGAL_TILE [q.desc.val]) s
  | _, _ => s.updEngine c e (fun k => { k with stopped := none })

def execEngineReload (c : Cl) (e : En) (s : State) : Host.Outcome State Fault Refusal := .next (reload c e s)

/-- An engine is idle (R119): it holds no unstarted group and no multiply-accumulate is left in its queue. -/
def Engine.idle (k : Engine) : Bool :=
  k.queue.all (fun q => let o := tw q.word 7 0; o = opTst || o = opTsync)

/-- The commands of a cluster whose groups an engine may steal. -/
def State.stealable (s : State) (c : Cl) (e : En) : List Cmd :=
  (s.cmds c).filter (fun k => k.st == .running && (s.desc c k.ctx k.desc).stealEn && bit (s.desc c k.ctx k.desc).engMask e.val)

/-- Unstarted groups of an engine that may be stolen. -/
def stealGroups (cms : List Cmd) (e : En) : List (Cmd × Group) :=
  cms.flatMap (fun k => (k.groups.filter (fun g => g.owner = e.val && !g.started && !g.done)).map (fun g => (k, g)))

/-- STEAL (R119 to R121). -/
def stealBy (c : Cl) (e : En) (s : State) : State :=
  let k := (s.clusters.get c).engines.get e
  if !s.clusterUp c || k.fenced || k.stopped.isSome || !k.idle || s.unstarted c e != 0 then s
  else
    let cms := s.stealable c e
    let load (v : En) : Nat := ((stealGroups cms v).map (fun p => p.2.tiles.length)).sum
    let victim : Option En := ((List.finRange 16).filter (fun v => v != e && load v != 0)).foldl (fun b v => match b with
      | none => some v
      | some o => if load o < load v then some v else b) none
    match victim with
    | none => s
    | some v =>
      let best := (stealGroups cms v).foldl (fun (b : Option (Cmd × Group)) p => match b with
        | none => some p
        | some o => if o.2.ord < p.2.ord then some p else b) none
      match best with
      | none => s
      | some (cm, g) =>
        let s := withdraw s c v cm.ctx cm.desc g.ord
        bumpC (giveGroup s c cm.ctx cm.desc g.ord e) Cnt.STEALS c (some cm.ctx)

def execSteal (c : Cl) (e : En) (s : State) : Host.Outcome State Fault Refusal := .next (stealBy c e s)

end Sys2Proof.Machine
end

