-- ==== Sys2Proof/Machine/Vector.lean ====
section
/-! DEFINITION. The vector engine's launches, arithmetic, cross-lane, scalar and control instructions and its
special-function unit (R166 to R192, R198, R199). Each command issues the instruction at its thread's program counter. -/

namespace Sys2Proof.Machine

/-! ## Threads -/

/-- The context's instruction memory has 8,192 places (R168). -/
def imemSize : Nat := 8192

/-- The instruction at a program counter; a place nothing has written holds 0, which is illegal (R177). -/
def SeqCtx.fetch (q : SeqCtx) (pc : Nat) : BitVec 64 := ((q.imem.find? (fun p => p.1 = pc)).map (·.2)).getD 0

/-- A thread waits for data or for results it has asked for (R172, R173). -/
def Thread.waiting (t : Thread) : Bool := !t.waitLines.isEmpty || t.waitRemote != 0 || !t.sfuLeft.isEmpty

/-- A scalar register; S0 reads 0 (R167). -/
def Thread.sreg (t : Thread) (i : Nat) : BitVec 64 := if i = 0 then 0 else t.s.getD i 0

/-- A scalar register written; S0 ignores it (R167). -/
def Thread.setS (t : Thread) (i : Nat) (v : BitVec 64) : Thread :=
  if h : i < 16 ∧ i ≠ 0 then { t with s := t.s.set i v h.1 } else t

/-- A mask register; M0 reads all ones (R167). -/
def Thread.mreg (t : Thread) (i : Nat) : BitVec 128 := if i = 0 then BitVec.allOnes 128 else t.m.getD i 0

/-- A mask register written; M0 ignores it (R167). -/
def Thread.setM (t : Thread) (i : Nat) (v : BitVec 128) : Thread :=
  if h : i < 4 ∧ i ≠ 0 then { t with m := t.m.set i v h.1 } else t

/-- Lanes of a vector register. -/
def Thread.vreg (t : Thread) (i : Nat) : Vector (BitVec 32) 128 := t.v.getD i (Vector.replicate 128 0)

/-- A vector register written in the active lanes; the others keep their value (R178). -/
def Thread.setV (t : Thread) (i : Nat) (active : BitVec 128) (f : Fin 128 → BitVec 32) : Thread :=
  if h : i < 32 then
    { t with v := t.v.set i (Vector.ofFn (fun (l : Fin 128) => if active.getLsbD l.val then f l else (t.vreg i).get l)) h }
  else t

/-- Causes of VE_FAULT (R183), in the manual's order. -/
inductive VeCause where
  | illegalVe
  | align
  | addrRange
  | bndRange
  | fetch
  deriving DecidableEq, Repr

/-- Number of a cause. -/
def VeCause.code : VeCause → Nat
  | .illegalVe => 1
  | .align => 2
  | .addrRange => 3
  | .bndRange => 4
  | .fetch => 5

/-- The thread stops before its instruction and its command fails with an error (R183, R126, R129). -/
def veStop (s : State) (c : Cl) (t : Th) (status : Nat) (report : List Nat) : State :=
  let th := (s.clusters.get c).threads.get t
  let s := s.updThread c t (fun th => { th with active := false })
  match th.launch with
  | none => s
  | some l => failCmd s c l.ctx l.desc status report

/-- VE_FAULT with a cause. -/
def veFault (s : State) (c : Cl) (t : Th) (cause : VeCause) : State :=
  veStop s c t Code.VE_FAULT [cause.code, ((s.clusters.get c).threads.get t).pc]

/-- The thread's next instruction follows. -/
def Thread.advance (t : Thread) : Thread := { t with pc := t.pc + 1 }

/-- A check of the VE fails on an instruction of a launch (R199): the launch is suspect. -/
def veCheck (s : State) (c : Cl) (t : Th) (w : VeW) (struct : Nat) (rows : BitVec 16) : State :=
  let th := (s.clusters.get c).threads.get t
  let s := s.updThread c t (fun th => { th with suspect := true })
  match th.replay, th.launch with
  | some id, _ =>
    charge (s.updItem id (fun o => { o with replayPassed := false })) (veUnit c) { severity := 0, eventCode := 0x0105, unitClass := 2 }
  | none, some l => checkFail s .launch c l.ctx l.desc l.ord (veUnit c) w.op struct rows
  | none, none => s

/-- The upset of an arithmetic instruction: CHECK_FAIL, or a corrected register (R199). -/
def veUpset (s : State) (c : Cl) (t : Th) (w : VeW) : Upset → State
  | .check st rows _ => veCheck s c t w st rows
  | .ue => veCheck s c t w 6 (BitVec.allOnes 16)
  | .ce => noteCorrected s (veUnit c) 0x0202 1
  | .none => s

/-- The error an upset puts into a lane's result. -/
def flipLane (u : Upset) (l : Nat) (v : BitVec 32) : BitVec 32 :=
  match u with
  | .check _ rows flip => if rows.getLsbD (l / 8) then v ^^^ flip else v
  | _ => v

/-- The frame of every VE instruction: the thread runs, waits for nothing, and its instruction has the opcode `op`;
then `act` executes it. A program counter outside the memory and a reserved opcode fault (R183). -/
def veRow (op : Nat) (act : State → VeW → Thread → Launch → State) (c : Cl) (t : Th) (s : State) : State :=
  let th := (s.clusters.get c).threads.get t
  match th.launch with
  | none => s
  | some l =>
    if !s.clusterUp c || !th.active || th.waiting then s
    else if imemSize ≤ th.pc then veFault s c t .fetch
    else
      let w := VeW.of (((s.clusters.get c).seq.get l.ctx).fetch th.pc)
      if !veOps.contains w.op then veFault s c t .illegalVe
      else if w.op != op then s
      else act (bumpC s Cnt.VE_ISSUE c) w th l

/-- Pipe-cycles of an arithmetic instruction. -/
def pipe (s : State) (c : Cl) (n : Nat) : State := bumpC s Cnt.VE_PIPE_BUSY c none n

/-- Lanes of a mask. -/
def lanesOf (m : BitVec 128) : List (Fin 128) := (List.finRange 128).filter (fun l => m.getLsbD l.val)

/-- What an arithmetic instruction leaves in a lane: its result, whether it is a NaN to count, and whether a WX32
result overflowed (R62, R191). -/
structure LaneOut where
  val : BitVec 32
  nan : Bool := false
  range : Bool := false
  deriving DecidableEq, Repr

/-- An FP32 result. -/
def outF (code : Nat) : LaneOut := { val := BitVec.ofNat 32 code, nan := (FF.fp32.decode code).isNan }
/-- A WX32 result and its overflow. -/
def outW (r : Nat × Bool) : LaneOut := { val := BitVec.ofNat 32 r.1, nan := (FF.wx32.decode r.1).isNan, range := r.2 }
/-- A result that counts nothing. -/
def outI (v : BitVec 32) : LaneOut := { val := v }

/-- A lane-wise instruction: Vd takes `f` of each active lane, NaN results and range events are counted, and range
flags are set (R177, R178, R191). `cyc` is its pipe-cycles. -/
def laneOp (c : Cl) (t : Th) (u : Upset) (s : State) (w : VeW) (l : Launch) (th : Thread) (m : BitVec 128) (cyc : Nat)
    (f : Fin 128 → LaneOut) : State :=
  let outs := Vector.ofFn f
  let act := lanesOf m
  let rg := act.filter (fun i => (outs.get i).range)
  let s := s.updThread c t (fun k => ((k.setV w.vd m (fun i => flipLane u i.val (outs.get i).val))).advance)
  let s := s.updThread c t (fun k => { k with range := rg.foldl (fun r i => r ||| (1#128 <<< i.val)) k.range })
  let s := bumpC (pipe s c cyc) Cnt.VE_NAN c (some l.ctx) (act.filter (fun i => (outs.get i).nan)).length
  let s := bumpC s Cnt.WX_RANGE c (some l.ctx) rg.length
  veUpset (capture s th.replay 8 []) c t w u

/-- A two-operand FP32 instruction. -/
def binF (c : Cl) (t : Th) (u : Upset) (g : Nat → Nat → Nat) (s : State) (w : VeW) (th : Thread) (l : Launch) : State :=
  laneOp c t u s w l th (th.mreg w.msk) 1 (fun i => outF (g ((th.vreg w.va).get i).toNat ((th.vreg w.vb).get i).toNat))

def execVadd (c : Cl) (t : Th) (u : Upset) (s : State) : Host.Outcome State Fault Refusal :=
  .next (veRow 0x01 (binF c t u f32Add) c t s)

def execVsub (c : Cl) (t : Th) (u : Upset) (s : State) : Host.Outcome State Fault Refusal :=
  .next (veRow 0x02 (binF c t u f32Sub) c t s)

def execVmul (c : Cl) (t : Th) (u : Upset) (s : State) : Host.Outcome State Fault Refusal :=
  .next (veRow 0x03 (binF c t u f32Mul) c t s)

/-- VFMA: Va × Vb + Vc with one rounding (R177). -/
def doVfma (c : Cl) (t : Th) (u : Upset) (s : State) (w : VeW) (th : Thread) (l : Launch) : State :=
  laneOp c t u s w l th (th.mreg w.msk) 1 (fun i =>
    outF (f32Fma ((th.vreg w.va).get i).toNat ((th.vreg w.vb).get i).toNat ((th.vreg w.vc).get i).toNat))

def execVfma (c : Cl) (t : Th) (u : Upset) (s : State) : Host.Outcome State Fault Refusal :=
  .next (veRow 0x04 (doVfma c t u) c t s)

def execVmin (c : Cl) (t : Th) (u : Upset) (s : State) : Host.Outcome State Fault Refusal :=
  .next (veRow 0x05 (binF c t u f32Min) c t s)

def execVmax (c : Cl) (t : Th) (u : Upset) (s : State) : Host.Outcome State Fault Refusal :=
  .next (veRow 0x06 (binF c t u f32Max) c t s)

/-- The comparisons of VCMP (R177, R198). -/
def cmpF (fn a b : Nat) : Bool :=
  let x := FF.fp32.decode a
  let y := FF.fp32.decode b
  if x.isNan || y.isNan then fn = 1
  else if fn = 0 then x.eq y
  else if fn = 1 then !x.eq y
  else if fn = 2 then x.lt y
  else if fn = 3 then x.lt y || x.eq y
  else if fn = 4 then y.lt x
  else y.lt x || x.eq y

/-- VCMP (R177): a lane outside Msk keeps its bit of the mask (R178). -/
def doVcmp (c : Cl) (t : Th) (u : Upset) (s : State) (w : VeW) (th : Thread) (_l : Launch) : State :=
  if 5 < w.fn then veFault s c t .illegalVe
  else
    let m := th.mreg w.msk
    let d := w.vd % 4
    let bits := (List.finRange 128).foldl (fun (r : BitVec 128) i =>
      let b := if m.getLsbD i.val then
          (cmpF w.fn ((th.vreg w.va).get i).toNat ((th.vreg w.vb).get i).toNat) != (match u with
            | .check _ rows flip => rows.getLsbD (i.val / 8) && flip.getLsbD 0
            | _ => false)
        else (th.mreg d).getLsbD i.val
      if b then r ||| (1#128 <<< i.val) else r) 0
    let s := s.updThread c t (fun k => (k.setM d bits).advance)
    veUpset (capture (pipe s c 1) th.replay 8 []) c t w u

def execVcmp (c : Cl) (t : Th) (u : Upset) (s : State) : Host.Outcome State Fault Refusal :=
  .next (veRow 0x07 (doVcmp c t u) c t s)

/-- VSEL: every lane, chosen by Msk (R177, R178). -/
def doVsel (c : Cl) (t : Th) (u : Upset) (s : State) (w : VeW) (th : Thread) (l : Launch) : State :=
  let m := th.mreg w.msk
  laneOp c t u s w l th (BitVec.allOnes 128) 1 (fun i =>
    outI (if m.getLsbD i.val then (th.vreg w.va).get i else (th.vreg w.vb).get i))

def execVsel (c : Cl) (t : Th) (u : Upset) (s : State) : Host.Outcome State Fault Refusal :=
  .next (veRow 0x08 (doVsel c t u) c t s)

/-- A two-operand WX32 instruction. -/
def binW (c : Cl) (t : Th) (u : Upset) (g : Nat → Nat → Nat × Bool) (s : State) (w : VeW) (th : Thread) (l : Launch) : State :=
  laneOp c t u s w l th (th.mreg w.msk) 1 (fun i => outW (g ((th.vreg w.va).get i).toNat ((th.vreg w.vb).get i).toNat))

def execVaddw (c : Cl) (t : Th) (u : Upset) (s : State) : Host.Outcome State Fault Refusal :=
  .next (veRow 0x10 (binW c t u wxAdd) c t s)

def execVmulw (c : Cl) (t : Th) (u : Upset) (s : State) : Host.Outcome State Fault Refusal :=
  .next (veRow 0x11 (binW c t u wxMul) c t s)

/-- VNRMW (R192): four pipe-cycles; 0 ÷ 0 gives +0 and counts EMPTY_ROW. -/
def doVnrmw (c : Cl) (t : Th) (u : Upset) (s : State) (w : VeW) (th : Thread) (l : Launch) : State :=
  let m := th.mreg w.msk
  let q (i : Fin 128) : Nat × Bool := wxQuot ((th.vreg w.va).get i).toNat ((th.vreg w.vb).get i).toNat
  let s := bumpC s Cnt.EMPTY_ROW c (some l.ctx) ((lanesOf m).filter (fun i => (q i).2)).length
  laneOp c t u s w l th m 4 (fun i => outF (q i).1)

def execVnrmw (c : Cl) (t : Th) (u : Upset) (s : State) : Host.Outcome State Fault Refusal :=
  .next (veRow 0x12 (doVnrmw c t u) c t s)

/-- VCVTW (R58): one rounding, by RNE. -/
def doVcvtw (c : Cl) (t : Th) (u : Upset) (s : State) (w : VeW) (th : Thread) (l : Launch) : State :=
  laneOp c t u s w l th (th.mreg w.msk) 1 (fun i => outW (f32ToWx w.sat ((th.vreg w.va).get i).toNat, false))

def execVcvtw (c : Cl) (t : Th) (u : Upset) (s : State) : Host.Outcome State Fault Refusal :=
  .next (veRow 0x13 (doVcvtw c t u) c t s)

/-- The random value of a lane of a VE instruction (R53, R182): index register plus lane. -/
def veRnd (s : State) (c : Cl) (x : Ctx) (stream : Nat) (idx : Nat) (lane : Nat) : Nat :=
  srRnd (s.srW0 x) (s.srKey c x stream) (srW2Ve (idx + lane))

/-- VCVTF (R58, R198): WX32 to FP32 under Rnd and Sat. -/
def doVcvtf (c : Cl) (t : Th) (u : Upset) (s : State) (w : VeW) (th : Thread) (l : Launch) : State :=
  if 2 ≤ w.rnd then veFault s c t .illegalVe
  else
    laneOp c t u s w l th (th.mreg w.msk) 1 (fun i =>
      let md := rndOf w.rnd (veRnd s c l.ctx w.stream (th.sreg w.sb).toNat i.val)
      outF (FF.fp32.round md w.sat (FF.wx32.decode ((th.vreg w.va).get i).toNat)).1)

def execVcvtf (c : Cl) (t : Th) (u : Upset) (s : State) : Host.Outcome State Fault Refusal :=
  .next (veRow 0x14 (doVcvtf c t u) c t s)

/-- VADDI (R177): INT32 add, wrapping. -/
def doVaddi (c : Cl) (t : Th) (u : Upset) (s : State) (w : VeW) (th : Thread) (l : Launch) : State :=
  laneOp c t u s w l th (th.mreg w.msk) 1 (fun i => outI ((th.vreg w.va).get i + (th.vreg w.vb).get i))

def execVaddi (c : Cl) (t : Th) (u : Upset) (s : State) : Host.Outcome State Fault Refusal :=
  .next (veRow 0x18 (doVaddi c t u) c t s)

/-- The INT64 a register pair holds: the even register is the low word (R167). -/
def Thread.pair (t : Thread) (r : Nat) (l : Fin 128) : BitVec 64 :=
  let e := r / 2 * 2
  ((t.vreg (e + 1)).get l) ++ ((t.vreg e).get l)

/-- VADDL (R177): INT64 add on register pairs, wrapping. -/
def doVaddl (c : Cl) (t : Th) (u : Upset) (s : State) (w : VeW) (th : Thread) (l : Launch) : State :=
  let m := th.mreg w.msk
  let sum (i : Fin 128) : BitVec 64 := th.pair w.va i + th.pair w.vb i
  let e := w.vd / 2 * 2
  let s := s.updThread c t (fun k => k.setV (e + 1) m (fun i => (sum i).extractLsb' 32 32))
  laneOp c t u s { w with vd := e } l th m 1 (fun i => outI ((sum i).extractLsb' 0 32))

def execVaddl (c : Cl) (t : Th) (u : Upset) (s : State) : Host.Outcome State Fault Refusal :=
  .next (veRow 0x19 (doVaddl c t u) c t s)

/-- The functions of VLOGI (R177). -/
def logI (fn : Nat) (a b : BitVec 32) : BitVec 32 :=
  let n := b.toNat % 32
  if fn = 0 then a &&& b else if fn = 1 then a ||| b else if fn = 2 then a ^^^ b
  else if fn = 3 then a <<< n else if fn = 4 then a >>> n else a.sshiftRight n

/-- VLOGI (R177). -/
def doVlogi (c : Cl) (t : Th) (u : Upset) (s : State) (w : VeW) (th : Thread) (l : Launch) : State :=
  if 5 < w.fn then veFault s c t .illegalVe
  else laneOp c t u s w l th (th.mreg w.msk) 1 (fun i => outI (logI w.fn ((th.vreg w.va).get i) ((th.vreg w.vb).get i)))

def execVlogi (c : Cl) (t : Th) (u : Upset) (s : State) : Host.Outcome State Fault Refusal :=
  .next (veRow 0x1A (doVlogi c t u) c t s)

/-- VCVTI (R177, R59): FP32 to INT32 under Rnd, or INT32 to FP32 under RNE. -/
def doVcvti (c : Cl) (t : Th) (u : Upset) (s : State) (w : VeW) (th : Thread) (l : Launch) : State :=
  if 1 < w.fn || (w.fn = 0 && 2 ≤ w.rnd) then veFault s c t .illegalVe
  else
    let m := th.mreg w.msk
    let conv (i : Fin 128) : Nat × Bool × Bool :=
      toIntCode 32 (rndOf w.rnd (veRnd s c l.ctx w.stream (th.sreg w.sb).toNat i.val)) (FF.fp32.decode ((th.vreg w.va).get i).toNat)
    let s := if w.fn = 0 then bumpC s Cnt.NAN_TO_INT c (some l.ctx) ((lanesOf m).filter (fun i => (conv i).2.2)).length else s
    laneOp c t u s w l th m 1 (fun i =>
      if w.fn = 0 then outI (BitVec.ofNat 32 (conv i).1)
      else outI (BitVec.ofNat 32 (FF.fp32.rne (FVal.ofInt ((th.vreg w.va).get i).toInt))))

def execVcvti (c : Cl) (t : Th) (u : Upset) (s : State) : Host.Outcome State Fault Refusal :=
  .next (veRow 0x1B (doVcvti c t u) c t s)

/-! ## Cross-lane instructions -/

/-- The lanes of the segment of `n` lanes that holds a lane. -/
def segOf (v : Vector (BitVec 32) 128) (n l : Nat) : List (BitVec 32) := (v.toList.drop (l / n * n)).take n

/-- The pairwise-tree sum of WX32 values, with whether an addition overflowed. -/
def treeW (l : List (BitVec 32)) : Nat × Bool :=
  treeReduce (fun (a b : Nat × Bool) => let r := wxAdd a.1 b.1; (r.1, r.2 || a.2 || b.2)) (0, false) (l.map (fun v => (v.toNat, false)))

/-- A reduction over each segment, written to every lane of it (R184); Msk is ignored (R178). -/
def segOp (c : Cl) (t : Th) (u : Upset) (g : List (BitVec 32) → LaneOut) (s : State) (w : VeW) (th : Thread) (l : Launch) : State :=
  match segLen w.seg with
  | none => veFault s c t .illegalVe
  | some n => laneOp c t u s w l th (BitVec.allOnes 128) 1 (fun i => g (segOf (th.vreg w.va) n i.val))

def execVred (c : Cl) (t : Th) (u : Upset) (s : State) : Host.Outcome State Fault Refusal :=
  .next (veRow 0x20 (segOp c t u (fun l => outF (treeReduce f32Add 0 (l.map (·.toNat))))) c t s)

def execVredw (c : Cl) (t : Th) (u : Upset) (s : State) : Host.Outcome State Fault Refusal :=
  .next (veRow 0x21 (segOp c t u (fun l => outW (treeW l))) c t s)

def execVrmax (c : Cl) (t : Th) (u : Upset) (s : State) : Host.Outcome State Fault Refusal :=
  .next (veRow 0x22 (segOp c t u (fun l => outF (treeReduce f32Max 0 (l.map (·.toNat))))) c t s)

/-- The first finite FP32 value of a segment. -/
def firstFinite (l : List (BitVec 32)) : Option (BitVec 32) := l.find? (fun v => (FF.fp32.decode v.toNat).isFinite)

/-- VFIRSTF (R185): +0 and the lane's bit of M3 where a segment holds no finite value. -/
def doVfirstf (c : Cl) (t : Th) (u : Upset) (s : State) (w : VeW) (th : Thread) (l : Launch) : State :=
  match segLen w.seg with
  | none => veFault s c t .illegalVe
  | some n =>
    let f (i : Nat) := firstFinite (segOf (th.vreg w.va) n i)
    let m3 := (List.range 128).foldl (fun (m : BitVec 128) i => if (f i).isNone then m ||| (1#128 <<< i) else m) (th.mreg 3)
    let s := s.updThread c t (fun k => k.setM 3 m3)
    laneOp c t u s w l th (BitVec.allOnes 128) 1 (fun i => outI ((f i.val).getD 0))

def execVfirstf (c : Cl) (t : Th) (u : Upset) (s : State) : Host.Outcome State Fault Refusal :=
  .next (veRow 0x23 (doVfirstf c t u) c t s)

/-- VPERM (R177). -/
def doVperm (c : Cl) (t : Th) (u : Upset) (s : State) (w : VeW) (th : Thread) (l : Launch) : State :=
  laneOp c t u s w l th (BitVec.allOnes 128) 1 (fun i =>
    outI ((th.vreg w.va).getD (((th.vreg w.vb).get i).toNat % 128) 0))

def execVperm (c : Cl) (t : Th) (u : Upset) (s : State) : Host.Outcome State Fault Refusal :=
  .next (veRow 0x24 (doVperm c t u) c t s)

/-- VBCAST (R177). -/
def doVbcast (c : Cl) (t : Th) (u : Upset) (s : State) (w : VeW) (th : Thread) (l : Launch) : State :=
  laneOp c t u s w l th (BitVec.allOnes 128) 1 (fun _ => outI ((th.sreg w.sa).extractLsb' 0 32))

def execVbcast (c : Cl) (t : Th) (u : Upset) (s : State) : Host.Outcome State Fault Refusal :=
  .next (veRow 0x25 (doVbcast c t u) c t s)

/-! ## The special-function unit -/

/-- VSFU (R189, R190): one request for each active lane joins the lane's queue. -/
def doVsfu (c : Cl) (t : Th) (u : Upset) (s : State) (w : VeW) (th : Thread) (_l : Launch) : State :=
  if 8 < w.fn then veFault s c t .illegalVe
  else
    let act := lanesOf (th.mreg w.msk)
    let s := s.updCluster c (fun k => { k with sfuQ := k.sfuQ ++ act.map (fun i =>
      { thread := t, lane := i.val, fn := w.fn, arg := flipLane u i.val ((th.vreg w.va).get i), vd := w.vd : SfuReq }) })
    let s := s.updThread c t (fun k => { k.advance with sfuLeft := act.map (·.val) })
    veUpset (capture s th.replay 8 []) c t w u

def execVsfu (c : Cl) (t : Th) (u : Upset) (s : State) : Host.Outcome State Fault Refusal :=
  .next (veRow 0x30 (doVsfu c t u) c t s)

/-- Evaluator cycles of a function (R189). -/
def sfuCost (fn : Nat) : Nat := if fn ≤ 4 then 1 else 2

/-- Whether an SFU request is an exp whose argument is out of range (R191). -/
def SfuReq.ranges (r : SfuReq) : Bool := r.fn = 0 && expOutOfRange (FF.fp32.decode r.arg.toNat)

/-- A granted request: its result is written and its lane is no longer awaited (R190). -/
def sfuWrite (s : State) (c : Cl) (r : SfuReq) : State :=
  let v := sfuEval r.fn r.arg.toNat
  let x := (((s.clusters.get c).threads.get r.thread).launch.map (·.ctx))
  let s := s.updThread c r.thread (fun k =>
    let k := k.setV r.vd (1#128 <<< r.lane) (fun _ => BitVec.ofNat 32 v)
    { k with sfuLeft := k.sfuLeft.filter (· != r.lane), range := if r.ranges then k.range ||| (1#128 <<< r.lane) else k.range })
  let nan := if r.fn = 0 then (FF.wx32.decode v).isNan else (FF.fp32.decode v).isNan
  bumpC (bumpC s Cnt.WX_RANGE c x (b2n r.ranges)) Cnt.VE_NAN c x (b2n nan)

/-- Lanes with a waiting request, in round-robin order from the lane after the last one granted. -/
def grantOrder (q : List SfuReq) (last : Nat) : List Nat :=
  ((List.range 128).map (fun i => (last + 1 + i) % 128)).filter (fun l => q.any (fun r => r.lane = l))

/-- SFU_GRANT (R190): the free evaluators go to the first lanes in turn. -/
def sfuGrantStep (c : Cl) (s : State) : State :=
  let k := s.clusters.get c
  let lanes := (grantOrder k.sfuQ k.sfuLast).take (32 - k.sfuBusy)
  let reqs := lanes.filterMap (fun l => k.sfuQ.find? (fun r => r.lane = l))
  let two := (reqs.filter (fun r => sfuCost r.fn = 2)).length
  let s := s.updCluster c (fun k => { k with
    sfuQ := reqs.foldl (fun q r => q.erase r) k.sfuQ, sfuBusy := two, sfuLast := lanes.getLast?.getD k.sfuLast })
  reqs.foldl (fun s r => sfuWrite s c r) (bumpC s Cnt.SFU_BUSY c none ((reqs.map (fun r => sfuCost r.fn)).sum))

def execSfuGrant (c : Cl) (s : State) : Host.Outcome State Fault Refusal :=
  .next (if s.clusterUp c then sfuGrantStep c s else s)

/-! ## Scalar and control instructions -/

/-- A scalar instruction: reserved bits 0, Sd written, and the thread advances. -/
def scalarOp (c : Cl) (t : Th) (u : Upset) (g : VeW → Thread → BitVec 64) (s : State) (w : VeW) (th : Thread) (_l : Launch) : State :=
  if w.rsv != 0 then veFault s c t .illegalVe
  else
    let v := match u with
      | .check _ _ flip => g w th ^^^ (flip.setWidth 64)
      | _ => g w th
    veUpset (capture (s.updThread c t (fun k => (k.setS w.sd v).advance)) th.replay 8 []) c t w u

def execSmovi (c : Cl) (t : Th) (u : Upset) (s : State) : Host.Outcome State Fault Refusal :=
  .next (veRow 0x50 (scalarOp c t u (fun w _ => BitVec.ofInt 64 w.imm)) c t s)

def execSadd (c : Cl) (t : Th) (u : Upset) (s : State) : Host.Outcome State Fault Refusal :=
  .next (veRow 0x51 (scalarOp c t u (fun w th => th.sreg w.sSa + th.sreg w.sSb + BitVec.ofInt 64 w.imm)) c t s)

def execSmul (c : Cl) (t : Th) (u : Upset) (s : State) : Host.Outcome State Fault Refusal :=
  .next (veRow 0x52 (scalarOp c t u (fun w th => th.sreg w.sSa * BitVec.ofInt 64 w.imm)) c t s)

/-- The conditions of BR (R176). -/
def condHolds (cond : Nat) (a b : BitVec 64) : Bool :=
  if cond = 0 then true else if cond = 1 then a == b else if cond = 2 then a != b
  else if cond = 3 then a.slt b else b.sle a

/-- BR (R177): PC = PC + Imm when Cond holds; a target outside the instruction memory faults (R183). -/
def doBr (c : Cl) (t : Th) (u : Upset) (s : State) (w : VeW) (th : Thread) (_l : Launch) : State :=
  if w.rsv != 0 || 4 < w.cond then veFault s c t .illegalVe
  else
    let s := capture s th.replay 8 []
    if condHolds w.cond (th.sreg w.sSa) (th.sreg w.sSb) then
      let target := (th.pc : Int) + w.imm
      if target < 0 || (imemSize : Int) ≤ target then veFault s c t .fetch
      else veUpset (s.updThread c t (fun k => { k with pc := target.toNat })) c t w u
    else veUpset (s.updThread c t Thread.advance) c t w u

def execBr (c : Cl) (t : Th) (u : Upset) (s : State) : Host.Outcome State Fault Refusal :=
  .next (veRow 0x58 (doBr c t u) c t s)

/-- A bound register of a context written (R108). -/
def setBound (s : State) (c : Cl) (x : Ctx) (r v : Nat) : State :=
  s.updSeq c x (fun q => { q with bnd := upd q.bnd ⟨r % 32, Nat.mod_lt _ (by decide)⟩ (fun _ => BitVec.ofNat 24 v) })

/-- SETBND of the VE (R186). -/
def doVeSetbnd (c : Cl) (t : Th) (u : Upset) (s : State) (w : VeW) (th : Thread) (l : Launch) : State :=
  if w.rsv != 0 then veFault s c t .illegalVe
  else if 0xFFFFFF < (th.sreg w.sSa).toNat then veFault s c t .bndRange
  else
    let s := setBound s c l.ctx ((w.imm % 32).toNat) (th.sreg w.sSa).toNat
    veUpset (capture (s.updThread c t Thread.advance) th.replay 8 []) c t w u

def execVeSetbnd (c : Cl) (t : Th) (u : Upset) (s : State) : Host.Outcome State Fault Refusal :=
  .next (veRow 0x59 (doVeSetbnd c t u) c t s)

/-- VRANGE (R177): the range flags go to a mask and are cleared. -/
def doVrange (c : Cl) (t : Th) (u : Upset) (s : State) (w : VeW) (th : Thread) (_l : Launch) : State :=
  let s := s.updThread c t (fun k => { (k.setM (w.vd % 4) k.range).advance with range := 0 })
  veUpset (capture s th.replay 8 []) c t w u

def execVrange (c : Cl) (t : Th) (u : Upset) (s : State) : Host.Outcome State Fault Refusal :=
  .next (veRow 0x5A (doVrange c t u) c t s)

/-- What the end of a launch does to the chain of its command (R125, R187, R256). -/
def endLaunch (s : State) (c : Cl) (l : Launch) : State :=
  let d := s.desc c l.ctx l.desc
  s.updCmd c l.ctx l.desc (fun k => { k with
    launches := k.launches - 1,
    slots := if d.kind = 2 then k.slots.set l.slot (if d.codecOp = 0 then .free else .codec l.group l.tile) else k.slots })

/-- VEND (R187): every store of the thread is visible when it has executed, so the launch ends and the thread is idle. A suspect
launch holds its slot until its replay has ended, and each hands its digest to Goose (R454, R456). -/
def doVend (c : Cl) (t : Th) (u : Upset) (s : State) (w : VeW) (th : Thread) (l : Launch) : State :=
  if w.rsv != 0 then veFault s c t .illegalVe
  else
    let s := veUpset (capture s th.replay 8 []) c t w u
    let s := s.updThread c t (fun k => { k with active := false, launch := none, replay := none, suspect := false })
    match th.replay with
    | some id =>
      endLaunch (s.updItem id (fun o => { o with st := .replayed, digestReplay := Seen.digest th.out, replayUnit := some (veUnit c) })) c l
    | none =>
      match s.itemOf .launch c l.ctx l.desc l.ord with
      | some o => s.updItem o.id (fun o => { o with out := th.out, digestOrig := Seen.digest th.out, launch := some l })
      | none => endLaunch s c l

def execVend (c : Cl) (t : Th) (u : Upset) (s : State) : Host.Outcome State Fault Refusal :=
  .next (veRow 0x5F (doVend c t u) c t s)

/-! ## Launches -/

/-- A thread as a launch finds it: every register zero but those the launch defines (R169). -/
def freshThread (l : Launch) (item : Option Nat) : Thread :=
  { active := true, launch := some l, pc := l.entry,
    s := Vector.ofFn (fun (i : Fin 16) => if i.val = 0 then 0 else l.scalars.getD i.val 0), replay := item }

/-- A launch on a thread; the capture of a replay takes its launch registers (R457). -/
def startThread (s : State) (c : Cl) (t : Th) (l : Launch) (item : Option Nat) : State :=
  capture (s.updThread c t (fun _ => freshThread l item)) item 128 []

/-- The lowest-numbered idle thread. -/
def idleThread (k : Cluster) : Option Th := (List.finRange 8).find? (fun t => !(k.threads.get t).active)

/-- VE_LAUNCH (R169): the oldest requested launch takes the lowest-numbered idle thread. -/
def veLaunchStep (c : Cl) (s : State) : State :=
  let k := s.clusters.get c
  match k.launchQ, idleThread k with
  | l :: ls, some t =>
    if s.clusterUp c then startThread (s.updCluster c (fun k => { k with launchQ := ls })) c t l none else s
  | _, _ => s

def execVeLaunch (c : Cl) (s : State) : Host.Outcome State Fault Refusal := .next (veLaunchStep c s)

/-- A launch requested by a command (R169). -/
def requestLaunch (s : State) (c : Cl) (l : Launch) : State :=
  let s := s.updCluster c (fun k => { k with launchQ := k.launchQ ++ [l] })
  s.updCmd c l.ctx l.desc (fun k => { k with launches := k.launches + 1, launched := k.launched + 1 })

end Sys2Proof.Machine
end

