-- ==== Sys2Proof/Machine/Access.lean ====
section
/-! DEFINITION. Accesses to device-local memory and to other devices as the units of a cluster make them: the checks
of R277, R305, R315, R317, R338, R346, R360 and R370, requests sent to another device, and the cluster cache with its
prefetcher (R257 to R266). -/

namespace Sys2Proof.Machine

/-- Bytes in runs: consecutive addresses joined, a run ending at every multiple of `k`. -/
def joinRuns (k : Nat) (cs : List (Nat × Byte)) : List (Nat × List Byte) :=
  (cs.foldl (fun (acc : List (Nat × List Byte)) p =>
    match acc with
    | (a, bs) :: rest => if p.1 = a + bs.length && p.1 % k != 0 then (a, bs ++ [p.2]) :: rest else (p.1, [p.2]) :: acc
    | [] => [(p.1, [p.2])]) []).reverse

/-! ## Checks -/

/-- What an access meets: it may be made, it waits on a Moving page, or it fails with a status (R317). -/
inductive Access where
  | ok
  | hold
  | fail (status : Nat)
  deriving DecidableEq, Repr

/-- The first of two answers that is not `ok`. -/
def Access.and (a b : Access) : Access := if a = .ok then b else a

/-- An access by a party to device-local memory. -/
def State.access (s : State) (p : Party) (a len : Nat) : Access :=
  let e := s.accessErr p a len
  if e = 0 then .ok
  else if e = Code.OWN_FAULT && s.own p a len = .moving then .hold
  else .fail e

/-- The same for a write, which its channels can refuse (R281, R286). -/
def State.accessW (s : State) (p : Party) (a len : Nat) : Access :=
  (s.access p a len).and (if s.writeErr a len = 0 then .ok else .fail (s.writeErr a len))

/-- A range of global addresses reaches an object stored in exact-codec form (R338). -/
def State.compAt (s : State) (a len : Nat) : Bool :=
  s.mem.objs.any (fun o => o.comp && (o.tier = 3 || o.tier = 4) && o.home < a + len && a < o.home + o.size)

/-- Device number an address names (R179). -/
def devOf (a : Nat) : Nat := a / 2 ^ 48 % 65536

/-- What a LOAD, STORE, or, with `bulk`, another operation meets at its source (R346, R370); 0 for none. -/
def State.sourceErr (s : State) (a : Nat) (bulk : Bool) : Nat :=
  if 0x8001 ≤ devOf a then Code.FAB_NODEV
  else if !bulk && podOf (devOf a) != podOf s.ident.devNum then Code.LEVEL_ILLEGAL
  else 0

/-- A request this device makes of another, remembered under its tag until it is answered. -/
def request (s : State) (who : Requester) (k : Pkt) : State :=
  let tag := s.fab.nextTag % 65536
  let s := { s with fab := { s.fab with
    nextTag := s.fab.nextTag + 1,
    reqs := s.fab.reqs ++ [{ tag := tag, dst := k.dst, cls := k.cls, addr := k.addr, len := k.len, who := who }] } }
  send s { k with tag := tag }

/-- The error a response's status names (R361); 0 for OK. -/
def statusOf (st : Nat) : Nat :=
  if st = 0 then 0 else if st = 1 then Code.OWN_FAULT else if st = 2 then Code.HBM_POISON
  else if st = 3 then Code.ADDR_UNMAPPED else if st = 4 then Code.HBM_FENCED else if st = 5 then Code.COMP_ACCESS
  else if st = 6 then Code.LEVEL_ILLEGAL else Code.HBM_UE

/-- The response status of an error (R361). -/
def respStatus (code : Nat) : Nat :=
  if code = 0 then 0 else if code = Code.OWN_FAULT then 1 else if code = Code.HBM_POISON then 2
  else if code = Code.ADDR_UNMAPPED then 3 else if code = Code.HBM_FENCED then 4 else if code = Code.COMP_ACCESS then 5
  else if code = Code.LEVEL_ILLEGAL then 6 else 7

/-! ## Requests in flight (R262) -/

/-- Transfer requests of a cluster in flight. -/
def State.xferInFlight (s : State) (c : Cl) : Nat :=
  let n (x : Xfer) : Nat := (x.reqs.filter (fun (r : XReq) => r.st = 1)).length
  ((s.cmds c).map (fun k => (k.xfer.map n).getD 0)).sum

/-- Cache, uncached and prefetch requests of a cluster in flight. -/
def State.veInFlight (s : State) (c : Cl) : Nat :=
  (s.clusters.get c).inFlight.length + ((s.clusters.get c).threads.toList.map (·.waitRemote)).sum

/-- Places a demand or uncached request can still take. -/
def State.vePlaces (s : State) (c : Cl) : Nat :=
  min (40 - s.veInFlight c) (48 - (s.veInFlight c + s.xferInFlight c))

/-- Places a prefetch can still take. -/
def State.pfPlaces (s : State) (c : Cl) : Nat :=
  min (s.vePlaces c) (16 - ((s.clusters.get c).inFlight.filter (fun r => r.src != 0)).length)

/-- Places a transfer request can still take. -/
def State.xferPlaces (s : State) (c : Cl) : Nat :=
  min (40 - s.xferInFlight c) (48 - (s.veInFlight c + s.xferInFlight c))

/-! ## The cluster cache -/

/-- Counter of a prefetch source, 1 stride or 2 hint. -/
def pfKey (code : Nat) (c : Cl) (src : Nat) : CntKey := { code := if src = 2 then code + 8 else code, unit := c.val }

/-- A demand use of a line the cache holds: it becomes the most recently used, and an unused prefetch was timely. -/
def useLine (s : State) (c : Cl) (line : Nat) : State :=
  match (s.clusters.get c).cache.find? (·.line = line) with
  | none => s
  | some l =>
    let s := s.updCluster c (fun k => { k with cache := { l with pf := 0 } :: k.cache.filter (·.line != line) })
    if l.pf = 0 then s else bump s (pfKey Cnt.PF_TIMELY c l.pf)

/-- A line enters the cache, the least recently used of a full set leaving (R257). -/
def allocLine (s : State) (c : Cl) (l : CLine) : State :=
  let k := s.clusters.get c
  let set := k.cache.filter (fun m => m.line % 512 = l.line % 512)
  let victim := if set.length < 16 then none else set.getLast?
  let s := s.updCluster c (fun k => { k with
    cache := l :: k.cache.filter (fun m => m.line != l.line && (match victim with | some v => m.line != v.line | none => true)) })
  match victim with
  | some v => if v.pf = 0 then s else bump s (pfKey Cnt.PF_UNUSED c v.pf)
  | none => s

/-- A demand for a line that is not held: it joins a request in flight or makes its own (R260). -/
def missLine (s : State) (c : Cl) (t : Th) (line : Nat) : State :=
  let k := s.clusters.get c
  let s := bumpC s Cnt.CC_MISS c
  match k.inFlight.find? (·.line = line) with
  | some r =>
    let s := s.updCluster c (fun k => { k with inFlight := k.inFlight.map (fun (q : CReq) =>
      if q.line = line then { q with late := true, waiters := t.val :: q.waiters } else q) })
    if r.src != 0 && !r.late then bump s (pfKey Cnt.PF_LATE c r.src) else s
  | none => s.updCluster c (fun k => { k with inFlight := k.inFlight ++ [{ line := line, waiters := [t.val] }] })

/-- A prefetch of one line (R264, R265). -/
def prefetchLine (s : State) (c : Cl) (x : Ctx) (src line : Nat) : State :=
  let k := s.clusters.get c
  if k.cache.any (·.line = line) || k.inFlight.any (·.line = line) then s
  else if s.pfPlaces c = 0 || s.access (s.party x) (128 * line) 128 != .ok then bump s (pfKey Cnt.PF_DROPPED c src)
  else bump (s.updCluster c (fun k => { k with inFlight := k.inFlight ++ [{ line := line, src := src }] })) (pfKey Cnt.PF_ISSUED c src)

/-- PfDepth of a context (R263). -/
def State.pfDepth (s : State) (x : Ctx) : Nat := (s.jobs.get x).pfDepth

/-- The stride predictor sees a demand access at `a` of the instruction at `pc` of a thread; `missed` says that it
missed (R263). -/
def pfObserve (s : State) (c : Cl) (x : Ctx) (t : Th) (pc a : Nat) (missed : Bool) : State :=
  let pf := (s.clusters.get c).pf
  let mine (q : PfStream) : Bool := q.thread = t.val && q.pc = pc
  let put (q : PfStream) (s : State) : State :=
    s.updCluster c (fun k => { k with pf := (q :: k.pf.filter (fun o => !mine o)).take 16 })
  match pf.find? mine with
  | none => if missed then put { thread := t.val, pc := pc, last := a, count := 1 } s else s
  | some q =>
    if !missed && q.count < 3 then s
    else
      let d : Int := (a : Int) - q.last
      let near : Bool := d.natAbs ≤ 65536
      let q := { q with last := a, stride := if near then d else 0,
                        count := if !near then 1 else if d = q.stride then min 3 (q.count + 1) else 2 }
      let s := put q s
      if q.count < 3 || q.stride = 0 then s
      else
        ((List.range (s.pfDepth x)).map (fun i => (a : Int) + q.stride * ((i + 1 : Nat) : Int))).foldl (fun s b =>
          if b < 0 || b.toNat / 4096 != a / 4096 then s else prefetchLine s c x 1 (b.toNat / 128)) s

/-- CACHE_FILL (R257, R259): the data of a line in flight arrives. A parity error removes the line, and the access
fetches it again. A poisoned line is not kept. -/
def cacheFillStep (c : Cl) (line : Nat) (u : Upset) (s : State) : State :=
  match (s.clusters.get c).inFlight.find? (·.line = line) with
  | none => s
  | some r =>
    if u != .none then bumpC s Cnt.CC_PARITY c
    else
      let s := s.updCluster c (fun k => { k with
        inFlight := k.inFlight.filter (·.line != line),
        threads := k.threads.map (fun th => if th.waitLines.contains line then
          { th with waitLines := th.waitLines.filter (· != line), got := line :: th.got } else th) })
      if !s.mapped (128 * line) || s.poisoned (128 * line) 128 then s
      else allocLine s c { line := line, pf := if r.waiters.isEmpty then r.src else 0 }

def execCacheFill (c : Cl) (line : Nat) (u : Upset) (s : State) : Host.Outcome State Fault Refusal :=
  .next (cacheFillStep c line u s)

end Sys2Proof.Machine
end

