-- ==== Sys2Proof/Machine/Kv.lean ====
section
/-! DEFINITION. Key/value translation: sequence records, the two-level page tables, the walkers' look-aside buffers and
held faults (R203 to R212). -/

namespace Sys2Proof.Machine

/-- What a translation answers. -/
inductive KvRes where
  /-- A device-local address, or a global one for a Far frame. -/
  | ok (addr : Nat)
  | prot
  | fault
  /-- A table entry lies on a Moving page. -/
  | hold
  /-- A read of a table entry fails with a status. -/
  | fail (status : Nat)
  deriving DecidableEq, Repr

/-- Walker of a cluster (R206). -/
def walkerOf (c : Cl) : Fin 4 := ⟨c.val / 10, by have := c.isLt; omega⟩

/-- A sequence record of a context. -/
def State.seqRec (s : State) (x : Ctx) (seq : Nat) : Option SeqRec := ((s.mem.seqs.get x).find? (·.1 = seq)).map (·.2)

/-- An 8-byte table entry read for a context. -/
def State.kvEntry (s : State) (x : Ctx) (a : Nat) : Except KvRes Nat :=
  match s.access (s.party x) a 8 with
  | .hold => .error .hold
  | .fail st => .error (.fail st)
  | .ok => if s.poisoned a 8 then .error (.fail Code.HBM_UE) else .ok (ofBytes (s.rd a 8))

/-- The walk of R205: the look-aside entry of a page. -/
def State.kvWalk (s : State) (x : Ctx) (seq : Nat) (r : SeqRec) (va : Nat) : Except KvRes LabEntry :=
  let vpn := va / 2 ^ r.pgShift
  match s.kvEntry x (r.root + 8 * (vpn / 512)) with
  | .error e => .error e
  | .ok dir =>
    if !bit dir 0 then .error .fault
    else
      match s.kvEntry x (bits dir 47 12 * 4096 + 8 * (vpn % 512)) with
      | .error e => .error e
      | .ok pte =>
        if !bit pte 0 then .error .fault
        else if bit pte 2 != (x == .j1) then .error .prot
        else .ok { ctx := x, seq := seq, vpn := vpn, frame := bits pte 47 12 * 4096, dev := bits pte 63 48,
                   far := bit pte 3, w := bit pte 1 }

/-- The answer an entry gives an access (R205, R209). -/
def State.kvUse (s : State) (r : SeqRec) (e : LabEntry) (va : Nat) (write : Bool) : KvRes :=
  if write && !e.w then .prot
  else if e.far && podOf e.dev != podOf s.ident.devNum then .prot
  else .ok ((if e.far then e.dev * 2 ^ 48 else 0) + e.frame + va % 2 ^ r.pgShift)

/-- The ranges of the shard of a position. -/
def KvRing.rangesOf (g : KvRing) (p : Nat) : List (Nat × Nat) :=
  match g.ranges[p]? with
  | some (a, b) => [a, b].filter (fun r => r.2 != 0)
  | none => []

/-- A ring carries a gradient shard where a loaded Mode 1 descriptor accumulates into one of its ranges (R233, log entry
29). -/
def State.ringGrad (s : State) (x : Ctx) (g : KvRing) : Bool :=
  let rs := (List.range g.n).flatMap g.rangesOf
  (List.finRange 40).any (fun c => ((s.clusters.get c).seq.get x).descs.toList.any (fun b =>
    let d := Desc.of b
    d.kind = 3 && d.att.mode && d.att.seq = g.seq && rs.any (fun r => r.1 ≤ d.att.gradBase && d.att.gradBase < r.1 + r.2)))

/-- A write of a virtual address falls in a KV shard that belongs to a ring pass (R232). -/
def State.ringOwned (s : State) (x : Ctx) (seq va : Nat) : Bool :=
  (s.mem.rings.get x).any (fun g => g.seq = seq && !s.ringGrad x g &&
    ((List.range g.n).flatMap g.rangesOf).any (fun r => r.1 ≤ va && va < r.1 + r.2))

/-- A translation by the walker of a cluster: from its look-aside buffer, or by a walk that enters it, the least
recently used of 128 entries leaving (R207, R209). -/
def translate (s : State) (c : Cl) (x : Ctx) (seq va : Nat) (write : Bool) : State × KvRes :=
  match s.seqRec x seq with
  | none => (s, .prot)
  | some r =>
    if r.ctx != x || r.limit ≤ va || (write && s.ringOwned x seq va) then (s, .prot)
    else
      let w := walkerOf c
      let hit (e : LabEntry) : Bool := e.ctx = x && e.seq = seq && e.vpn = va / 2 ^ r.pgShift
      let lab := s.mem.labs.get w
      let put (e : LabEntry) : State :=
        { s with mem := { s.mem with labs := upd s.mem.labs w (fun l => (e :: l.filter (fun o => !hit o)).take 128) } }
      match lab.find? hit with
      | some e => (put e, s.kvUse r e va write)
      | none =>
        match s.kvWalk x seq r va with
        | .error e => (s, e)
        | .ok e => (put e, s.kvUse r e va write)

/-- A held fault of a walker is recorded, once. -/
def holdKv (s : State) (h : KvHeld) : State :=
  if s.mem.kvHeld.contains h then s else { s with mem := { s.mem with kvHeld := s.mem.kvHeld ++ [h] } }

/-- The Detail of KV_PAGE_FAULT for a requester that is no transfer (R547). -/
def kvDetail (beat va seq : Nat) : List Byte := toBytes 8 (beat % 2 ^ 48) ++ toBytes 8 va ++ toBytes 8 (seq % 4096)

/-- A walker retries the held faults of a sequence: those whose page is now present are held no more (R211). -/
def retryKv (s : State) (x : Ctx) (seq : Nat) : State :=
  match s.seqRec x seq with
  | none => s
  | some r =>
    { s with mem := { s.mem with kvHeld := s.mem.kvHeld.filter (fun h =>
        !(h.ctx = x && h.seq = seq && (match s.kvWalk x seq r h.va with | .ok _ => true | .error _ => false))) } }

/-- PONY_WALK (R205 to R212): one request translated by the cluster's walker. -/
def ponyWalkStep (c : Cl) (x : Ctx) (seq va : Nat) (write pref : Bool) (s : State) : State :=
  if !s.clusterUp c then s
  else
    let (s', r) := translate s c x seq va write
    match r with
    | .ok _ => s'
    | .hold => s'
    | .prot => if pref then bump s' (pfKey Cnt.PF_DROPPED c 2) else failBeat s' c x Code.KV_PROT
    | .fault =>
      if pref then bump s' (pfKey Cnt.PF_DROPPED c 2)
      else
        raise (holdKv s' { ctx := x, seq := seq, va := va, cluster := c.val, desc := 64 })
          { code := Code.KV_PAGE_FAULT, ctx := some x, unit := seqUnit c, detail := kvDetail (s'.beatNo c x) va seq }
    | .fail st =>
      if pref then bump s' (pfKey Cnt.PF_DROPPED c 2) else failBeat s' c x st

def execPonyWalk (c : Cl) (x : Ctx) (seq va : Nat) (write pref : Bool) (s : State) : Host.Outcome State Fault Refusal :=
  .next (ponyWalkStep c x seq va write pref s)

/-- A virtual range in pieces that lie in one page (R207). -/
def pagePieces (pg : Nat) : Nat → Nat → Nat → List (Nat × Nat)
  | 0, _, _ => []
  | fuel + 1, va, len =>
    if len = 0 then []
    else
      let n := min len (pg - va % pg)
      (va, n) :: pagePieces pg fuel (va + n) (len - n)

/-- What a read of a KV virtual range answers. -/
inductive KvRead where
  | bytes (bs : List Byte)
  | prot
  | fault (va : Nat)
  | own (addr : Nat)
  | hold
  | fail (status : Nat)
  deriving DecidableEq, Repr

/-- Bytes another device returned, when all of a range are among those given. -/
def farBytes (far : List Host.Cell) (a n : Nat) : Option (List Byte) :=
  let got := (List.range n).map (fun i => (far.find? (fun p => p.1 = a + i)).map (·.2))
  if got.all Option.isSome then some (got.map (·.getD 0)) else none

/-- A read of a KV virtual range for a command: page by page, Far frames from the bytes their device returned. -/
def kvRead (s : State) (c : Cl) (x : Ctx) (seq va len : Nat) (far : List Host.Cell) : State × KvRead :=
  match s.seqRec x seq with
  | none => (s, .prot)
  | some r =>
    (pagePieces (2 ^ r.pgShift) (len + 1) va len).foldl (fun (acc : State × KvRead) p =>
      match acc.2 with
      | .bytes bs =>
        let (s, t) := translate acc.1 c x seq p.1 false
        match t with
        | .prot => (s, .prot)
        | .fault => (s, .fault p.1)
        | .hold => (s, .hold)
        | .fail st => (s, .fail st)
        | .ok a =>
          if s.isLocal a then
            match s.access (s.party x) (localOff a) p.2 with
            | .hold => (s, .hold)
            | .fail st => (s, if st = Code.OWN_FAULT then .own a else .fail st)
            | .ok => if s.poisoned (localOff a) p.2 then (s, .fail Code.HBM_UE) else (s, .bytes (bs ++ s.rd (localOff a) p.2))
          else
            match farBytes far a p.2 with
            | some fs => (s, .bytes (bs ++ fs))
            | none => (s, .hold)
      | _ => acc) (s, .bytes [])

end Sys2Proof.Machine
end

