-- ==== Sys2Proof/Machine/Transfer.lean ====
section
/-! DEFINITION. Transfer nests: their tiles and requests, multicast fetches, delivery, outbound writes after commit, and
transfers held on a fault (R239 to R256, R262, R264, R267 to R270, R649). -/

namespace Sys2Proof.Machine

/-! ## Tiles and requests -/

/-- Tiles of a transfer: loop indices, outside address, store address, bytes (R243, R244). -/
def Desc.xtiles (d : Desc) (ext : List Nat) : List (List Nat × Nat × Nat × Nat) :=
  (d.walk ext).map (fun idx => (idx, outside d idx, addr22 d.a.elem d idx (·.eA), d.covers ext idx d.kLevel))

/-- Where a request that starts at an outside address must end: the next 8 KiB boundary, or the next page boundary of a
KV sequence (R246). -/
def reqEnd (pg a : Nat) : Nat := min (8192 - a % 8192) (pg - a % pg)

/-- The requests of a tile (R246). The fuel bounds their number. -/
def tileReqs (tile pg : Nat) : Nat → Nat → Nat → Nat → List XReq
  | 0, _, _, _ => []
  | fuel + 1, ext, store, len =>
    if len = 0 then []
    else
      let n := min len (reqEnd pg ext)
      { tile := tile, ext := ext, store := store, len := n } :: tileReqs tile pg fuel (ext + n) (store + n) (len - n)

/-- The requests of every tile, in order. -/
def allReqs (pg : Nat) (ts : List (List Nat × Nat × Nat × Nat)) : List XReq :=
  ts.zipIdx.flatMap (fun p => tileReqs p.2 pg (p.1.2.2.2 / 8 + 2) p.1.2.1 p.1.2.2.1 p.1.2.2.2)

/-- Page size that splits a transfer's requests. -/
def State.xferPage (s : State) (x : Ctx) (d : Desc) : Nat :=
  if d.xfer.kv then (match s.seqRec x d.xfer.seq with | some r => 2 ^ r.pgShift | none => 8192) else 8192

/-- The transfer a RUN starts. -/
def State.newXfer (s : State) (x : Ctx) (dn : Fin 64) (d : Desc) (ext : List Nat) (beat : Nat) : Xfer :=
  let ts := d.xtiles ext
  { desc := dn, tiles := ts, reqs := if d.xfer.dir = 2 then [] else allReqs (s.xferPage x d) ts,
    armed := d.xfer.dir = 2, beat := beat }

/-- A running transfer command changed. -/
def State.updXfer (s : State) (c : Cl) (x : Ctx) (d : Fin 64) (f : Xfer → Xfer) : State :=
  s.updCmd c x d (fun k => { k with xfer := k.xfer.map f })

/-- One request changed. -/
def Xfer.setReq (t : Xfer) (i : Nat) (f : XReq → XReq) : Xfer := { t with reqs := t.reqs.modify i f }

/-- Loop index at a rank, 0 for an unused one. -/
def Desc.rankIdx (d : Desc) (idx : List Nat) (r : Nat) : Nat := ((d.byRank[r]?).map (fun p => idx.getD p.1 0)).getD 0

/-- The resume record (R268). -/
def resumeRec (beat : Nat) (x : Ctx) (c : Cl) (dn : Fin 64) (cause addr : Nat) (d : Desc) (idx : List Nat) : List Byte :=
  toBytes 8 (beat % 2 ^ 48 + place (ctxNo x) 48 + place c.val 49 + place dn.val 55 + place cause 61) ++ toBytes 8 addr ++
    (List.range 3).flatMap (fun i => toBytes 8 (d.rankIdx idx (2 * i) % 2 ^ 24 + place (d.rankIdx idx (2 * i + 1) % 2 ^ 24) 24))

/-- Index of a transfer tile. -/
def Xfer.tileIdx (t : Xfer) (n : Nat) : List Nat := ((t.tiles[n]?).map (·.1)).getD []

/-- A request of a tile meets a fault that is held (R267, R268): the requests of that and every later tile are let go,
the event carries the resume record, and a KV fault is held by the walker too. -/
def holdXfer (s : State) (c : Cl) (x : Ctx) (dn : Fin 64) (tile cause addr : Nat) : State :=
  let d := s.desc c x dn
  match (s.cmd c x dn).bind (·.xfer) with
  | none => s
  | some t =>
    if t.held.isSome then s
    else
      let s := s.updXfer c x dn (fun t => { t with
        held := some (cause, addr), faultTile := tile,
        reqs := t.reqs.map (fun r => if tile ≤ r.tile then { r with st := 0, data := [] } else r) })
      let s := { s with fab := { s.fab with reqs := s.fab.reqs.filter (fun q => match q.who with
        | .transfer c' x' d' i => !(c' = c.val && x' = x && d' = dn.val && tile ≤ ((t.reqs[i]?).map (·.tile)).getD 0)
        | _ => true) } }
      let s := if cause = 1 then holdKv s { ctx := x, seq := d.xfer.seq, va := addr, cluster := c.val, desc := dn.val } else s
      raise s { code := if cause = 1 then Code.KV_PAGE_FAULT else Code.OWN_FAULT, ctx := some x, unit := seqUnit c,
                detail := resumeRec t.beat x c dn cause addr d (t.tileIdx tile) }

/-! ## Delivery (R245, R251, R252, R256) -/

/-- The commands of a context's running beat. -/
def State.beatCmds (s : State) (c : Cl) (x : Ctx) : List Cmd := ((s.run c x).map (·.cmds)).getD []

/-- Multicast fetches of a leader that name a receiver, in the order they started in its beat. -/
def State.mcFetches (s : State) (lead : Cl) (x : Ctx) (recv : Cl) : List Cmd :=
  (s.beatCmds lead x).filter (fun k => let d := s.desc lead x k.desc
    d.kind = 4 && d.xfer.dir = 0 && bit d.xfer.recvMask recv.val)

/-- Receives of a cluster that name a leader, in the order they started in its beat. -/
def State.mcReceives (s : State) (recv : Cl) (x : Ctx) (lead : Cl) : List Cmd :=
  (s.beatCmds recv x).filter (fun k => let d := s.desc recv x k.desc
    d.kind = 4 && d.xfer.dir = 2 && d.xfer.leader = lead.val)

/-- The receive that pairs with a leader's running fetch (R252): the n-th of each, in the same beat. -/
def State.mcPair (s : State) (lead : Cl) (x : Ctx) (dn : Fin 64) (recv : Cl) : Option Cmd :=
  match (s.mcFetches lead x recv).findIdx? (fun k => k.desc = dn && k.st == .running) with
  | none => none
  | some n => if s.beatNo lead x = s.beatNo recv x && (s.run recv x).isSome then (s.mcReceives recv x lead)[n]? else none

/-- The clusters a fetch delivers to, other than the leader: those its RecvMask names that are in service (R253). -/
def State.mcTargets (s : State) (lead : Cl) (d : Desc) : List Cl :=
  (List.finRange 40).filter (fun c => c != lead && bit d.xfer.recvMask c.val && s.clusterUp c)

/-- The launch of a delivered tile (R256). -/
def tileLaunch (d : Desc) (x : Ctx) (dn : Fin 64) (idx : List Nat) (store len n : Nat) : Launch :=
  { ctx := x, desc := dn, entry := d.veEntry, ord := n, tile := n,
    scalars := (0 :: store :: len :: (List.range 6).map (d.rankIdx idx) ++ [n]).map (BitVec.ofNat 64) }

/-- Tile `n` is delivered to a cluster's command: its bytes are written and its VE program is launched. -/
def deliverTo (s : State) (c : Cl) (x : Ctx) (dn : Fin 64) (n : Nat) (bs : List Byte) : State :=
  match (s.cmd c x dn).bind (·.xfer) with
  | none => s
  | some t =>
    match t.tiles[n]? with
    | none => s
    | some (idx, _, store, _) =>
      let d := s.desc c x dn
      let s := s.csWrW c x dn.val store bs
      let s := s.updXfer c x dn (fun t => { t with delivered := n + 1 })
      if d.veEntry = 0 then s else requestLaunch s c (tileLaunch d x dn idx store bs.length n)

/-- The next tiles of an inbound transfer whose requests have all returned are delivered, in order. The number bounds
how many. -/
def deliver (c : Cl) (x : Ctx) (dn : Fin 64) : Nat → State → State
  | 0, s => s
  | fuel + 1, s =>
    match (s.cmd c x dn).bind (·.xfer) with
    | none => s
    | some t =>
      let n := t.delivered
      let rs := t.reqs.filter (fun r => r.tile = n)
      if n < t.tiles.length && rs.all (fun r => r.st = 2) && !(t.held.isSome && t.faultTile ≤ n) then
        let bs := rs.flatMap (·.data)
        let d := s.desc c x dn
        let s :=
          if d.xfer.recvMask = 0 then deliverTo s c x dn n bs
          else
            let s := (s.mcTargets c d).foldl (fun s r => match s.mcPair c x dn r with
              | some k => deliverTo s r x k.desc n bs
              | none => s) s
            if bit d.xfer.recvMask c.val then deliverTo s c x dn n bs
            else s.updXfer c x dn (fun t => { t with delivered := n + 1 })
        deliver c x dn fuel s
      else s

/-! ## Requests (R246, R262) -/

/-- The status a transfer's access of an exact-codec object meets: whole aligned 4 KiB slots only (R338). -/
def State.slotErr (s : State) (a len : Nat) : Nat :=
  if s.mem.objs.any (fun o => o.comp && (o.tier = 3 || o.tier = 4) && o.home < a + len && a < o.home + o.size &&
      ((a - o.home) % 4096 != 0 || len % 4096 != 0)) then Code.COMP_ACCESS else 0

/-- One inbound request issued: translated, and sent where another device holds its bytes. The flag says whether the
transfer can go on issuing. -/
def issueReq (s : State) (c : Cl) (x : Ctx) (dn : Fin 64) (i : Nat) (r : XReq) : State × Bool :=
  let d := s.desc c x dn
  let (s, tr) := if d.xfer.kv then translate s c x d.xfer.seq r.ext false else (s, KvRes.ok r.ext)
  match tr with
  | .prot => (failCmd s c x dn Code.KV_PROT, false)
  | .fault => (holdXfer s c x dn r.tile 1 r.ext, false)
  | .hold => (s, false)
  | .fail st => if st = Code.OWN_FAULT then (holdXfer s c x dn r.tile 2 r.ext, false) else (failCmd s c x dn st, false)
  | .ok a =>
    let go (s : State) : State := s.updXfer c x dn (fun t => t.setReq i (fun q => { q with st := 1, phys := a }))
    if s.isLocal a then (go s, true)
    else
      let small : Bool := r.len ≤ 256 && a % 256 + r.len ≤ 256
      let e := s.sourceErr a (!(d.xfer.kv || r.len < 64))
      let e := if e = 0 then s.slotErr a r.len else e
      if e != 0 then (failCmd s c x dn e, false)
      else
        let k : Pkt := { cls := 1, op := if small && (d.xfer.kv || r.len < 64) then 0x01 else 0x04, dst := devOf a, src := 0,
                         ctx := ctxNo x, addr := a, len := r.len }
        (request (go s) (.transfer c.val x dn.val i) k, true)

/-- The next requests of an inbound transfer are issued, as far as the cluster has places. -/
def issueReqs (c : Cl) (x : Ctx) (dn : Fin 64) : Nat → State → State
  | 0, s => s
  | fuel + 1, s =>
    match (s.cmd c x dn).bind (·.xfer) with
    | none => s
    | some t =>
      if s.xferPlaces c = 0 then s
      else
        match t.reqs.findIdx? (fun r => r.st = 0) with
        | none => s
        | some i =>
          match t.reqs[i]? with
          | none => s
          | some r =>
            if t.held.isSome && t.faultTile ≤ r.tile then s
            else
              let (s, go) := issueReq s c x dn i r
              if go then issueReqs c x dn fuel s else s

/-- One request of a hint transfer: each line it covers is prefetched, lines of other devices are skipped (R264). -/
def issueHint (s : State) (c : Cl) (x : Ctx) (dn : Fin 64) : State :=
  match (s.cmd c x dn).bind (·.xfer) with
  | none => s
  | some t =>
    match t.reqs.findIdx? (fun r => r.st = 0) with
    | none => s
    | some i =>
      match t.reqs[i]? with
      | none => s
      | some r =>
        let s := s.updXfer c x dn (fun t => t.setReq i (fun q => { q with st := 2 }))
        ((List.range ((r.ext + r.len - 1) / 128 + 1 - r.ext / 128)).map (fun k => r.ext / 128 + k)).foldl (fun s ln =>
          if s.isLocal (128 * ln) then prefetchLine s c x 2 (localOff (128 * ln) / 128)
          else bump s (pfKey Cnt.PF_DROPPED c 2)) s

/-- Bytes of an element of a transposed format and the edge of its block (R249). -/
def transposeShape (fmt : Nat) : Nat × Nat := if fmt = 0 then (4, 16) else if fmt = 1 || fmt = 2 then (2, 32) else (1, 64)

/-- One block of a transpose transfer (R249). -/
def transposeTile (s : State) (c : Cl) (x : Ctx) (dn : Fin 64) : State :=
  match (s.cmd c x dn).bind (·.xfer) with
  | none => s
  | some t =>
    match t.tiles[t.delivered]? with
    | none => s
    | some (_, src, dst, _) =>
      let d := s.desc c x dn
      let (w, n) := transposeShape d.a.fmt
      let rows := (List.range n).map (fun r => s.csRdW c x (src + r * d.xfer.extRowStride) 64)
      let s := (List.range n).foldl (fun s q =>
        s.csWrW c x dn.val (dst + q * d.a.rowStride) ((List.range n).flatMap (fun r => slice (rows.getD r []) (q * w) w))) s
      s.updXfer c x dn (fun t => { t with delivered := t.delivered + 1 })

/-! ## Outbound transfers (R247, R248, R649) -/

/-- The objects whose bytes a range of addresses reaches. -/
def State.objsAt (s : State) (a len : Nat) : List Obj :=
  s.mem.objs.filter (fun o =>
    let b := if s.isLocal a then localOff a else a
    (o.tier = 1 || o.tier = 2 || o.tier = 6 || o.tier = 3 || o.tier = 4) && o.home < b + len && b < o.home + o.size)

/-- Objects a transfer pins, each once. -/
def State.xferObjs (s : State) (t : Xfer) : List Nat := (t.reqs.flatMap (fun r => (s.objsAt r.phys r.len).map (·.index))).eraseDups

/-- Pins of a list of objects changed. -/
def pinObjs (s : State) (is : List Nat) (f : Nat → Nat) : State :=
  { s with mem := { s.mem with objs := s.mem.objs.map (fun o => if is.contains o.index then { o with pins := f o.pins } else o) } }

/-- One destination of an outbound transfer checked (R247): its address, or the fault it meets. -/
def checkDest (s : State) (c : Cl) (x : Ctx) (dn : Fin 64) (r : XReq) : State × KvRes :=
  let d := s.desc c x dn
  let (s, tr) := if d.xfer.kv then translate s c x d.xfer.seq r.ext true else (s, KvRes.ok r.ext)
  match tr with
  | .ok a =>
    if s.isLocal a then
      match s.access (s.party x) (localOff a) r.len with
      | .ok => (s, .ok a)
      | .hold => (s, .hold)
      | .fail st => (s, .fail st)
    else
      let e := s.sourceErr a true
      let e := if e = 0 then s.slotErr a r.len else e
      if e = 0 then (s, .ok a) else (s, .fail e)
  | t => (s, t)

/-- Every destination of an outbound transfer is checked in order; when all pass they are pinned and the command is
complete (R247). The fuel bounds the requests left. -/
def pinOutbound (c : Cl) (x : Ctx) (dn : Fin 64) : Nat → State → State
  | 0, s => s
  | fuel + 1, s =>
    match (s.cmd c x dn).bind (·.xfer) with
    | none => s
    | some t =>
      if t.pinned || t.held.isSome then s
      else
        match t.reqs.findIdx? (fun r => r.st = 0) with
        | none => (pinObjs s (s.xferObjs t) (· + 1)).updXfer c x dn (fun (t : Xfer) => { t with pinned := true, objs := s.xferObjs t })
        | some i =>
          match t.reqs[i]? with
          | none => s
          | some r =>
            let (s, tr) := checkDest s c x dn r
            match tr with
            | .ok a => pinOutbound c x dn fuel (s.updXfer c x dn (fun t => t.setReq i (fun q => { q with st := 2, phys := a })))
            | .prot => failCmd s c x dn Code.KV_PROT
            | .fault => holdXfer s c x dn r.tile 1 r.ext
            | .hold => s
            | .fail st => if st = Code.OWN_FAULT then holdXfer s c x dn r.tile 2 r.ext else failCmd s c x dn st

/-- A write of a committed outbound transfer fails (R649): the event of its status, and the object is Damaged. -/
def damage (s : State) (x : Ctx) (u : UnitId) (beat dn a len status : Nat) : State :=
  let s := raiseCtx s status (some x) u beat a
  let s := { s with mem := { s.mem with objs := s.mem.objs.map (fun o =>
    if (s.objsAt a len).contains o then { o with damaged := true } else o) } }
  raiseCtx s Code.OBJ_DAMAGED (some x) u beat (match s.objsAt a len with | o :: _ => o.index + place o.gen 16 | [] => dn)

/-- The BULK WRITE packets of a range, at most 1,024 bytes each (R359). -/
def writePkts (ctx a : Nat) (bs : List Byte) : List Pkt :=
  (piecesOf 1024 (bs.length + 1) bs).zipIdx.map (fun (b, i) =>
    { cls := 3, op := 0x01, dst := devOf a, src := 0, ctx := ctx, addr := a + 1024 * i, len := b.length, payload := b : Pkt })

/-- One request of a committed outbound transfer: its source bytes are read and written (R247, R649). -/
def outboundReq (s : State) (c : Cl) (x : Ctx) (t : Xfer) (r : XReq) : State :=
  let bs := s.csRd c r.store r.len
  if s.isLocal r.phys then
    let a := localOff r.phys
    let e := s.writeErr a r.len
    if e != 0 then damage s x (seqUnit c) t.beat t.desc.val r.phys r.len e else s.wr a bs
  else (writePkts (ctxNo x) r.phys bs).foldl send s

/-- The next request of the oldest outbound transfer of a stage with a descriptor; a transfer with nothing left is over
and unpins its destinations. -/
def issueOutbound (s : State) (c : Cl) (x : Ctx) (dn : Fin 64) : State :=
  match (s.stage c x).bind (fun g => g.outbound.find? (fun t => t.desc = dn)) with
  | none => s
  | some t =>
    match t.reqs with
    | [] => s
    | r :: rest =>
      let s := outboundReq s c x t r
      let s := s.updStage c x (fun g => { g with outbound := (g.outbound.map (fun o =>
        if o = t then { o with reqs := rest } else o)).filter (fun o => !o.reqs.isEmpty) })
      if rest.isEmpty then pinObjs s t.objs (· - 1) else s

/-! ## kv.inval (R208) -/

/-- An access of a context has been translated through an entry of a sequence's pages and has not finished: a request in
flight, or a write of an outbound transfer that has its destinations. -/
def State.kvInUse (s : State) (x : Ctx) (seq lo hi : Nat) : Bool :=
  let mine (d : Desc) (p : XReq → Bool) (t : Xfer) : Bool :=
    d.xfer.kv && d.xfer.seq = seq && t.reqs.any (fun r => p r && r.ext < hi && lo < r.ext + r.len)
  (List.finRange 40).any (fun c =>
    (s.beatCmds c x).any (fun k => k.st == .running && (match k.xfer with
      | some t => let d := s.desc c x k.desc; mine d (fun r => r.st = 1 || (d.xfer.dir = 1 && r.st = 2)) t
      | none => false)) ||
    (match s.stage c x with
     | some g => g.outbound.any (fun t => mine (s.desc c x t.desc) (fun _ => true) t)
     | none => false))

/-- The accesses a started kv.inval waits for are still going on. -/
def State.invalWaits (s : State) (k : Started) : Bool :=
  let x := (ctxOf k.cmd.ctx.toNat).getD .j0
  let va := u64At k.cmd.payload 8
  s.kvInUse x (fld k.cmd.payload 0 11 0) va (va + u64At k.cmd.payload 16)

/-- Every kv.inval that waits for nothing more completes (R208). -/
def finishInvals (s : State) : State :=
  (s.mbx.started.filter (fun k => k.code = CmdCode.kvInval && !s.invalWaits k)).foldl (fun s k =>
    completeLater s k.code k.key Code.OK) s

/-- TRANSFER_REQUEST_ISSUE (R246): the next requests of a running transfer, or of a committed outbound one. -/
def transferIssue (c : Cl) (x : Ctx) (dn : Fin 64) (s : State) : State :=
  if !s.clusterUp c then s
  else
    match s.cmd c x dn with
    | none => issueOutbound s c x dn
    | some k =>
      match k.xfer with
      | none => issueOutbound s c x dn
      | some t =>
        let d := s.desc c x dn
        if d.xfer.dir = 0 then (if d.xfer.recvMask = 0 then issueReqs c x dn 48 s else s)
        else if d.xfer.dir = 1 then pinOutbound c x dn (t.reqs.length + 1) s
        else if d.xfer.dir = 3 then issueHint s c x dn
        else if d.xfer.dir = 4 then transposeTile s c x dn
        else s

def execTransferRequestIssue (c : Cl) (x : Ctx) (d : Fin 64) (s : State) : Host.Outcome State Fault Refusal :=
  .next (finishInvals (transferIssue c x d s))

/-- Bytes a transfer command moves. -/
def Xfer.bytes (t : Xfer) : Nat := (t.tiles.map (·.2.2.2)).sum

/-- Innermost step of a command's descriptor. -/
def State.stepOfCmd (s : State) (c : Cl) (x : Ctx) (dn : Fin 64) : Nat :=
  let d := s.desc c x dn
  match d.lvls[d.kLevel]? with
  | some l => l.tile
  | none => 0

/-- MCAST_FETCH_ISSUE (R251 to R254): once every named cluster in service is armed, and each pair agrees, the leader
issues requests. -/
def mcastIssue (c : Cl) (x : Ctx) (dn : Fin 64) (s : State) : State :=
  if !s.clusterUp c then s
  else
    match (s.cmd c x dn).bind (·.xfer) with
    | none => s
    | some t =>
      let d := s.desc c x dn
      if d.xfer.dir != 0 || d.xfer.recvMask = 0 then s
      else
        let ts := s.mcTargets c d
        if ts.any (fun r => (s.mcPair c x dn r).isNone) then s
        else
          let bad := ts.filter (fun r => match s.mcPair c x dn r with
            | some k => s.stepOfCmd r x k.desc != s.stepOfCmd c x dn || (k.xfer.map Xfer.bytes) != some t.bytes
            | none => false)
          if bad.isEmpty then issueReqs c x dn 48 s
          else
            let s := bad.foldl (fun s r => match s.mcPair c x dn r with
              | some k => failCmd s r x k.desc Code.MCAST_MISMATCH
              | none => s) s
            failCmd s c x dn Code.MCAST_MISMATCH

def execMcastFetchIssue (c : Cl) (x : Ctx) (d : Fin 64) (s : State) : Host.Outcome State Fault Refusal :=
  .next (mcastIssue c x d s)

/-! ## Returns and resumption (R245, R267, R269) -/

/-- A request's data are back: they join its transfer, which delivers what it can; an error holds or fails it. -/
def returned (s : State) (c : Cl) (x : Ctx) (dn : Fin 64) (i : Nat) (r : XReq) (data : List Byte) (status : Nat) : State :=
  if status = Code.OWN_FAULT then holdXfer s c x dn r.tile 2 r.ext
  else if status = Code.HBM_POISON then failCmd s c x dn Code.HBM_UE
  else if status != 0 then failCmd s c x dn status
  else
    let n := (((s.cmd c x dn).bind (·.xfer)).map (fun t => t.tiles.length)).getD 0
    deliver c x dn (n + 1) (s.updXfer c x dn (fun t => t.setReq i (fun q => { q with st := 2, data := data })))

/-- REQUEST_RETURN (R245): device-local data is read now; data of another device is what it returned. -/
def requestReturn (c : Cl) (x : Ctx) (dn : Fin 64) (i : Nat) (remote : List Byte) (status : Nat) (s : State) : State :=
  match (s.cmd c x dn).bind (·.xfer) with
  | none => s
  | some t =>
    match t.reqs[i]? with
    | none => s
    | some r =>
      if r.st != 1 then s
      else if s.isLocal r.phys then
        let a := localOff r.phys
        match s.access (s.party x) a r.len with
        | .hold => s
        | .fail st => returned s c x dn i r [] st
        | .ok => if s.poisoned a r.len then returned s c x dn i r [] Code.HBM_UE else returned s c x dn i r (s.rd a r.len) 0
      else
        let s := { s with fab := { s.fab with reqs := s.fab.reqs.filter (fun q =>
          q.who != Requester.transfer c.val x dn.val i) } }
        returned s c x dn i r (slice remote 0 r.len) status

def execRequestReturn (c : Cl) (x : Ctx) (d : Fin 64) (req : Nat) (remote : List Byte) (status : Nat) (s : State) :
    Host.Outcome State Fault Refusal := .next (finishInvals (requestReturn c x d req remote status s))

/-- The fault a command of a cluster holds has been resolved: its walker holds it no more, or the address is owned
again (R269). -/
def State.resolved (s : State) (c : Cl) (x : Ctx) (dn : Fin 64) (h : Nat × Nat) : Bool :=
  if h.1 = 1 then !s.mem.kvHeld.any (fun k => k.cluster = c.val && k.ctx = x && k.desc = dn.val && k.va = h.2)
  else !s.isLocal h.2 || s.access (s.party x) (localOff h.2) 1 = .ok

/-- TRANSFER_RESUME (R269): a held transfer whose fault has been resolved goes on from its resume point. -/
def transferResume (c : Cl) (x : Ctx) (dn : Fin 64) (s : State) : State :=
  match (s.cmd c x dn).bind (·.xfer) with
  | none => s
  | some t =>
    match t.held with
    | none => s
    | some h =>
      if !s.resolved c x dn h then s
      else
        let s := s.updXfer c x dn (fun t => { t with held := none })
        if (s.desc c x dn).xfer.dir = 1 then pinOutbound c x dn (t.reqs.length + 1) s else s

def execTransferResume (c : Cl) (x : Ctx) (d : Fin 64) (s : State) : Host.Outcome State Fault Refusal :=
  .next (transferResume c x d s)

end Sys2Proof.Machine
end

