-- ==== Sys2Proof/Machine/Attention.lean ====
section
/-! DEFINITION. The attention command: its steps, the forward and backward block steps, and their checks (R213 to R228,
R455, R456). -/

namespace Sys2Proof.Machine

/-! ## Steps -/

/-- The first query row of a step and how many of its 16 rows are valid. -/
def Desc.attRows (d : Desc) (ext idx : List Nat) : Nat × Nat := (d.dimStart idx 0, d.covers ext idx ((d.innermost 0).getD 0))

/-- The first key index of a step and how many of its keys lie below the effective bound. -/
def Desc.attKeys (d : Desc) (ext idx : List Nat) : Nat × Nat := (d.startOf idx d.kLevel, d.covers ext idx d.kLevel)

/-- A key is visible to a query row (R217). -/
def AttRec.visible (a : AttRec) (row key : Nat) : Bool :=
  let q := a.qPos + row / 2 ^ a.gqaLog
  let k := a.kPos + key
  if a.mask = 1 then k ≤ q else if a.mask = 2 then k ≤ q && q < k + a.window else true

/-- Some key of a step is visible to some of its rows. -/
def Desc.attVisible (d : Desc) (ext idx : List Nat) : Bool :=
  let a := d.att
  let (r, nr) := d.attRows ext idx
  let (k, nk) := d.attKeys ext idx
  (List.range nr).any (fun i => (List.range nk).any (fun j => a.visible (r + i) (k + j)))

/-- The steps a command takes, in loop order, each with whether it is the first and the last of its row-block (R220,
R223). -/
def Desc.attSteps (d : Desc) (ext : List Nat) : List (List Nat × Bool × Bool) :=
  let ws := (d.walk ext).filter (d.attVisible ext)
  let block (idx : List Nat) : List Nat := idx.set d.kLevel 0
  ws.zipIdx.map (fun (idx, i) =>
    (idx, !(ws.take i).any (fun o => block o = block idx), !(ws.drop (i + 1)).any (fun o => block o = block idx)))

/-! ## Operands -/

/-- The queries of a step as the array reads them: 16 rows of HeadDim. -/
def State.attQ (s : State) (c : Cl) (x : Ctx) (d : Desc) (idx : List Nat) (rows : Nat) (f : Fmt) : Half :=
  readHalf s c x { isB := false, half := 0, tr := false, fmt := d.a.fmt, kBlocks := d.att.headDim / 32, kTail := 0, lines := rows,
                   elem := addr22 d.a.elem d idx (·.eA), scale := if f.scaled then addr22 d.a.scale d idx (·.sA) else 0,
                   rowStride := d.a.rowStride, scaleStride := d.a.scaleStride, engMask := 1 } f

/-- Bytes of a KV tile (R201). -/
def tileBytes (f : Fmt) (hd : Nat) : Nat := if f.width = 8 then 132 * hd else 68 * hd

/-- KV virtual address of the tile of a key index (R202). -/
def AttRec.tileVa (a : AttRec) (f : Fmt) (key : Nat) : Nat := a.kvBase + (key / 64 * a.headsKv + a.kvHead) * tileBytes f a.headDim

/-- Key element of a tile: dimension, token (R201). -/
def keyVal (f : Fmt) (hd : Nat) (bs : List Byte) (dim tok : Nat) : FVal :=
  let w := f.width
  f.scaledVal (packedAt (slice bs (dim * 64 * w / 8) (64 * w / 8)) w tok)
    (bs.getD (64 * hd * w / 8 + dim / 32 * 64 + tok) 0).toNat

/-- Value element of a tile: token, dimension (R201). -/
def valueVal (f : Fmt) (hd : Nat) (bs : List Byte) (tok dim : Nat) : FVal :=
  let w := f.width
  let base := 64 * hd * w / 8 + 2 * hd
  f.scaledVal (packedAt (slice bs (base + tok * hd * w / 8) (hd * w / 8)) w dim)
    (bs.getD (base + 64 * hd * w / 8 + tok / 32 * hd + dim) 0).toNat

/-- One cell of an array product from zero or from a held value, in FP32 (R43 to R47). -/
def dotF (g : Nat) (acc : Option Nat) (a b : List FVal) : Nat :=
  (macCell g acc.isNone (acc.getD 0) a b).1

/-- Row state of a row (R218): HeadDim words, S, c, flags, and the last word. -/
structure RowSt where
  o : List Nat
  sum : Nat
  off : Nat
  flags : Nat
  dd : Nat
  deriving DecidableEq, Repr

/-- The row state bytes hold. -/
def RowSt.of (hd : Nat) (bs : List Byte) : RowSt :=
  { o := (List.range hd).map (fun i => u32At bs (4 * i)), sum := u32At bs (4 * hd), off := u32At bs (4 * hd + 4),
    flags := u32At bs (4 * hd + 8), dd := u32At bs (4 * hd + 12) }

/-- Its bytes. -/
def RowSt.bytes (r : RowSt) : List Byte :=
  r.o.flatMap (toBytes 4) ++ toBytes 4 r.sum ++ toBytes 4 r.off ++ toBytes 4 r.flags ++ toBytes 4 r.dd

/-- Address of the row state of row `i` of a step (R218). -/
def Desc.rowStAddr (d : Desc) (idx : List Nat) (i : Nat) : Nat := addr22 d.b.elem d idx (·.eB) + i * d.b.rowStride

/-- What a step computes: the writes it makes, by cluster-store offset, and its counts. -/
structure AttOut where
  writes : List (Nat × List Byte) := []
  /-- Writes to gradient tiles: key/value virtual address and bytes. -/
  grads : List (Nat × List Byte) := []
  range : Nat := 0
  reruns : Nat := 0
  unresolved : Nat := 0
  flushes : Nat := 0
  empty : Nat := 0
  nans : Nat := 0
  deriving DecidableEq, Repr

/-! ## Forward -/

/-- A row of a forward step after steps 3 to 9 of R220: its new sums, and the range events met. -/
structure FwdRow where
  st : RowSt
  events : Nat
  flushes : Nat
  deriving DecidableEq, Repr

/-- Steps 3 to 5 for one logit: the exponential, whether it is a range event, and whether it was flushed. -/
def attExp (off : Bool) (c z : Nat) : Nat × Bool × Bool :=
  let a := if off then f32Sub z c else z
  let v := FF.fp32.decode a
  let low : Bool := match v with
    | .num true m e => magGt m e 11355 0
    | _ => false
  if off && low then (0, false, true) else (sfuExp a, expOutOfRange v, false)

/-- E_r of R220: the unbiased exponent of the largest exponential of a row. -/
def maxExp (es : List Nat) : Int :=
  let vs := (es.map FF.wx32.decode).filter (fun v => v.isFinite && !v.isZero)
  match vs with
  | [] => 0
  | v :: rest => rest.foldl (fun m w => max m w.expo) v.expo

/-- The probabilities fed to the array (R220, step 6). -/
def probs (pf : Fmt) (e : Int) (es : List Nat) : List FVal :=
  let ps := es.map (fun v => FF.fp32.rne ((FF.wx32.decode v).shift (-e)))
  if pf.isMx then
    (piecesOf 32 (ps.length + 1) ps).flatMap (fun b =>
      let r := blockConvert pf (fun _ => .rne) (b.map FF.fp32.decode)
      r.2.map (fun code => pf.scaledVal code r.1))
  else ps.map (fun p => pf.elemVal (convF32 pf .rne false p).1)

/-- Steps 3 to 9 of R220 for one row: `zs` are its KB logits, `vals dim` the values of the `nk` valid tokens. -/
def fwdPass (pf : Fmt) (g nk : Nat) (st : RowSt) (zs : List Nat) (vals : Nat → List FVal) : FwdRow :=
  let off := bit st.flags 0
  let xs := zs.map (attExp off st.off)
  let es := xs.map (·.1)
  let e := maxExp es
  let ps := (probs pf e es).take nk
  let blk := treeReduce (fun (a b : Nat × Nat) => let r := wxAdd a.1 b.1; (r.1, a.2 + b.2 + b2n r.2)) (0, 0) (es.map (fun v => (v, 0)))
  let sum := wxAdd st.sum blk.1
  let outs := st.o.zipIdx.map (fun p =>
    let b := f32ToWx false (dotF g none ps (vals p.2))
    let v := FVal.shift e (FF.wx32.decode b)
    let m := FF.wx32.round .rne false v
    let a := wxAdd p.1 m.1
    (a.1, b2n (m.2 && v.isFinite) + b2n a.2))
  { st := { st with o := outs.map (·.1), sum := sum.1 },
    events := (xs.filter (·.2.1)).length + blk.2 + b2n sum.2 + (outs.map (·.2)).sum,
    flushes := (xs.filter (·.2.2)).length }

/-- A row of a forward step with the offset rule (R221): its new state, range events, re-runs, unresolved events and
flushed arguments. -/
def fwdRow (pf : Fmt) (g nk : Nat) (st : RowSt) (zs : List Nat) (vals : Nat → List FVal) : RowSt × Nat × Nat × Nat × Nat :=
  if bit st.flags 1 then (st, 0, 0, 0, 0)
  else
    let p := fwdPass pf g nk st zs vals
    let bad (s : RowSt) : RowSt := { s with flags := s.flags ||| 2 }
    if p.events = 0 then (p.st, 0, 0, 0, p.flushes)
    else if bit st.flags 0 then (bad st, p.events, 0, 1, p.flushes)
    else
      match zs.find? (fun z => (FF.fp32.decode z).isFinite) with
      | none => (bad st, p.events, 0, 1, p.flushes)
      | some c =>
        let h := f32Mul c 0xBF000000
        if expOutOfRange (FF.fp32.decode h) then (bad st, p.events, 0, 1, p.flushes)
        else
          let t := wxMul (sfuExp h) (sfuExp h)
          let os := st.o.map (fun v => wxMul v t.1)
          let sm := wxMul st.sum t.1
          let ov := b2n t.2 + b2n sm.2 + (os.map (fun p => b2n p.2)).sum
          let st' := { st with o := os.map (·.1), sum := sm.1, off := c, flags := st.flags ||| 1 }
          let q := fwdPass pf g nk st' zs vals
          if ov + q.events = 0 then (q.st, p.events, 1, 0, p.flushes + q.flushes)
          else (bad st', p.events + ov + q.events, 1, 1, p.flushes + q.flushes)

/-- The logits of a row of a step: scores times α, invisible positions −infinity (R217, R220). -/
def attLogits (a : AttRec) (f : Fmt) (g : Nat) (row k0 nk kb : Nat) (q : List FVal) (tiles : List (List Byte)) : List Nat :=
  (List.range kb).map (fun j =>
    if j < nk && a.visible row (k0 + j) then
      f32Mul (dotF g none q ((List.range a.headDim).map (fun dim => keyVal f a.headDim (tiles.getD (j / 64) []) dim (j % 64)))) a.alpha
    else 0xFF800000)

/-- The outputs of a row-block (R223): element and scale bytes of each row. -/
def attFinal (s : State) (c : Cl) (x : Ctx) (d : Desc) (of : Fmt) (idx : List Nat) (m0 : Nat) (rows : List RowSt) : AttOut :=
  let a := d.att
  let tileRow := d.rowBase + d.outerIndex idx * d.rowTiles + m0 / 16
  rows.zipIdx.foldl (fun (o : AttOut) (p : RowSt × Nat) =>
    let ys := p.1.o.map (fun v => wxQuot v p.1.sum)
    let vals := if bit p.1.flags 1 then p.1.o.map (fun _ => FF.fp32.nanCode) else ys.map (·.1)
    let md (k : Nat) : Rnd := rndOf d.rnd (srRnd (s.srW0 x) (s.srKey c x d.stream) (srW2Ve ((tileRow * 16 + p.2) * a.headDim + k)))
    let at_ := addr22 d.out.elem d idx (·.eOut) + p.2 * d.out.rowStride
    let (bs, sc, _) := storeRow of d.sat md vals (s.csRdW c x at_ (rowBytes of.width a.headDim))
    { o with
      writes := o.writes ++ [(at_, bs)] ++ (if sc.isEmpty then [] else
        [(addr22 d.out.scale d idx (·.sOut) + p.2 * d.out.scaleStride, sc.map (BitVec.ofNat 8))]),
      empty := o.empty + (if bit p.1.flags 1 then 0 else (ys.filter (·.2)).length),
      nans := o.nans + (vals.filter (fun v => (FF.fp32.decode v).isNan)).length }) {}

/-- One forward block step (R220 to R223). -/
def fwdStep (s : State) (c : Cl) (x : Ctx) (d : Desc) (ext idx : List Nat) (first last : Bool) (qf kf pf of : Fmt)
    (tiles : List (List Byte)) : AttOut :=
  let a := d.att
  let (m0, nr) := d.attRows ext idx
  let (k0, nk) := d.attKeys ext idx
  let kb := ((d.lvls[d.kLevel]?).map (·.step)).getD 64
  let q := s.attQ c x d idx nr qf
  let vals (dim : Nat) : List FVal := (List.range nk).map (fun j => valueVal kf a.headDim (tiles.getD (j / 64) []) (j % 64) dim)
  let rows := (List.range nr).map (fun i =>
    let ad := d.rowStAddr idx i
    let st0 := RowSt.of a.headDim (s.csRdW c x ad (4 * a.headDim + 16))
    let st := if first && a.init then { st0 with o := st0.o.map (fun _ => 0), sum := 0, off := 0, flags := 0 } else st0
    let zs := attLogits a kf (pairG qf kf) (m0 + i) k0 nk kb (q.aRow qf a.headDim i) tiles
    (ad, fwdRow pf (pairG pf kf) nk st zs vals))
  let base : AttOut :=
    { writes := rows.map (fun p => (p.1, p.2.1.bytes)), range := (rows.map (fun p => p.2.2.1)).sum,
      reruns := (rows.map (fun p => p.2.2.2.1)).sum, unresolved := (rows.map (fun p => p.2.2.2.2.1)).sum,
      flushes := (rows.map (fun p => p.2.2.2.2.2)).sum }
  if last && a.final then
    let f := attFinal s c x d of idx m0 (rows.map (fun p => p.2.1))
    { base with writes := base.writes ++ f.writes, empty := f.empty, nans := f.nans }
  else base

/-! ## Backward -/

/-- A value as the array reads it after rounding to BF16 by RNE. -/
def bf (sat : Bool) (code : Nat) : FVal := FF.bf16.decode (FF.bf16.round .rne sat (FF.fp32.decode code)).1

/-- A key or value expanded to BF16, by RNE with Sat = 1 (R226, step 3). -/
def bfVal (v : FVal) : FVal := FF.bf16.decode (FF.bf16.round .rne true v).1

/-- Probabilities and dS of a row of a backward step (R226, R228): FP32 codes, and whether the row is bad. -/
def bwdRow (a : AttRec) (st : RowSt) (zs dp : List Nat) (vis : Nat → Bool) : List Nat × List Nat × Bool × Nat × Nat :=
  let xs := zs.map (attExp (bit st.flags 0) st.off)
  let ev := (xs.filter (·.2.1)).length
  let bad := bit st.flags 1 || ev != 0
  let qs := xs.map (fun e => wxQuot e.1 st.sum)
  let nan := FF.fp32.nanCode
  let ps := qs.zipIdx.map (fun p => if bad then (if vis p.2 then nan else 0) else p.1.1)
  let ds := (ps.zip dp).zipIdx.map (fun p =>
    if bad then (if vis p.2 then nan else 0) else f32Mul (f32Mul a.alpha p.1.1) (f32Sub p.1.2 st.dd))
  (ps, ds, bad, ev, (xs.filter (·.2.2)).length)

/-- One backward block step (R226 to R228). -/
def bwdStep (s : State) (c : Cl) (x : Ctx) (d : Desc) (ext idx : List Nat) (first : Bool) (qf kf : Fmt)
    (tiles grads : List (List Byte)) : AttOut :=
  let a := d.att
  let hd := a.headDim
  let (m0, nr) := d.attRows ext idx
  let (k0, nk) := d.attKeys ext idx
  let kb := ((d.lvls[d.kLevel]?).map (·.step)).getD 64
  let q := s.attQ c x d idx nr qf
  let qRow (i : Nat) : List FVal := q.aRow qf hd i
  let kv (j dim : Nat) : FVal := bfVal (keyVal kf hd (tiles.getD (j / 64) []) dim (j % 64))
  let vv (j dim : Nat) : FVal := bfVal (valueVal kf hd (tiles.getD (j / 64) []) (j % 64) dim)
  let dims := List.range hd
  let gQ := min 2 (Fmt.g qf)
  let doRow (i : Nat) : List FVal :=
    let bs := s.csRdW c x (addr22 d.out.elem d idx (·.eOut) + i * d.out.rowStride) (2 * hd)
    dims.map (fun k => FF.bf16.decode (ofBytes (slice bs (2 * k) 2)))
  let rows := (List.range nr).map (fun i =>
    let ad := d.rowStAddr idx i
    let st0 := RowSt.of hd (s.csRdW c x ad (4 * hd + 16))
    let st := if first && a.init then { st0 with o := st0.o.map (fun _ => 0) } else st0
    let zs := attLogits a kf (pairG qf kf) (m0 + i) k0 nk kb (qRow i) tiles
    let dO := doRow i
    let dp := (List.range kb).map (fun j => if j < nk then dotF 2 none dO (dims.map (vv j)) else 0)
    let r := bwdRow a st zs dp (fun j => j < nk && a.visible (m0 + i) (k0 + j))
    let dsv := (r.2.1.take nk).map FF.fp32.decode
    let dq := st.o.zipIdx.map (fun p =>
      if r.2.2.1 then FF.fp32.nanCode else f32Add p.1 (dotF 1 none dsv ((List.range nk).map (fun j => kv j p.2))))
    (ad, { st with o := dq }, r, dO, qRow i))
  let col (f : Nat → Nat → FVal) (j : Nat) : List FVal := (List.range nr).map (fun i => f i j)
  let dsB (i j : Nat) : FVal := match rows[i]? with | some r => bf false (r.2.2.1.2.1.getD j 0) | none => fzero
  let pB (i j : Nat) : FVal := match rows[i]? with | some r => bf false (r.2.2.1.1.getD j 0) | none => fzero
  let qAt (i k : Nat) : FVal := match rows[i]? with | some r => r.2.2.2.2.getD k fzero | none => fzero
  let doAt (i k : Nat) : FVal := match rows[i]? with | some r => r.2.2.2.1.getD k fzero | none => fzero
  let gtiles := grads.zipIdx.map (fun (p : List Byte × Nat) =>
    let toks := List.range 64
    let dk := toks.flatMap (fun t => dims.flatMap (fun k =>
      let old := u32At p.1 (4 * (t * hd + k))
      let j := 64 * p.2 + t
      toBytes 4 (if j < nk then f32Add old (dotF gQ none (col dsB j) ((List.range nr).map (fun i => qAt i k))) else old)))
    let dv := toks.flatMap (fun t => dims.flatMap (fun k =>
      let old := u32At p.1 (4 * (64 * hd + t * hd + k))
      let j := 64 * p.2 + t
      toBytes 4 (if j < nk then f32Add old (dotF 2 none (col pB j) ((List.range nr).map (fun i => doAt i k))) else old)))
    (a.gradBase + ((k0 / 64 + p.2) * a.headsKv + a.kvHead) * 512 * hd, dk ++ dv))
  { writes := rows.map (fun r => (r.1, r.2.1.bytes)), grads := gtiles,
    range := (rows.map (fun r => r.2.2.1.2.2.2.1)).sum, flushes := (rows.map (fun r => r.2.2.1.2.2.2.2)).sum,
    unresolved := (rows.filter (fun r => r.2.2.1.2.2.1)).length }

/-! ## Execution -/

/-- An attention command changed. -/
def State.updAtt (s : State) (c : Cl) (x : Ctx) (d : Fin 64) (f : Att → Att) : State :=
  s.updCmd c x d (fun k => { k with att := k.att.map f })

/-- A step meets a fault that is held (R210, R317). -/
def holdAtt (s : State) (c : Cl) (x : Ctx) (dn : Fin 64) (cause addr : Nat) : State :=
  match (s.cmd c x dn).bind (·.att) with
  | none => s
  | some a =>
    if a.held = some (cause, addr) then s
    else
      let d := s.desc c x dn
      let s := s.updAtt c x dn (fun a => { a with held := some (cause, addr) })
      if cause = 1 then
        raise (holdKv s { ctx := x, seq := d.att.seq, va := addr, cluster := c.val, desc := dn.val })
          { code := Code.KV_PAGE_FAULT, ctx := some x, unit := seqUnit c, detail := kvDetail (s.beatNo c x) addr d.att.seq }
      else raiseCtx s Code.OWN_FAULT (some x) (seqUnit c) (s.beatNo c x) addr

/-- A read that failed ends or holds the command; the answer is none where the bytes are at hand. -/
def attRefuse (s : State) (c : Cl) (x : Ctx) (dn : Fin 64) : KvRead → Option State
  | .bytes _ => none
  | .prot => some (failCmd s c x dn Code.KV_PROT)
  | .fault va => some (holdAtt s c x dn 1 va)
  | .own a => some (holdAtt s c x dn 2 a)
  | .hold => some s
  | .fail st => some (failCmd s c x dn st)

/-- Bytes of a read. -/
def KvRead.got : KvRead → List Byte
  | .bytes bs => bs
  | _ => []

/-- The work area of a command (R219) in bytes. -/
def workBytes (d : Desc) (kf pf : Fmt) : Nat :=
  let a := d.att
  let kb := ((d.lvls[d.kLevel]?).map (·.step)).getD 64
  let set := 64 * kb + (16 * kb * pf.width / 8 + (if pf.isMx then kb / 2 else 0)) + 64 * a.headDim +
    (if a.mode then 2 * 2 * kb * a.headDim + 2 * 64 * kb else 0)
  d.slotCount * (kb / 64) * tileBytes kf a.headDim + 2 * set

/-- The counts of a step, and SOFTMAX_UNRESOLVED once per command (R221). -/
def attCount (s : State) (c : Cl) (x : Ctx) (dn : Fin 64) (o : AttOut) : State :=
  let b (s : State) (code n : Nat) : State := bumpC s code c (some x) n
  let s := b (b (b (b s Cnt.WX_RANGE o.range) Cnt.SOFTMAX_RERUN o.reruns) Cnt.SOFTMAX_UNRESOLVED o.unresolved) Cnt.ARG_FLUSH o.flushes
  let s := b (b s Cnt.EMPTY_ROW o.empty) Cnt.VE_NAN o.nans
  match s.cmd c x dn with
  | none => s
  | some k =>
    if o.unresolved = 0 || k.unresolved then s
    else raiseCtx (s.updCmd c x dn (fun k => { k with unresolved := true })) Code.SOFTMAX_UNRESOLVED (some x) (veUnit c) (s.beatNo c x) dn.val

/-- The bytes a step writes, for its digest (R456): cluster-store offsets, and gradient addresses above 2^62. -/
def AttOut.cells (o : AttOut) : List Host.Cell :=
  let put (off : Nat) (l : List Host.Cell) (p : Nat × List Byte) : List Host.Cell := Seen.putAll l (off + p.1) p.2
  o.grads.foldl (put (2 ^ 62)) (o.writes.foldl (put 0) [])

/-- Gradient bytes written through the walker (R226, R227): device-local, or held for another device (R450). -/
def putGrad (s : State) (c : Cl) (x : Ctx) (seq : Nat) (p : Nat × List Byte) : State :=
  match s.seqRec x seq with
  | none => s
  | some r =>
    ((pagePieces (2 ^ r.pgShift) (p.2.length + 1) p.1 p.2.length).foldl (fun (acc : State × Nat) q =>
      let (s, t) := translate acc.1 c x seq q.1 true
      let bs := slice p.2 acc.2 q.2
      match t with
      | .ok a =>
        if s.isLocal a then (s.wr (localOff a) bs, acc.2 + q.2)
        else (s.updSeq c x (fun k => { k with remoteWrites := k.remoteWrites ++
          (joinRuns 256 (bs.zipIdx.map (fun (b, i) => (a + i, b)))).map (fun w => ({ addr := w.1, data := w.2 } : RWrite)) }), acc.2 + q.2)
      | _ => (s, acc.2 + q.2)) (s, 0)).1

/-- A step's writes are made and the work area is used (R219, DESIGN CHOICE, log entry 24). -/
def attApply (s : State) (c : Cl) (x : Ctx) (dn : Fin 64) (d : Desc) (kf pf : Fmt) (o : AttOut) : State :=
  let n := workBytes d kf pf
  let s := s.csWrW c x dn.val d.aux.elem ((List.range n).map (fun i => Config.freeByte (s.free + i)))
  let s := { s with free := s.free + n }
  let s := o.writes.foldl (fun s p => s.csWrW c x dn.val p.1 p.2) s
  o.grads.foldl (fun s p => putGrad s c x d.att.seq p) s

/-- The gradient writes of a step may be made: every page is writable and owned. -/
def gradRefuse (s : State) (c : Cl) (x : Ctx) (dn : Fin 64) (seq : Nat) (gs : List (Nat × Nat)) : Option State :=
  match s.seqRec x seq with
  | none => some (failCmd s c x dn Code.KV_PROT)
  | some r =>
    (gs.flatMap (fun p => pagePieces (2 ^ r.pgShift) (p.2 + 1) p.1 p.2)).foldl (fun (acc : Option State) q =>
      match acc with
      | some _ => acc
      | none =>
        match (translate s c x seq q.1 true).2 with
        | .prot => some (failCmd s c x dn Code.KV_PROT)
        | .fault => some (holdAtt s c x dn 1 q.1)
        | .hold => some s
        | .fail st => some (failCmd s c x dn st)
        | .ok a =>
          if !s.isLocal a then none
          else
            match s.accessW (s.party x) (localOff a) q.2 with
            | .ok => none
            | .hold => some s
            | .fail st => some (if st = Code.OWN_FAULT then holdAtt s c x dn 2 a else failCmd s c x dn st)) none

/-- The unit a failing check of a step is charged to (R447): an engine, or the VE for the softmax step. -/
def attUnit (s : State) (c : Cl) (d : Desc) (struct : Nat) : UnitId :=
  if 6 ≤ struct && struct ≤ 8 then veUnit c
  else match s.enginesIn c d.engMask with
    | e :: _ => engineUnit c e
    | [] => veUnit c

/-- The result bits an upset flips, in the first byte a step writes. -/
def flipOut (o : AttOut) (flip : BitVec 32) : AttOut :=
  match o.writes with
  | (a, b :: bs) :: rest => { o with writes := (a, (b ^^^ flip.setWidth 8) :: bs) :: rest }
  | _ => o

/-- The cluster-store ranges a step reads. -/
def Desc.attReads (d : Desc) (ext idx : List Nat) : List (Nat × Nat) :=
  let a := d.att
  (List.range (d.attRows ext idx).2).flatMap (fun i =>
    [(addr22 d.a.elem d idx (·.eA) + i * d.a.rowStride, 4 * a.headDim), (d.rowStAddr idx i, 4 * a.headDim + 16)])

/-- Tiles read one after another through the walker: the state with its look-aside buffers, and what each read answers. -/
def readTiles (s : State) (c : Cl) (x : Ctx) (seq : Nat) (vas : List Nat) (len : Nat) (far : List Host.Cell) : State × List KvRead :=
  vas.foldl (fun (acc : State × List KvRead) va =>
    let r := kvRead acc.1 c x seq va len far
    (r.1, acc.2 ++ [r.2])) (s, [])

/-- KV virtual address of the gradient tile of a key block (R226). -/
def AttRec.gradVa (a : AttRec) (block : Nat) : Nat := a.gradBase + (block * a.headsKv + a.kvHead) * 512 * a.headDim

/-- The next step of an attention command (R220, R226): its keys, values and gradients are read through the walker;
a failed check leaves the row state unchanged and the step suspect (R455); otherwise the step's writes are made. -/
def attStep (mode : Bool) (c : Cl) (x : Ctx) (dn : Fin 64) (far : List Host.Cell) (u : Upset) (s : State) : State :=
  match s.cmd c x dn with
  | none => s
  | some cm =>
    match cm.att with
    | none => s
    | some at_ =>
      match at_.steps with
      | [] => s
      | (idx, first, last) :: rest =>
        let d := s.desc c x dn
        let a := d.att
        let item := s.itemOf .attStep c x dn at_.total
        let waits : Bool := match item with
          | some w => w.st != ItemSt.replaying
          | none => false
        let held : Bool := match at_.held with
          | some h => !s.resolved c x dn h
          | none => false
        if !s.clusterUp c || a.mode != mode || waits || held then s
        else
          match Fmt.ofCode d.a.fmt, Fmt.ofCode a.kvFmt, Fmt.ofCode a.pFmt, Fmt.ofCode d.out.fmt with
          | some qf, some kf, some pf, some of =>
            if (s.enginesIn c d.engMask).isEmpty then failCmd s c x dn Code.NO_ENGINE
            else
              let s := s.updAtt c x dn (fun t => { t with held := none })
              let (k0, nk) := d.attKeys cm.extents idx
              let n := cdiv nk 64
              let tb := tileBytes kf a.headDim
              let reads := readTiles s c x a.seq ((List.range n).map (fun i => a.tileVa kf (k0 + 64 * i))) tb far
              let gvas := (List.range n).map (fun i => a.gradVa (k0 / 64 + i))
              let greads := if mode then readTiles reads.1 c x a.seq gvas (512 * a.headDim) far else (reads.1, [])
              let s := greads.1
              match (reads.2 ++ greads.2).findSome? (attRefuse s c x dn) with
              | some s' => s'
              | none =>
                match (if mode then gradRefuse s c x dn a.seq (gvas.map (fun v => (v, 512 * a.headDim))) else none) with
                | some s' => s'
                | none =>
                  let tiles := reads.2.map KvRead.got
                  let o := if mode then bwdStep s c x d cm.extents idx first qf kf tiles (greads.2.map KvRead.got)
                    else fwdStep s c x d cm.extents idx first last qf kf pf of tiles
                  let cap (s : State) : State := capture s (item.map (·.id)) 256
                    (d.attReads cm.extents idx ++ (List.range n).map (fun i => (2 ^ 62 + a.tileVa kf (k0 + 64 * i), tb)))
                  let finish (s : State) : State :=
                    let s := attCount (attApply s c x dn d kf pf o) c x dn o
                    let s := s.updAtt c x dn (fun t => { t with steps := rest, total := t.total + 1 })
                    match item with
                    | some w => (cap s).updItem w.id (fun w => { w with
                        st := .replayed, digestReplay := Seen.digest o.cells, replayUnit := some (attUnit s c d 6) })
                    | none => s
                  match u with
                  | .check st rows flip =>
                    match item with
                    | some w =>
                      finish (charge (s.updItem w.id (fun w => { w with replayPassed := false })) (attUnit s c d st)
                        { severity := 0, eventCode := 0x0105, unitClass := 1 })
                    | none =>
                      let s := checkFail s .attStep c x dn at_.total (attUnit s c d st) 0 st rows
                      let cs := (flipOut o flip).cells
                      match s.itemOf .attStep c x dn at_.total with
                      | some w => s.updItem w.id (fun w => { w with out := cs, digestOrig := Seen.digest cs })
                      | none => s
                  | .none => finish s
                  | u => csUpset (finish s) c x (s.win c x (addr22 d.a.elem d idx (·.eA))) u
          | _, _, _, _ => failCmd s c x dn Code.ILLEGAL_TILE

def execAttentionBlockStep (c : Cl) (x : Ctx) (d : Fin 64) (far : List Host.Cell) (u : Upset) (s : State) :
    Host.Outcome State Fault Refusal := .next (attStep false c x d far u s)

def execAttentionBackwardStep (c : Cl) (x : Ctx) (d : Fin 64) (far : List Host.Cell) (u : Upset) (s : State) :
    Host.Outcome State Fault Refusal := .next (attStep true c x d far u s)

end Sys2Proof.Machine
end

