-- ==== Sys2Proof/Machine/Groups.lean ====
section
/-! DEFINITION. Positions of devices on the torus, and the modes of a group's axes (R345, R388, R394, R416). -/

namespace Sys2Proof.Machine

/-- This device's logical coordinate on an axis, 6 for H (R437). -/
def State.pos (s : State) (axis : Nat) : Nat := bits s.ident.logCoord (6 * axis + 5) (6 * axis)

/-- A device's coordinate on an axis, from the route bank in force (R375, DEDUCED, log entry 20). -/
def State.coordOf (s : State) (dev axis : Nat) : Nat :=
  if dev = s.ident.devNum then s.pos axis
  else if axis = 6 then
    if podOf dev = podOf s.ident.devNum then s.pos 6
    else (s.fab.bank? s.fab.activeEpoch).elim 0 (fun b => entryCoord ((b.hall[podOf dev]?).getD 0) true 6)
  else if podOf dev = podOf s.ident.devNum then ((s.podEntry dev).map (fun e => entryCoord e false axis)).getD 0
  else s.pos axis

/-- Axis of a port: H for an Uplink (R344, R345). -/
def State.portAxis (s : State) (p : Nat) : Nat :=
  if (s.fab.ports.toList.getD p {}).role = .uplink then 6 else p / 2

/-- A device lies on this device's ring of an axis. -/
def State.onRing (s : State) (dev axis : Nat) : Bool :=
  (List.range 7).all (fun b => b = axis || s.coordOf dev b = s.pos b)

/-- Ring length of an axis in a context's mapping (R388). -/
def Job.lenOf (j : Job) (axis : Nat) : Nat := if axis = 6 then j.map.lenH else j.map.lens.getD axis 1

/-- The mode of one axis of a group: none for ring mode, else the position at which the line starts (R394). -/
def State.axisMode (s : State) (j : Job) (g : CGroup) (axis : Nat) : Option Nat :=
  let len := j.lenOf axis
  if g.counts.getD axis 0 != len then some 0
  else
    match s.coll.down.find? (fun l => s.portAxis l.2 = axis && s.onRing l.1 axis) with
    | none => none
    | some (dev, p) =>
      let c := s.coordOf dev axis
      some (if p % 2 = 0 then (c + 1) % max 1 len else c)

/-- The modes of every axis of a group; axes outside its mask are ring mode. -/
def State.groupModes (s : State) (j : Job) (g : CGroup) : List (Option Nat) :=
  (List.range 7).map (fun a => if bit g.axes a then s.axisMode j g a else none)

/-- The reports received are applied to the set of failed links. -/
def applyReports (down : List (Nat × Nat)) (rs : List (Nat × Nat × Bool)) : List (Nat × Nat) :=
  rs.foldl (fun l r => if r.2.2 then (if l.contains (r.1, r.2.1) then l else (r.1, r.2.1) :: l)
    else l.filter (· != (r.1, r.2.1))) down

/-- A group under the modes its links now give it: its TreeGen rises when a mode changed (R416). -/
def State.rebuilt (s : State) (j : Job) (g : CGroup) : CGroup :=
  if s.groupModes j g = g.modes then g else { g with modes := s.groupModes j g, treeGen := g.treeGen + 1 }

/-- The tree rebuild at a StepStart boundary (R416). -/
def rebuildTrees (s : State) (x : Ctx) : State :=
  let s := { s with coll := { s.coll with down := applyReports s.coll.down s.coll.reports, reports := [] } }
  let j := s.jobs.get x
  let gs := s.coll.groups.get x
  let same := gs.all (fun g => s.groupModes j g == g.modes)
  let s := { s with coll := { s.coll with groups := s.coll.groups.set x (gs.map (s.rebuilt j)) } }
  if same then s else s.updJob x (fun j => { j with treeGen := j.treeGen + 1 })

/-- Links of this device that a step's end reports: FAILED ones, and restored ones that were failed before, on an axis
of a group of the context. -/
def State.linkReports (s : State) (x : Ctx) : List (Nat × Nat × Bool) :=
  let axes := (s.coll.groups.get x).map (·.axes)
  (List.range 12).filterMap (fun p =>
    let q := s.fab.ports.toList.getD p {}
    if !(q.role = .torus || q.role = .uplink) || !axes.any (fun m => bit m (s.portAxis p)) then none
    else if q.link = .failed then some (s.ident.devNum, p, true)
    else if q.link = .up && s.coll.down.contains (s.ident.devNum, p) then some (s.ident.devNum, p, false)
    else none)

/-- The reports go to the job's other Mules, and are kept here too. -/
def sendReports (s : State) (x : Ctx) : State :=
  let rs := s.linkReports x
  let s := { s with coll := { s.coll with reports := s.coll.reports ++ rs } }
  ((s.jobs.get x).members.filter (fun m => m.1 != s.ident.devNum)).foldl (fun s m =>
    rs.foldl (fun s r => send s (muleMsg m.1 3 [r.1, r.2.1, b2n r.2.2])) s) s

end Sys2Proof.Machine
end

