-- ==== Sys2Proof/Machine/Codec.lean ====
section
/-! DEFINITION. The exact codec's encoding of one 4 KiB slot (R332 to R335). -/

namespace Sys2Proof.Machine

/-- The planes of a slot, one after another (R333). -/
def planesOf (w : Nat) (bs : List Byte) : List Byte :=
  (List.range w).flatMap (fun b => (List.range (bs.length / w)).map (fun i => bs.getD (w * i + b) 0))

/-- The bytes whose planes are given. -/
def unplane (w : Nat) (ps : List Byte) : List Byte :=
  let n := ps.length / w
  (List.range ps.length).map (fun i => ps.getD ((i % w) * n + i / w) 0)

/-- The mode of a group of 32 bytes and its payload (R333, R334). -/
def groupMode (g : List Byte) : Nat × List Byte :=
  let base := (g.map (·.toNat)).foldl min 255
  let top := (g.map (·.toNat)).foldl max 0
  let nz := g.filter (· != 0)
  let sparse := 4 + nz.length
  if nz.isEmpty then (0, [])
  else if top ≤ base + 15 && 17 ≤ min sparse 32 then
    (1, BitVec.ofNat 8 base :: (List.range 16).map (fun k =>
      BitVec.ofNat 8 ((g.getD (2 * k) 0).toNat - base + 16 * ((g.getD (2 * k + 1) 0).toNat - base))))
  else if sparse ≤ 32 then
    (2, toBytes 4 (g.zipIdx.foldl (fun m p => if p.1 = 0 then m else m + 2 ^ p.2) 0) ++ nz)
  else (3, g)

/-- Bytes up to the next multiple of 16. -/
def pad16 (l : List Byte) : List Byte := l ++ List.replicate ((16 - l.length % 16) % 16) 0

/-- List cut into pieces. -/
def cut {α : Type} (n : Nat) : Nat → List α → List (List α)
  | 0, _ => []
  | k + 1, l => l.take n :: cut n k (l.drop n)

/-- A slot's tag and stored bytes (R332 to R334). -/
def encodeSlot (w : Nat) (bs : List Byte) : Nat × List Byte :=
  if bs.all (· = 0) then (512, [])
  else
    let gs := (cut 32 128 (planesOf w bs)).map groupMode
    let map_ := (List.range 32).map (fun j => BitVec.ofNat 8 (((List.range 4).map (fun i => ((gs.getD (4 * j + i) (0, [])).1) * 4 ^ i)).sum))
    let e := pad16 (map_ ++ gs.flatMap (·.2) ++ toBytes 4 (crc32 bs))
    if 4096 ≤ e.length then (256, bs) else (e.length / 16, e)

/-- A group read back, with the bytes left. -/
def decodeGroup (mode : Nat) (l : List Byte) : List Byte × List Byte :=
  if mode = 0 then (List.replicate 32 0, l)
  else if mode = 1 then
    let base := (l.getD 0 0).toNat
    ((List.range 32).map (fun k =>
      let v := (l.getD (1 + k / 2) 0).toNat
      BitVec.ofNat 8 (base + (if k % 2 = 0 then v % 16 else v / 16))), l.drop 17)
  else if mode = 2 then
    let m := u32At l 0
    let r := (List.range 32).foldl (fun (acc : List Byte × List Byte) e =>
      if bit m e then (acc.1 ++ [acc.2.getD 0 0], acc.2.drop 1) else (acc.1 ++ [0], acc.2)) ([], l.drop 4)
    (r.1, r.2)
  else (slice l 0 32, l.drop 32)

/-- A stored slot decoded; none where the mode map or the checksum disagrees (R335). -/
def decodeSlot (w tag : Nat) (bs : List Byte) : Option (List Byte) :=
  let n := bits tag 8 0
  if bit tag 9 then some (List.replicate 4096 0)
  else if n = 256 then some (slice bs 0 4096)
  else
    let modes := (List.range 128).map (fun j => ((bs.getD (j / 4) 0).toNat / 4 ^ (j % 4)) % 4)
    let r := modes.foldl (fun (acc : List Byte × List Byte) m =>
      let g := decodeGroup m acc.2
      (acc.1 ++ g.1, g.2)) ([], (bs.take (16 * n)).drop 32)
    let out := unplane w r.1
    let used := 16 * n - r.2.length + 4
    if r.2.length < 4 || (used + 15) / 16 != n || crc32 out != u32At r.2 0 then none else some out

/-- Element width of ElemW (R310). -/
def elemWidth (code : Nat) : Nat := if code = 0 then 1 else if code = 1 then 2 else 4

end Sys2Proof.Machine
end

