-- ==== Sys2Proof/Machine/VecMem.lean ====
section
/-! DEFINITION. The memory instructions of the vector engine (R177 to R183, R199, R371 to R373, R450 to R452). -/

namespace Sys2Proof.Machine

/-! ## Bytes an instruction names -/

/-- Addresses are 64 bits. -/
def wrap64 (a : Nat) : Nat := a % 2 ^ 64

/-- Byte offsets that an element of `w` bits at index `i` of a packed row touches (R33, R39). -/
def elemBytes (w i : Nat) : List Nat :=
  (List.range ((i * w + w - 1) / 8 + 1 - i * w / 8)).map (fun k => i * w / 8 + k)

/-- The blocks of 32 lanes with an active lane. -/
def activeBlocks (m : BitVec 128) : List Nat := (List.range 4).filter (fun b => (lanesOf m).any (fun l => l.val / 32 = b))

/-- Distinct values of `f` over addresses. -/
def keysOf (f : Nat → Nat) (as : List Nat) : List Nat := (as.map f).eraseDups

/-! ## Faults of a memory instruction (R179 to R183) -/

/-- The words a fault check needs: whether the instruction stores, and whether it gathers or scatters. -/
structure MemForm where
  store : Bool
  gather : Bool
  deriving DecidableEq, Repr

/-- The instruction breaks ILLEGAL_VE of R183. -/
def memIllegal (mf : MemForm) (w : VeW) : Bool :=
  match Fmt.ofCode w.fmt with
  | none => true
  | some f =>
    let mx := f.isMx && !w.raw
    !f.okTst || (w.raw && w.fmt != 0) || (mf.gather && !(f = .fp32 || f = .bf16 || f = .fp16)) ||
      (mf.store && 2 ≤ w.rnd) || (if mf.store && !mf.gather && mx then bit w.vc 4 else w.vc != 0)

/-- The addresses named by Sa, and by Sb for a block-scaled format, are multiples of 8, and every offset of an active
lane is a multiple of the element size (R179). -/
def memMisaligned (mf : MemForm) (w : VeW) (th : Thread) (f : Fmt) : Bool :=
  (th.sreg w.sa).toNat % 8 != 0 || (f.isMx && (th.sreg w.sb).toNat % 8 != 0) ||
    (mf.gather && (lanesOf (th.mreg w.msk)).any (fun l => ((th.vreg w.vb).get l).toNat % (f.width / 8) != 0))

/-- Element width in bytes of a gather; its format is 32 or 16 bits. -/
def gatherBytes (f : Fmt) : Nat := f.width / 8

/-- Address of a lane's element of a gather or scatter. -/
def laneAddr (w : VeW) (th : Thread) (l : Fin 128) : Nat := wrap64 ((th.sreg w.sa).toNat + ((th.vreg w.vb).get l).toNat)

/-- Every byte the active lanes of an instruction touch, elements and then scales. -/
def memBytes (mf : MemForm) (w : VeW) (th : Thread) (f : Fmt) : List Nat :=
  let act := lanesOf (th.mreg w.msk)
  if mf.gather then act.flatMap (fun l => (List.range (gatherBytes f)).map (fun k => wrap64 (laneAddr w th l + k)))
  else
    ((act.flatMap (fun l => elemBytes f.width l.val)).eraseDups.map (fun k => wrap64 ((th.sreg w.sa).toNat + k))) ++
      (if f.isMx then (activeBlocks (th.mreg w.msk)).map (fun b => wrap64 ((th.sreg w.sb).toNat + b)) else [])

/-- A byte of a context's region of the cluster store (R131, R179). -/
def State.inRegion (s : State) (c : Cl) (x : Ctx) (a : Nat) : Bool :=
  match s.stage c x with
  | none => false
  | some g => g.storeBase ≤ a && a < g.storeBase + g.storeSize

/-- The common frame of the four: the faults of R183, and then `act` on the bytes the instruction touches. -/
def memRow (mf : MemForm) (act : State → VeW → Thread → Launch → Fmt → List Nat → State) (c : Cl) (t : Th)
    (s : State) (w : VeW) (th : Thread) (l : Launch) : State :=
  if memIllegal mf w then veFault s c t .illegalVe
  else
    match Fmt.ofCode w.fmt with
    | none => veFault s c t .illegalVe
    | some f =>
      if memMisaligned mf w th f then veFault s c t .align
      else
        let bs := memBytes mf w th f
        if !w.space && bs.any (fun a => !s.inRegion c l.ctx a) then veFault s c t .addrRange
        else act s w th l f bs

/-! ## Loads -/

/-- Bytes of a remote address as the cluster sees them: what was returned, with the context's held stores merged
(R451). -/
def State.remoteByte (s : State) (c : Cl) (x : Ctx) (th : Thread) (a : Nat) : Byte :=
  let base : Byte := ((th.remoteData.find? (·.1 = a)).map (·.2)).getD 0
  ((s.clusters.get c).seq.get x).remoteWrites.foldl (fun b (r : RWrite) =>
    if r.addr ≤ a && a < r.addr + r.data.length then r.data.getD (a - r.addr) b else b) base

/-- A byte a load finds. -/
def State.veByte (s : State) (c : Cl) (x : Ctx) (th : Thread) (space : Bool) (a : Nat) : Byte :=
  if !space then (s.csRdW c x a 1).getD 0 0
  else if s.isLocal a then (s.rd (localOff a) 1).getD 0 0
  else s.remoteByte c x th a

/-- The LOAD packets that fetch a list of remote 8-byte words, none crossing a 256-byte boundary (R360). -/
def loadPkts (x : Ctx) (words : List Nat) : List Pkt :=
  (joinRuns 256 (words.flatMap (fun w => (List.range 8).map (fun k => (8 * w + k, (0 : Byte)))))).map (fun (p : Nat × List Byte) =>
    { cls := 1, op := 0x01, dst := devOf p.1, src := 0, ctx := ctxNo x, addr := p.1, len := p.2.length : Pkt })

/-- What the device-local part of an access meets, over its lines. -/
def State.localAccess (s : State) (p : Party) (write : Bool) (as : List Nat) : Access :=
  (joinRuns 256 (as.map (fun a => (localOff a, (0 : Byte))))).foldl (fun (r : Access) q =>
    r.and (if write then s.accessW p q.1 q.2.length else s.access p q.1 q.2.length)) .ok

/-- What the remote part of an access meets at its source. -/
def State.remoteErr (s : State) (as : List Nat) : Nat :=
  match as.find? (fun a => s.sourceErr a false != 0) with
  | some a => s.sourceErr a false
  | none => if as.any (fun a => s.compAt a 1) then Code.COMP_ACCESS else 0

/-- A load's data are at hand: `fin` completes it. Otherwise its missing lines and words are requested, as far as the
cluster has places (R173, R174, R260, R262). -/
def loadData (c : Cl) (t : Th) (u : Upset) (s : State) (th : Thread) (l : Launch) (space : Bool) (as : List Nat)
    (fin : State → State) : State :=
  if !space then
    match u with
    | .ce => csUpset (fin s) c l.ctx (s.win c l.ctx (as.headD 0)) .ce
    | .ue => csUpset (fin s) c l.ctx (s.win c l.ctx (as.headD 0)) .ue
    | _ => fin s
  else
    let loc := as.filter s.isLocal
    let rem := as.filter (fun a => !s.isLocal a)
    let e := s.remoteErr rem
    if e != 0 then veStop s c t e []
    else
      match s.localAccess (s.party l.ctx) false loc with
      | .hold => s
      | .fail st => veStop s c t st []
      | .ok =>
        if loc.any (fun a => s.poisoned (localOff a) 1) then veStop s c t Code.HBM_UE []
        else
          let lines := keysOf (fun a => localOff a / 128) loc
          -- a parity error removes the first line from the cache (R259)
          let (s, lines0) : State × List Nat := match u, lines with
            | .none, _ => (s, [])
            | .check _ _ _, _ => (s, [])
            | _, ln :: _ =>
              if (s.clusters.get c).cache.any (·.line = ln) then
                (s.updCluster (c := c) (fun k => { k with cache := k.cache.filter (·.line != ln) }), [ln])
              else (s, [])
            | _, [] => (s, [])
          let s := bumpC s Cnt.CC_PARITY c none lines0.length
          let have_ (ln : Nat) : Bool := th.got.contains ln || (s.clusters.get c).cache.any (·.line = ln)
          let missing := lines.filter (fun ln => !have_ ln)
          let first : Bool := th.got.isEmpty && th.remoteData.isEmpty
          let words := (keysOf (· / 8) rem).filter (fun w => !th.remoteData.any (fun p => p.1 / 8 = w))
          let s := match loc with
            | a :: _ => if first then pfObserve s c l.ctx t th.pc (localOff a) (!missing.isEmpty) else s
            | [] => s
          if missing.isEmpty && words.isEmpty then
            let hits := lines.filter (fun ln => !th.got.contains ln)
            let s := hits.foldl (fun s ln => useLine s c ln) (bumpC s Cnt.CC_HIT c none hits.length)
            fin (s.updThread c t (fun k => { k with got := [], remoteData := [] }))
          else
            let join := missing.filter (fun ln => (s.clusters.get c).inFlight.any (·.line = ln))
            let new := (missing.filter (fun ln => !join.contains ln)).take (s.vePlaces c)
            let ask := join ++ new
            let s := ask.foldl (fun s ln => missLine s c t ln) s
            let pk := (loadPkts l.ctx words).take (s.vePlaces c)
            let s := bumpC s Cnt.CC_MISS c none pk.length
            let s := s.updThread c t (fun k => { k with waitLines := ask, waitRemote := pk.length })
            pk.foldl (fun s p => request s (.thread c.val t.val) p) s

/-- The value a lane takes from memory (R58, R180): FP32 bits unchanged, every other format converted exactly. -/
def toLane (f : Fmt) (raw : Bool) (code scale : Nat) : BitVec 32 :=
  if raw || f = .fp32 then BitVec.ofNat 32 code else BitVec.ofNat 32 (FF.fp32.rne (f.scaledVal code scale))

/-- The load completes: the active lanes of Vd take their values, the capture its reads, and checks are reported. -/
def loadFinish (c : Cl) (t : Th) (u : Upset) (w : VeW) (th : Thread) (as : List Nat) (f : Fin 128 → BitVec 32) (s : State) : State :=
  let s := s.updThread c t (fun k => (k.setV w.vd (th.mreg w.msk) (fun i => flipLane u i.val (f i))).advance)
  let s := capture s th.replay 8 (as.map (fun a => (a, 1)))
  match u with
  | .check st rows _ => veCheck s c t w st rows
  | _ => s

/-- VLD (R180). -/
def doVld (c : Cl) (t : Th) (u : Upset) (s : State) (w : VeW) (th : Thread) (l : Launch) (f : Fmt) (as : List Nat) : State :=
  let base := (th.sreg w.sa).toNat
  let scb := (th.sreg w.sb).toNat
  loadData c t u s th l w.space as (fun s' =>
    loadFinish c t u w th as (fun i =>
      let code := bits (ofBytes ((elemBytes f.width i.val).map (fun k => s.veByte c l.ctx th w.space (wrap64 (base + k)))))
        (i.val * f.width % 8 + f.width - 1) (i.val * f.width % 8)
      toLane f w.raw code (if f.isMx then (s.veByte c l.ctx th w.space (wrap64 (scb + i.val / 32))).toNat else 0)) s')

def execVld (c : Cl) (t : Th) (u : Upset) (s : State) : Host.Outcome State Fault Refusal :=
  .next (veRow 0x40 (memRow ⟨false, false⟩ (doVld c t u) c t) c t s)

/-- VGATH (R181). -/
def doVgath (c : Cl) (t : Th) (u : Upset) (s : State) (w : VeW) (th : Thread) (l : Launch) (f : Fmt) (as : List Nat) : State :=
  loadData c t u s th l w.space as (fun s' =>
    loadFinish c t u w th as (fun i =>
      toLane f w.raw (ofBytes ((List.range (gatherBytes f)).map (fun k =>
        s.veByte c l.ctx th w.space (wrap64 (laneAddr w th i + k))))) 0) s')

def execVgath (c : Cl) (t : Th) (u : Upset) (s : State) : Host.Outcome State Fault Refusal :=
  .next (veRow 0x42 (memRow ⟨false, true⟩ (doVgath c t u) c t) c t s)

/-! ## Stores -/

/-- The random value of a lane of a store: index register plus lane (R182). -/
def storeMode (s : State) (c : Cl) (l : Launch) (w : VeW) (th : Thread) (mx : Bool) (i : Nat) : Rnd :=
  rndOf w.rnd (veRnd s c l.ctx w.stream (th.sreg (if mx then w.vc % 16 else w.sb)).toNat i)

/-- The code an unscaled store writes for a lane, and what the conversion counted (R180). -/
def fromLane (f : Fmt) (raw sat : Bool) (md : Rnd) (v : BitVec 32) : Nat × ConvNote :=
  if raw then (v.toNat, {}) else convF32 f md sat v.toNat

/-- Element codes of the active lanes of a VST, the scale of each active block, and NaNs stored into an integer. -/
def vstCodes (f : Fmt) (raw sat : Bool) (m : BitVec 128) (md : Nat → Rnd) (v : Fin 128 → BitVec 32) :
    List (Nat × Nat) × List (Nat × Nat) × Nat :=
  if f.isMx && !raw then
    let bl := (activeBlocks m).map (fun b =>
      let ls := (lanesOf m).filter (fun i => i.val / 32 = b)
      let r := blockConvert f (fun k => md ((ls.map (·.val)).getD k 0)) (ls.map (fun i => FF.fp32.decode (v i).toNat))
      (b, r.1, (ls.map (·.val)).zip r.2))
    (bl.flatMap (fun p => p.2.2), bl.map (fun p => (p.1, p.2.1)), 0)
  else
    let es := (lanesOf m).map (fun i => (i.val, fromLane f raw sat (md i.val) (v i)))
    (es.map (fun p => (p.1, p.2.1)), [], (es.map (fun p => p.2.2.nanInt)).sum)

/-- A byte a packed store only writes in part, before the store; on another device it cannot be known, and is a free
value. -/
def State.oldByte (s : State) (c : Cl) (x : Ctx) (th : Thread) (space : Bool) (a : Nat) : Byte :=
  if space && !s.isLocal a then Config.freeByte (s.free + a) else s.veByte c x th space a

/-- The bytes a VST leaves in the touched bytes of its row. -/
def packLanes (w : Nat) (codes : List (Nat × Nat)) (old : Nat → Byte) : List (Nat × Byte) :=
  let touched := (codes.flatMap (fun p => elemBytes w p.1)).eraseDups
  touched.map (fun k =>
    (k, codes.foldl (fun (b : Byte) p =>
      (List.range 8).foldl (fun (b : Byte) j =>
        let g := 8 * k + j
        if p.1 * w ≤ g && g < (p.1 + 1) * w then
          (if bit p.2 (g - p.1 * w) then b ||| (1#8 <<< j) else b &&& ~~~(1#8 <<< j))
        else b) b) (old k)))

/-- The held stores of a context of a cluster would overflow its queue (R451). -/
def queueFull (q : List RWrite) (add : List RWrite) : Bool :=
  256 < q.length + add.length || 65536 < ((q ++ add).map (·.data.length)).sum

/-- A VE store into a Master plane that ox.run has named starts the step's update (R468). -/
def State.noteMaster (s : State) (x : Ctx) (a len : Nat) : State :=
  if (s.jobs.get x).masterPlanes.any (fun r => r.1 < a + len && a < r.1 + r.2) then s.updJob x (fun j => { j with updateStarted := true }) else s

/-- A thread's store leaves the VE, unless an earlier instruction of the thread has failed a check (R452): cluster
store and device-local memory are written, stores to other devices are held (R450). -/
def putCells (c : Cl) (t : Th) (u : Upset) (s : State) (w : VeW) (th : Thread) (l : Launch) (cells : List (Nat × Byte))
    (nanInt : Nat) : State :=
  let loc := cells.filter (fun p => w.space && s.isLocal p.1)
  let rem := cells.filter (fun p => w.space && !s.isLocal p.1)
  let e := s.remoteErr (rem.map (·.1))
  let held : List RWrite := (joinRuns 256 rem).map (fun p => { addr := p.1, data := p.2, thread := t.val })
  if e != 0 then veStop s c t e []
  else if held.any (fun r => r.addr % 8 != 0) then veStop s c t Code.FAB_ALIGN []
  else
    match s.localAccess (s.party l.ctx) true (loc.map (·.1)) with
    | .hold => s
    | .fail st => veStop s c t st []
    | .ok =>
      let q := ((s.clusters.get c).seq.get l.ctx).remoteWrites
      if !th.suspect && queueFull q held then veStop s c t Code.HOLD_FULL []
      else
        let outs := cells.map (fun p => (if w.space then 2 ^ 62 + p.1 else p.1, p.2))
        let s :=
          if th.suspect then s
          else
            let s := if w.space then s else (joinRuns 0x400000 cells).foldl (fun s p =>
              p.2.zipIdx.foldl (fun s (b, i) => s.csWrW c l.ctx l.desc.val (p.1 + i) [b]) s) s
            let s := (joinRuns 256 loc).foldl (fun s p => (s.wr (localOff p.1) p.2).noteMaster l.ctx (localOff p.1) p.2.length) s
            s.updSeq c l.ctx (fun k => { k with remoteWrites := k.remoteWrites ++ held })
        let s := s.updThread c t (fun k => { k.advance with
          out := outs.foldl (fun o p => Seen.put o p.1 p.2) k.out })
        let s := bumpC s Cnt.NAN_TO_INT c (some l.ctx) nanInt
        let s := capture { s with free := s.free + rem.length } th.replay 8 []
        match u with
        | .check st rows _ => veCheck s c t w st rows
        | _ => s

/-- The cells a VST writes, elements and then scales, and the NaNs it stores into an integer (R180, R182). The stored register is
Va (DEDUCED, log entry 23). -/
def vstCells (s : State) (c : Cl) (l : Launch) (w : VeW) (th : Thread) (f : Fmt) (u : Upset) : List (Nat × Byte) × Nat :=
  let base := (th.sreg w.sa).toNat
  let scb := (th.sreg w.sb).toNat
  let m := th.mreg w.msk
  let r := vstCodes f w.raw w.sat m (storeMode s c l w th (f.isMx && !w.raw)) (fun i => flipLane u i.val ((th.vreg w.va).get i))
  let el := (packLanes f.width r.1 (fun k => s.oldByte c l.ctx th w.space (wrap64 (base + k)))).map (fun p => (wrap64 (base + p.1), p.2))
  let sc := r.2.1.map (fun p => (wrap64 (scb + p.1), BitVec.ofNat 8 p.2))
  (el ++ sc, r.2.2)

/-- VST (R180, R182). -/
def doVst (c : Cl) (t : Th) (u : Upset) (s : State) (w : VeW) (th : Thread) (l : Launch) (f : Fmt) (_as : List Nat) : State :=
  let r := vstCells s c l w th f u
  putCells c t u s w th l r.1 r.2

def execVst (c : Cl) (t : Th) (u : Upset) (s : State) : Host.Outcome State Fault Refusal :=
  .next (veRow 0x41 (memRow ⟨true, false⟩ (doVst c t u) c t) c t s)

/-- The cells a VSCAT writes, lanes in ascending order, so that the highest writes last, and the NaNs it stores into an integer
(R181). -/
def vscatCells (s : State) (c : Cl) (l : Launch) (w : VeW) (th : Thread) (f : Fmt) (u : Upset) : List (Nat × Byte) × Nat :=
  let r := vstCodes f w.raw w.sat (th.mreg w.msk) (storeMode s c l w th false) (fun i => flipLane u i.val ((th.vreg w.va).get i))
  ((lanesOf (th.mreg w.msk)).flatMap (fun i =>
    let code := ((r.1.find? (fun p => p.1 = i.val)).map (·.2)).getD 0
    (toBytes (gatherBytes f) code).zipIdx.map (fun (b, k) => (wrap64 (laneAddr w th i + k), b))), r.2.2)

/-- VSCAT (R181). -/
def doVscat (c : Cl) (t : Th) (u : Upset) (s : State) (w : VeW) (th : Thread) (l : Launch) (f : Fmt) (_as : List Nat) : State :=
  let r := vscatCells s c l w th f u
  putCells c t u s w th l r.1 r.2

def execVscat (c : Cl) (t : Th) (u : Upset) (s : State) : Host.Outcome State Fault Refusal :=
  .next (veRow 0x43 (memRow ⟨true, true⟩ (doVscat c t u) c t) c t s)

/-- VFENCE (R177, R372): the stores of the thread are visible, and its held requests in their queue, once they have
executed, so the thread goes on. -/
def doVfence (c : Cl) (t : Th) (u : Upset) (s : State) (w : VeW) (th : Thread) (_l : Launch) : State :=
  if w.vc != 0 then veFault s c t .illegalVe
  else veUpset (capture (s.updThread c t Thread.advance) th.replay 8 []) c t w u

def execVfence (c : Cl) (t : Th) (u : Upset) (s : State) : Host.Outcome State Fault Refusal :=
  .next (veRow 0x48 (doVfence c t u) c t s)

end Sys2Proof.Machine
end

