-- ==== Sys2Proof/Machine/Program.lean ====
section
/-! DEFINITION. The entries of a stage program, the completion of commands, and the chain of a fused nest (R108 to R116,
R125, R128, R133, R134, R169, R170). -/

namespace Sys2Proof.Machine

/-! ## Entries -/

/-- Every command of the running beat has completed. -/
def BeatRun.allDone (r : BeatRun) : Bool := r.cmds.all (fun k => k.st == .done)

/-- A RUN with Async = 0 stands before the entry at the program counter and its command is still running (R133). -/
def BeatRun.waitsAt (r : BeatRun) (prog : List (BitVec 64)) : Bool :=
  match (if r.pc = 0 then none else prog[r.pc - 1]?) with
  | some p => (ProgEnt.of p).op = 1 && !(ProgEnt.of p).async &&
      r.cmds.any (fun k => k.desc.val = (ProgEnt.of p).desc && k.st == .running)
  | none => false

/-- The entry at the program counter of the running beat, when it may start: the beat is neither ended nor failed, and a
RUN before it with Async = 0 has completed (R133). -/
def State.entry (s : State) (c : Cl) (x : Ctx) : Option ProgEnt :=
  match s.stage c x with
  | none => none
  | some g =>
    match g.run with
    | none => none
    | some r =>
      let prog := g.programs.toList.getD r.prog []
      if !s.clusterUp c || r.ended || r.failed.isSome || r.waitsAt prog then none else (prog[r.pc]?).map ProgEnt.of

/-- The next entry follows. -/
def nextEntry (s : State) (c : Cl) (x : Ctx) : State := s.updRun c x (fun r => { r with pc := r.pc + 1 })

/-- A command that ends at its start. -/
def endCmd (s : State) (c : Cl) (x : Ctx) (d : Fin 64) (empty : Bool) : State :=
  s.updCmd c x d (fun k => { k with st := .done, empty := empty })

/-- A matrix nest starts: its groups go to their home engines in order, and the loads of a wave merge (R114 to R118). -/
def startNest (s : State) (c : Cl) (x : Ctx) (dn : Fin 64) (d : Desc) (ext : List Nat) : State :=
  let es := s.enginesIn c d.engMask
  if es.isEmpty then failCmd s c x dn Code.NO_ENGINE
  else
    let all := d.outIdx ext
    let run := all.filter (fun idx => !d.skipped ext idx)
    let ts := run.map (d.tile ext)
    let kl := d.kLevel
    let planned := (d.outIdx d.plans).length
    let partialK : Bool := match d.lvls[kl]? with
      | some l => ext.getD kl 0 % l.step != 0
      | none => false
    let masked := ts.filter (fun t => t.validRows < 16 || t.validCols < 64 || partialK)
    let s := bumpC s Cnt.TILES_SKIPPED_BOUND c (some x) (planned - all.length)
    let s := bumpC s Cnt.TILES_SKIPPED_RULE c (some x) (all.length - run.length)
    let s := bumpC s Cnt.TILES_MASKED c (some x) masked.length
    let gs := (groupsOf (d.accGroup + 1) d.groupLevel ts).zipIdx.map (fun (p : List Tile × Nat) =>
      ({ ord := p.2, tiles := p.1, owner := ((es[p.2 % es.length]?).map (·.val)).getD 0 } : Group))
    let s := s.updCmd c x dn (fun k => { k with groups := gs, slots := List.replicate (if d.kind = 2 then d.slotCount else 0) .free })
    let s := gs.foldl (fun s g => if h : g.owner < 16 then pushGroup s c x dn ext ⟨g.owner, h⟩ g else s) s
    mergeWaves s c x dn es.length

/-- A transfer nest starts (R244, R247, R250, R253). -/
def startXfer (s : State) (c : Cl) (x : Ctx) (dn : Fin 64) (d : Desc) (ext : List Nat) : State :=
  let n := ext.getD d.kLevel 0
  let tile := match d.lvls[d.kLevel]? with | some l => l.tile | none => 64
  if n % 8 != 0 || (d.xfer.dir = 4 && n % tile != 0) then failCmd s c x dn Code.XFER_ALIGN
  else
    let t := s.newXfer x dn d ext (s.beatNo c x)
    let s := s.updCmd c x dn (fun k => { k with xfer := some t })
    if d.xfer.dir = 1 then pinOutbound c x dn (t.reqs.length + 1) s else s

/-- RUN (R133, R109 to R111): the command takes its snapshot of the bound registers and starts. -/
def runEntry (s : State) (c : Cl) (x : Ctx) (e : ProgEnt) : State :=
  if h : e.desc < 64 then
    let dn : Fin 64 := ⟨e.desc, h⟩
    if (s.cmd c x dn).isSome then s
    else
      let d := s.desc c x dn
      let ext := d.extents ((s.clusters.get c).seq.get x).bnd
      let s := nextEntry (s.updRun c x (fun r => { r with cmds := r.cmds ++ [{ desc := dn, ctx := x, extents := ext }] })) c x
      match d.shapeOver ext with
      | some i =>
        let l := d.lvls[i]?
        failCmd s c x dn Code.SHAPE_OVER [i, (l.map (·.bndReg)).getD 0, ext.getD i 0, (l.map (·.plan)).getD 0]
      | none =>
        if extEmpty ext then endCmd s c x dn true
        else if d.kind = 1 || d.kind = 2 then startNest s c x dn d ext
        else if d.kind = 3 then s.updCmd c x dn (fun k => { k with att := some { steps := d.attSteps ext } })
        else if d.kind = 4 then startXfer s c x dn d ext
        else failCmd s c x dn Code.DESC_INVALID
  else s

/-- An entry of the given code runs, when it is the one at the program counter. -/
def entryRow (op : Nat) (act : State → ProgEnt → State) (c : Cl) (x : Ctx) (s : State) : State :=
  match s.entry c x with
  | none => s
  | some e => if e.op = op then act s e else s

def execRun (c : Cl) (x : Ctx) (s : State) : Host.Outcome State Fault Refusal :=
  .next (entryRow 1 (fun s e => runEntry s c x e) c x s)

def execSetbnd (c : Cl) (x : Ctx) (s : State) : Host.Outcome State Fault Refusal :=
  .next (entryRow 2 (fun s e => nextEntry (setBound s c x e.bndReg e.value) c x) c x s)

/-- WAIT (R134): every earlier RUN of the beat has completed. -/
def waitEntry (s : State) (c : Cl) (x : Ctx) : State :=
  match s.run c x with
  | none => s
  | some r => if r.allDone then nextEntry s c x else s

def execWait (c : Cl) (x : Ctx) (s : State) : Host.Outcome State Fault Refusal :=
  .next (entryRow 3 (fun s _ => waitEntry s c x) c x s)

/-- END (R134): the program ends once every earlier RUN has completed. -/
def endEntry (s : State) (c : Cl) (x : Ctx) : State :=
  match s.run c x with
  | none => s
  | some r => if r.allDone then s.updRun c x (fun r => { r with ended := true }) else s

def execEndProg (c : Cl) (x : Ctx) (s : State) : Host.Outcome State Fault Refusal :=
  .next (entryRow 4 (fun s _ => endEntry s c x) c x s)

/-! ## Completion -/

/-- Every tile of a transfer has been dealt with as its direction asks (R245, R247, R256, R264). -/
def xferDone (d : Desc) (k : Cmd) (t : Xfer) : Bool :=
  if d.xfer.dir = 1 then t.pinned
  else if d.xfer.dir = 3 then t.reqs.all (fun r => r.st = 2)
  else t.delivered = t.tiles.length && k.launches = 0

/-- A command's work is finished (R128, R220, R245, R256). -/
def cmdFinished (d : Desc) (k : Cmd) : Bool :=
  if d.kind = 1 then k.groups.all (·.done)
  else if d.kind = 2 then k.groups.all (·.done) && k.slots.all (· == .free) && k.launches = 0
  else if d.kind = 3 then (match k.att with | some a => a.steps.isEmpty | none => false)
  else (match k.xfer with | some t => xferDone d k t | none => false)

/-- Some work item of a command is to be replayed or is being replayed (R454). -/
def State.replaysOpen (s : State) (c : Cl) (x : Ctx) (d : Fin 64) : Bool :=
  s.goose.items.any (fun w => w.cluster = c && w.ctx = x && w.desc = d && (w.st == ItemSt.suspect || w.st == ItemSt.replaying))

/-- COMMAND_COMPLETE (R128, R454). -/
def commandComplete (c : Cl) (x : Ctx) (dn : Fin 64) (s : State) : State :=
  match s.cmd c x dn with
  | none => s
  | some k =>
    if !s.clusterUp c || !cmdFinished (s.desc c x dn) k || s.replaysOpen c x dn then s
    else endCmd s c x dn k.empty

def execCommandComplete (c : Cl) (x : Ctx) (d : Fin 64) (s : State) : Host.Outcome State Fault Refusal :=
  .next (commandComplete c x d s)

/-! ## The chain of a fused nest (R125) -/

/-- The scalar registers of a launch on a slot (R170). -/
def slotLaunch (d : Desc) (x : Ctx) (dn : Fin 64) (slot g j : Nat) (t : Tile) (n : Nat) : Launch :=
  let sc : Bool := match Fmt.ofCode d.out.fmt with | some f => f.scaled | none => false
  { ctx := x, desc := dn, entry := d.veEntry, ord := n, slot := slot, group := g, tile := j,
    scalars := ([0, d.out.elem + slot * 16 * d.out.rowStride, if sc then d.out.scale + slot * 16 * d.out.scaleStride else 0,
      t.row, t.col, t.validRows, t.validCols, t.auxAddr, t.auxScale, d.out.rowStride, d.aux.rowStride, d.aux.scaleStride,
      slot]).map (BitVec.ofNat 64) }

/-- FP32 codes of a slot's row. -/
def slotRow (s : State) (c : Cl) (x : Ctx) (d : Desc) (slot r n : Nat) : List Nat :=
  let w := if d.out.fmt = 0 then 4 else 2
  let bs := s.csRdW c x (d.out.elem + slot * 16 * d.out.rowStride + r * d.out.rowStride) (n * w)
  (List.range n).map (fun j => if d.out.fmt = 0 then u32At bs (4 * j) else place (ofBytes (slice bs (2 * j) 2)) 16)

/-- The codec's step: the slot is encoded into Aux (R125, R339, R340; the exact encode by DEDUCED, log entry 25). -/
def encodeTile (s : State) (c : Cl) (x : Ctx) (dn : Fin 64) (d : Desc) (slot : Nat) (t : Tile) : State :=
  if d.codecOp = 1 then
    let w := if d.out.fmt = 0 then 4 else if d.out.fmt = 1 || d.out.fmt = 2 then 2 else 1
    let n := 16 * d.out.rowStride
    let bs := s.csRdW c x (d.out.elem + slot * n) n
    (List.range (cdiv n 4096)).foldl (fun s i =>
      let r := encodeSlot w (slice bs (4096 * i) 4096)
      (s.csWrW c x dn.val (t.auxAddr + 4096 * i) r.2).csWrW c x dn.val (t.auxScale + 2 * i) (toBytes 2 r.1)) s
  else
    match Fmt.ofCode d.aux.fmt with
    | none => s
    | some f =>
      (List.range t.validRows).foldl (fun s r =>
        let ys := slotRow s c x d slot r t.validCols
        let at_ := t.auxAddr + r * d.aux.rowStride
        let (bs, sc, _) := storeRow f true (fun _ => .rne) ys (s.csRdW c x at_ (rowBytes f.width t.validCols))
        (s.csWrW c x dn.val at_ bs).csWrW c x dn.val (t.auxScale + r * d.aux.scaleStride) (sc.map (BitVec.ofNat 8))) s

/-- A tile of a running command's group. -/
def Cmd.tileAt (k : Cmd) (g j : Nat) : Option Tile := (k.groups.find? (·.ord = g)).bind (fun q => q.tiles[j]?)

/-- A slot of a command changed. -/
def setSlot (s : State) (c : Cl) (x : Ctx) (d : Fin 64) (i : Nat) (st : SlotSt) : State :=
  s.updCmd c x d (fun k => { k with slots := k.slots.set i st, order := k.order.filter (· != i) })

/-- FUSED_TILE_CHAIN (R125): a tile in the codec is encoded and its slot freed; else the first tile stored whose group
has sent its token is handed to the VE, or to the codec where there is no VE step. -/
def fusedChain (c : Cl) (x : Ctx) (dn : Fin 64) (s : State) : State :=
  match s.cmd c x dn with
  | none => s
  | some k =>
    let d := s.desc c x dn
    if !s.clusterUp c || d.kind != 2 then s
    else
      match k.slots.zipIdx.findSome? (fun p => match p.1 with | SlotSt.codec g j => some (p.2, g, j) | _ => none) with
      | some (i, g, j) =>
        match k.tileAt g j with
        | none => s
        | some t => setSlot (encodeTile s c x dn d i t) c x dn i .free
      | none =>
        match k.order.findSome? (fun (i : Nat) => match k.slots.getD i SlotSt.free with
          | SlotSt.stored g j => if k.groups.any (fun q => q.ord = g && q.done) then some (i, g, j) else none
          | _ => none) with
        | none => s
        | some (i, g, j) =>
          match k.tileAt g j with
          | none => s
          | some t =>
            if d.veEntry = 0 then setSlot s c x dn i (.codec g j)
            else requestLaunch (setSlot s c x dn i (.ve g j)) c (slotLaunch d x dn i g j t k.launched)

def execFusedTileChain (c : Cl) (x : Ctx) (d : Fin 64) (s : State) : Host.Outcome State Fault Refusal :=
  .next (fusedChain c x d s)

end Sys2Proof.Machine
end

