-- ==== Sys2Proof/Machine/HandOver.lean ====
section
/-! DEFINITION. Hand-over slots: credits, sends, landings and acknowledgements (R145 to R151, R154, R157). -/

namespace Sys2Proof.Machine

/-! ## Messages between stages

The manual gives the length of these CTL payloads and not their layout (R359, DESIGN CHOICE, log entry 21). -/

/-- A message of one stage's input to the stage that produces it, or back: cluster, context, index and MbIdx. -/
def slotMsg (op dst n cluster : Nat) (x : Ctx) (idx mb : Nat) : Pkt :=
  ctlPkt op dst (toBytes n (cluster + place (ctxNo x) 8 + place (idx % 4) 16 + place (mb % 65536) 32))

/-- Where a remote consumer's slot lies, as the address of the WRITE packets that fill it: the manual gives none
(DESIGN CHOICE, log entry 26). -/
def hoAddr (dev cluster : Nat) (x : Ctx) (inp slot off : Nat) : Nat :=
  dev * 2 ^ 48 + 0xE00000000000 + cluster * 2 ^ 24 + ctxNo x * 2 ^ 23 + inp * 2 ^ 22 + slot * 2 ^ 20 + off

/-- An input of a stage changed. -/
def State.updIn (s : State) (c : Cl) (x : Ctx) (i : Fin 2) (f : StageIn → StageIn) : State :=
  s.updStage c x (fun g => { g with ins := upd g.ins i f })

/-- An output of a stage changed. -/
def State.updOut (s : State) (c : Cl) (x : Ctx) (o : Fin 2) (f : StageOut → StageOut) : State :=
  s.updStage c x (fun g => { g with outs := upd g.outs o f })

/-- An input of a stage. -/
def State.inp (s : State) (c : Cl) (x : Ctx) (i : Fin 2) : StageIn := ((s.stage c x).map (fun g => g.ins.get i)).getD {}

/-- An output of a stage. -/
def State.outp (s : State) (c : Cl) (x : Ctx) (o : Fin 2) : StageOut := ((s.stage c x).map (fun g => g.outs.get o)).getD {}

/-- Cluster-store offset of an input slot. -/
def StageIn.at_ (i : StageIn) (sl : Nat) : Nat := i.slotBase + sl * i.slotBytes

/-- Cluster-store offset of an output slot. -/
def StageOut.at_ (o : StageOut) (sl : Nat) : Nat := o.slotBase + sl * o.slotBytes

/-- Output and consumer number of a stage that feed an input of a device's cluster. -/
def Stage.feeds (g : Stage) (dev cluster inp : Nat) : Option (Fin 2 × Nat) :=
  (List.finRange 2).findSome? (fun o =>
    let k := g.outs.get o
    if k.used then (k.consumers.findIdx? (fun q => q.dev = dev && q.cluster = cluster && q.input = inp)).map (fun n => (o, n))
    else none)

/-! ## Sending -/

/-- A packet leaves for one consumer (R148): its payload, and after it its header. A consumer on this device has its slot
filled now; the header lands as HANDOVER_HEADER_LAND. -/
def sendTo (s : State) (c : Cl) (x : Ctx) (o : StageOut) (sl mb : Nat) (k : Consumer) : State :=
  let base := o.at_ sl
  let hdr := s.csRd c base 64
  let h := HoHdr.of hdr
  let payload := if h.isEmpty then [] else s.csRd c (base + 64) (min h.payload (o.slotBytes - 64))
  if k.dev = s.ident.devNum then
    if hc : k.cluster < 40 ∧ k.input < 2 then
      let d : Cl := ⟨k.cluster, hc.1⟩
      let i : Fin 2 := ⟨k.input, hc.2⟩
      let q := s.inp d x i
      let s := s.updCluster d (fun v => { v with store := Mem.write 0 v.store (q.at_ (mb % 3)) (hdr ++ payload) })
      s.updIn d x i (fun q => { q with slots := upd q.slots ⟨mb % 3, Nat.mod_lt _ (by decide)⟩ (fun _ => InSt.filling) })
    else s
  else
    let body := writePkts (ctxNo x) (hoAddr k.dev k.cluster x k.input (mb % 3) 64) payload
    let head := writePkts (ctxNo x) (hoAddr k.dev k.cluster x k.input (mb % 3) 0) hdr
    (body ++ head).foldl send s

/-- An output's oldest held packet is sent once a credit is held for every consumer (R150, R151). -/
def trySend (s : State) (c : Cl) (x : Ctx) (o : Fin 2) : State :=
  let k := s.outp c x o
  let heldMb (v : OutSt) : Option (Nat × Nat) := match v with | .held b m => some (m, b) | _ => none
  let slots := (List.finRange 2).filterMap (fun i => (heldMb (k.slots.get i)).map (fun p => (i, p.1, p.2)))
  let first := slots.foldl (fun (b : Option (Fin 2 × Nat × Nat)) p =>
    match b with
    | none => some p
    | some q => if p.2.1 < q.2.1 then some p else b) none
  match first with
  | none => s
  | some (i, mb, beat) =>
    if k.credits.any (· = 0) then s
    else
      let s := s.updOut c x o (fun q => { q with credits := q.credits.map (· - 1), slots := upd q.slots i (fun _ => OutSt.sending beat mb []) })
      k.consumers.foldl (fun s q => sendTo s c x k i.val mb q) s

/-- A credit of a consumer arrives (R151). -/
def creditAt (s : State) (c : Cl) (x : Ctx) (o : Fin 2) (n : Nat) : State :=
  if (s.outp c x o).consumers.length ≤ n then s
  else trySend (s.updOut c x o (fun q => { q with credits := q.credits.modify n (fun v => min 3 (v + 1)) })) c x o

/-- A consumer acknowledges the packet of a slot; with the last acknowledgement the slot is FREE (R150). -/
def ackAt (s : State) (c : Cl) (x : Ctx) (o : Fin 2) (sl : Fin 2) (n : Nat) : State :=
  let k := s.outp c x o
  match k.slots.get sl with
  | .sending b mb acked =>
    if k.consumers.length ≤ n || acked.contains n then s
    else
      let acked := n :: acked
      s.updOut c x o (fun q => { q with slots := upd q.slots sl (fun _ =>
        if acked.length = k.consumers.length then OutSt.free else OutSt.sending b mb acked) })
  | _ => s

/-- A consumer's input tells its producer: a credit, or with a MbIdx an acknowledgement of that packet. -/
def tellProducer (s : State) (c : Cl) (x : Ctx) (i : Fin 2) (ack : Option Nat) : State :=
  let q := s.inp c x i
  if q.prodDev = s.ident.devNum then
    if h : q.prodCluster < 40 then
      let p : Cl := ⟨q.prodCluster, h⟩
      match (s.stage p x).bind (fun g => g.feeds s.ident.devNum c.val i.val) with
      | none => s
      | some (o, n) =>
        match ack with
        | none => creditAt s p x o n
        | some mb =>
          match (List.finRange 2).find? (fun sl => match (s.outp p x o).slots.get sl with
            | .sending _ m acked => m = mb && !acked.contains n
            | _ => false) with
          | none => s
          | some sl => ackAt s p x o sl n
    else s
  else
    match ack with
    | none => send s (slotMsg 0x05 q.prodDev 8 c.val x i.val 0)
    | some mb => send s (slotMsg 0x06 q.prodDev 8 c.val x i.val mb)

/-! ## Landing -/

/-- HANDOVER_HEADER_LAND (R149, R150): the header of a packet is checked. From a producer on this device it is the one the
slot was filled with. -/
def headerLand (c : Cl) (x : Ctx) (i : Fin 2) (sl : Fin 3) (hdr : List Byte) (s : State) : State :=
  match s.stage c x with
  | none => s
  | some g =>
    let q := g.ins.get i
    let fresh : Bool := match q.slots.get sl with | .free => true | .filling => true | _ => false
    if !q.used || !fresh then s
    else
      let own := q.prodDev = s.ident.devNum
      let hb := if own then s.csRd c (q.at_ sl.val) 64 else slice hdr 0 64
      let h := HoHdr.of hb
      let ok := h.ctx = ctxNo x && h.mb = q.nextLand && (if h.isEmpty then h.payload = 0 else h.payload + 64 ≤ q.slotBytes) && h.crcOk
      let s := if own then s else s.updCluster c (fun v => { v with store := Mem.write 0 v.store (q.at_ sl.val) hb })
      if ok then
        let s := s.updIn c x i (fun q => { q with
          slots := upd q.slots sl (fun _ => InSt.ready h.mb h.isEmpty), nextLand := q.nextLand + 1 })
        tellProducer s c x i (some h.mb)
      else
        let s := s.updIn c x i (fun q => { q with bad := true })
        raiseCtx s Code.HANDOVER_BAD (some x) (seqUnit c) (s.jobs.get x).beat i.val

def execHandoverHeaderLand (c : Cl) (x : Ctx) (inp : Fin 2) (slot : Fin 3) (hdr : List Byte) (s : State) :
    Host.Outcome State Fault Refusal := .next (headerLand c x inp slot hdr s)

def execSlotCredit (c : Cl) (x : Ctx) (out : Fin 2) (consumer : Fin 4) (s : State) : Host.Outcome State Fault Refusal :=
  .next (creditAt s c x out consumer.val)

def execSlotAck (c : Cl) (x : Ctx) (out : Fin 2) (slot : Fin 2) (consumer : Fin 4) (s : State) : Host.Outcome State Fault Refusal :=
  .next (ackAt s c x out slot consumer.val)

/-! ## Overrun notices (R157, R159) -/

/-- A notice for a packet reaches an input: from that moment a stage that waits for it waits on an overrun. -/
def noticeAt (s : State) (c : Cl) (x : Ctx) (i : Fin 2) (mb : Nat) : State :=
  match s.stage c x with
  | none => s
  | some g =>
    let q := g.ins.get i
    if !q.used || mb < q.nextMb || q.overrun.contains mb then s
    else
      let s := s.updIn c x i (fun q => { q with overrun := mb :: q.overrun })
      let waits : Bool := match g.schedule[g.pos]? with
        | some e => (schedOf e).1 = i.val && q.nextMb = mb
        | none => false
      if waits && g.idle = Idle.waitInput && g.run.isNone then s.updStage c x (fun g => { g with idle := .waitInputOverrun }) else s

def execOverrun (c : Cl) (x : Ctx) (inp : Fin 2) (mb : Nat) (s : State) : Host.Outcome State Fault Refusal :=
  .next (noticeAt s c x inp mb)

/-- A producer's notice to each consumer of an output. -/
def sendNotices (s : State) (x : Ctx) (o : StageOut) (mb : Nat) : State :=
  o.consumers.foldl (fun s k =>
    if k.dev = s.ident.devNum then
      if h : k.cluster < 40 ∧ k.input < 2 then noticeAt s ⟨k.cluster, h.1⟩ x ⟨k.input, h.2⟩ mb else s
    else send s (slotMsg 0x04 k.dev 16 k.cluster x k.input mb)) s

end Sys2Proof.Machine
end

