-- ==== Sys2Proof/Machine/Beat.lean ====
section
/-! DEFINITION. The beat: its messages, boundaries, starts, overruns, stalls, preemption and the end of a step
(R130 to R165, R416, R636). -/

namespace Sys2Proof.Machine

/-! ## Periods (R138, R156, R161) -/

/-- A legal beat period (R138). -/
def periodOk (ns : Nat) : Bool := ns % 250 = 0 && 4000 ≤ ns && ns ≤ 256000

/-- Largest planned time of a stage at a period, in hundredths of a ns (R156). -/
def planLimit (period : Nat) (withJ1 : Bool) : Nat := if withJ1 then 92 * period - 100000 else 92 * period

/-- Shortfall in ns of a stage at a period, 0 where it fits (R156); a Diag job's planned time counts 2.5 times (R563). -/
def planShort (plan period : Nat) (withJ1 diag : Bool) : Nat :=
  let t := if diag then 250 * plan else 100 * plan
  cdiv (t - planLimit period withJ1) 100

/-- The first cluster whose stage of a context does not fit a period (R156). -/
def State.slackShort (s : State) (x : Ctx) (period : Nat) : Option Cl :=
  (List.finRange 40).find? (fun c => match s.stage c x with
    | none => false
    | some g => planShort g.planTime period (x = .j0 && (s.stage c .j1).isSome) (s.jobs.get x).diag != 0)

/-- A message of the period negotiation in its 16 bytes, whose layout the manual does not give (DESIGN CHOICE, log entry 21). -/
def periodPkt (dst kind : Nat) (x : Ctx) (dev ns : Nat) : Pkt :=
  ctlPkt 0x03 dst (toBytes 8 (kind + place (ctxNo x) 4 + place (dev % 65536) 16) ++ toBytes 8 ns)

/-- Every other device of a job. -/
def State.others (s : State) (x : Ctx) : List Nat :=
  ((s.jobs.get x).members.map (·.1)).filter (· != s.ident.devNum)

/-- The negotiation ends without a change (R161): BEAT_PERIOD_REFUSED names the first refusing or silent device. -/
def refusePeriod (s : State) (x : Ctx) (dev : Nat) : State :=
  let s := s.updJob x (fun j => { j with neg := none, requested := none, stepStartReady := true, refused := true })
  raiseCtx s Code.BEAT_PERIOD_REFUSED (some x) { cls := 0 } (s.jobs.get x).beat dev

/-- With every device's acknowledgement the candidate is agreed; a refusal ends the negotiation (R161). -/
def settlePeriod (s : State) (x : Ctx) : State :=
  let j := s.jobs.get x
  match j.neg with
  | none => s
  | some n =>
    match n.refusedBy with
    | some d => refusePeriod s x d
    | none =>
      if j.members.all (fun m => n.acks.contains m.1) then
        s.updJob x (fun j => { j with neg := none, requested := none, agreed := some n.candidate, stepStartReady := true })
      else s

/-- This device's answer to a candidate (R161): true for an acknowledgement. -/
def State.acceptsPeriod (s : State) (x : Ctx) (ns : Nat) : Bool := periodOk ns && (s.slackShort x ns).isNone

/-- At the end of a step the master chooses a candidate: the largest proposal, else the run-time's request; with none, or
none that changes the period, the next step may start (R161). -/
def chooseCandidate (s : State) (x : Ctx) : State :=
  let j := s.jobs.get x
  let best := j.proposals.foldl max 0
  let cand := if best != 0 then best else j.requested.getD 0
  if cand = 0 || cand = j.period then s.updJob x (fun j => { j with stepStartReady := true, proposals := [], requested := none })
  else
    let me := s.ident.devNum
    let s := s.updJob x (fun j => { j with
      proposals := [],
      neg := some { candidate := cand, acks := if s.acceptsPeriod x cand then [me] else [],
                    refusedBy := if s.acceptsPeriod x cand then none else some me, sentAt := s.now } })
    let s := (s.others x).foldl (fun s d => send s (periodPkt d 1 x me cand)) s
    settlePeriod s x

/-- The master has a device's step-done (R160): after the last of them the step ends. -/
def takeStepDone (s : State) (x : Ctx) (dev : Nat) : State :=
  let j := s.jobs.get x
  if !j.isOpen || j.sender != s.ident.devNum || j.stepDone.contains dev || !j.members.any (fun m => m.1 = dev) then s
  else
    let s := s.updJob x (fun j => { j with stepDone := dev :: j.stepDone })
    let j := s.jobs.get x
    if j.members.all (fun m => j.stepDone.contains m.1) then chooseCandidate s x else s

def execStepDone (x : Ctx) (dev : Nat) (s : State) : Host.Outcome State Fault Refusal := .next (takeStepDone s x dev)

/-- A proposal reaches the master (R161). -/
def takeProposal (s : State) (x : Ctx) (ns : Nat) : State :=
  if (s.jobs.get x).sender != s.ident.devNum then s else s.updJob x (fun j => { j with proposals := ns :: j.proposals })

/-- PERIOD (R161). -/
def periodStep (x : Ctx) (msg : PeriodMsg) (s : State) : State :=
  let j := s.jobs.get x
  if !j.isOpen then s
  else
    match msg with
    | .propose _ ns => takeProposal s x ns
    | .candidate ns =>
      if s.acceptsPeriod x ns then send s (periodPkt j.sender 2 x s.ident.devNum ns)
      else send s (periodPkt j.sender 3 x s.ident.devNum ns)
    | .ack dev => settlePeriod (s.updJob x (fun j => { j with neg := j.neg.map (fun n => { n with acks := dev :: n.acks }) })) x
    | .refuse dev => settlePeriod (s.updJob x (fun j => { j with neg := j.neg.map (fun n =>
        { n with refusedBy := some (n.refusedBy.getD dev) }) })) x

def execPeriod (x : Ctx) (msg : PeriodMsg) (s : State) : Host.Outcome State Fault Refusal := .next (periodStep x msg s)

/-- PERIOD_TIMEOUT (R161): 1 ms after the candidate was sent. -/
def periodTimeout (x : Ctx) (s : State) : State :=
  let j := s.jobs.get x
  match j.neg with
  | none => s
  | some n =>
    if s.now < n.sentAt + 1000000 then s
    else refusePeriod s x (((j.members.find? (fun m => !n.acks.contains m.1)).map (·.1)).getD 0)

def execPeriodTimeout (x : Ctx) (s : State) : Host.Outcome State Fault Refusal := .next (periodTimeout x s)

/-! ## The end of a step on a device (R160, R161, R416) -/

/-- Every stage of a context on this device has finished its schedule and committed its last beat. -/
def State.stepFinished (s : State) (x : Ctx) : Bool :=
  (List.finRange 40).all (fun c => match s.stage c x with
    | none => true
    | some g => g.run.isNone && g.schedule.length ≤ g.pos)

/-- The proposal of a device whose stages overran too often in the step (R161). -/
def propose (s : State) (x : Ctx) : State :=
  let j := s.jobs.get x
  if j.overruns < j.overrunLimit then s
  else if j.longStep then raiseCtx s Code.BEAT_PERSIST (some x) { cls := 0 } j.beat j.overruns
  else
    let p := min 256000 (cdiv (j.period * 17) (16 * 250) * 250)
    if j.sender = s.ident.devNum then takeProposal s x p else send s (periodPkt j.sender 0 x s.ident.devNum p)

/-- The device's step-done message, once a step (R160); link reports and the proposal come first. -/
def checkStepDone (s : State) (x : Ctx) : State :=
  let j := s.jobs.get x
  if !j.isOpen || !j.begun || j.halted || j.stepDoneSent || j.waitStep.isSome || !s.stepFinished x then s
  else
    let s := sendReports s x
    let s := propose (s.updJob x (fun j => { j with stepDoneSent := true })) x
    if j.sender = s.ident.devNum then takeStepDone s x s.ident.devNum
    else send s (ctlPkt 0x02 j.sender (toBytes 8 (s.ident.devNum + place (ctxNo x) 16)))

/-! ## Overrun and stall (R157, R158) -/

/-- MbIdx of the packet of a beat on an output, when it is not READY at every consumer. -/
def StageOut.late (k : StageOut) (beat : Nat) : Option Nat :=
  k.slots.toList.findSome? (fun v => match v with
    | .sending b mb _ => if b = beat then some mb else none
    | .held b mb => if b = beat then some mb else none
    | _ => none)

/-- A stage overruns a beat (R157): BEAT_OVERRUN, a notice to each consumer, and Overran in the packet's header. -/
def overrunStage (s : State) (c : Cl) (x : Ctx) (beat : Nat) (outSel : Option (Nat × Nat)) : State :=
  match s.stage c x with
  | none => s
  | some g =>
    if g.overranBeat = some beat then s
    else
      let s := s.updStage c x (fun g => { g with overranBeat := some beat, overruns := g.overruns + 1 })
      let s := s.updJob x (fun j => { j with overruns := j.overruns + 1 })
      let s := bumpC s Cnt.BEAT_OVERRUN c (some x)
      let s := raise s { code := Code.BEAT_OVERRUN, ctx := some x, unit := seqUnit c,
                         detail := toBytes 8 (beat % 2 ^ 48) ++ toBytes 8 (g.number % 65536) }
      let s := s.updRun c x (fun r => if r.beat = beat then { r with overran := true } else r)
      (List.finRange 2).foldl (fun s o =>
        let k := s.outp c x o
        match k.late beat with
        | some mb => sendNotices s x k mb
        | none => if k.used && outSel.any (fun q => q.1 = o.val) then sendNotices s x k k.nextMb else s) s

/-- The header of a held packet takes the Overran mark of an overrun raised after commit (R157). -/
def markHeld (s : State) (c : Cl) (x : Ctx) (beat : Nat) : State :=
  (List.finRange 2).foldl (fun s o =>
    let k := s.outp c x o
    (List.finRange 2).foldl (fun s sl =>
      match k.slots.get sl with
      | .held b _ =>
        if b = beat then
          let a := k.at_ sl.val
          let h := HoHdr.of (s.csRd c a 64)
          let hb := hoBytes h.beat h.isEmpty h.stepLast x true h.stage h.mb h.payload h.bndMask h.bndVals
          s.updCluster c (fun v => { v with store := Mem.write 0 v.store a hb })
        else s
      | _ => s) s) s

/-- What a boundary finds of a stage's work: a beat not committed, or one whose hand-over or outbound transfers are not
done, has overrun (R157, R248); at the boundary after, a beat not committed has stalled (R158). -/
def lateCheck (s : State) (c : Cl) (x : Ctx) (n : Nat) : State :=
  match s.stage c x with
  | none => s
  | some g =>
    match g.run with
    | some r =>
      if r.failed.isSome || n ≤ r.beat then s
      else if x = .j1 then s
      else
        let s := overrunStage s c x r.beat r.outSel
        if r.beat + 2 ≤ n then
          let s := raise s { code := Code.BEAT_STALL, ctx := some x, unit := seqUnit c,
                             detail := toBytes 8 (r.beat % 2 ^ 48) ++ toBytes 8 (g.number % 65536) }
          failBeat s c x Code.BEAT_STALL
        else s
    | none =>
      match g.committed with
      | none => s
      | some b =>
        if b + 1 = n && (!g.outbound.isEmpty || (List.finRange 2).any (fun o => ((g.outs.get o).late b).isSome)) then
          markHeld (overrunStage s c x b none) c x b
        else s

/-! ## Preemption of J1 (R162 to R164) -/

/-- The J0 stage of a cluster leaves the cluster to J1: it runs nothing, for want of input or of a step (R162). -/
def State.j1Allowed (s : State) (c : Cl) : Bool :=
  match s.stage c .j0 with
  | none => true
  | some g => (match g.run with | none => true | some r => r.failed.isSome) &&
      (g.idle = .waitInput || g.idle = .waitInputOverrun || g.idle = .stepWait)

/-- Destinations pinned by a beat's outbound transfers are let go. -/
def unpinBeat (s : State) (c : Cl) (x : Ctx) : State :=
  (s.beatCmds c x).foldl (fun s k => match k.xfer with
    | some t => if t.pinned then pinObjs s t.objs (· - 1) else s
    | none => s) s

/-- Everything an uncommitted beat has done outside the slots is let go: its work, pins, held stores, requests, faults,
items, and what watches have seen of it (R164, R467, R531). -/
def discardBeat (s : State) (c : Cl) (x : Ctx) : State :=
  let s := dropWork (unpinBeat s c x) c x
  let s := s.updSeq c x (fun q => { q with remoteWrites := [], ueRaised := [] })
  let mine (q : OutReq) : Bool := match q.who with
    | .transfer c' x' _ _ => c' = c.val && x' = x
    | _ => false
  { s with
    fab := { s.fab with reqs := s.fab.reqs.filter (fun q => !mine q) },
    mem := { s.mem with kvHeld := s.mem.kvHeld.filter (fun k => !(k.cluster = c.val && k.ctx = x)) },
    goose := { s.goose with items := s.goose.items.filter (fun w => !(w.cluster = c && w.ctx = x)) },
    obs := { s.obs with watches := s.obs.watches.map (fun w => w.map (fun w =>
      if w.cluster = c.val && w.ctx = x then { w with seen := [] } else w)) } }

/-- The slots of a beat return: its input to READY, its output to FREE (R164). -/
def returnSlots (s : State) (c : Cl) (x : Ctx) : State :=
  match s.run c x with
  | none => s
  | some r =>
    s.updStage c x (fun g =>
      let g := match r.inSel with
        | some (i, sl) =>
          if h : i < 2 ∧ sl < 3 then
            { g with ins := upd g.ins ⟨i, h.1⟩ (fun q => { q with slots := upd q.slots ⟨sl, h.2⟩ (fun _ => InSt.ready q.nextMb r.emptyIn) }) }
          else g
        | none => g
      let g := match r.outSel with
        | some (o, sl) =>
          if h : o < 2 ∧ sl < 2 then
            { g with outs := upd g.outs ⟨o, h.1⟩ (fun q => { q with slots := upd q.slots ⟨sl, h.2⟩ (fun _ => OutSt.free) }) }
          else g
        | none => g
      { g with run := none })

/-- A running J1 beat is preempted: its results are discarded and it runs again from its first entry (R164). -/
def preemptJ1 (s : State) (c : Cl) : State :=
  match s.run c .j1 with
  | none => s
  | some r =>
    if r.failed.isSome || s.j1Allowed c then s
    else
      let s := bumpC s Cnt.J1_DISCARD_NS c (some .j1) (s.now - r.startedAt)
      let s := returnSlots (discardBeat s c .j1) c .j1
      s.updStage c .j1 (fun g => { g with idle := .j1Preempt })

/-! ## Starts (R152, R153, R159) -/

/-- A context starts beats at all: it is open and running, no boundary was lost or slipped, and no stop stands. -/
def State.startsBeats (s : State) (x : Ctx) : Bool :=
  let j := s.jobs.get x
  j.isOpen && j.begun && !j.halted && !j.lost && !j.slip && j.waitStep.isNone && !s.goose.stopCommits

/-- The bound registers a header carries are written (R153). -/
def loadBounds (s : State) (c : Cl) (x : Ctx) (h : HoHdr) : State :=
  ((List.range 32).filter (fun i => bit h.bndMask i)).zipIdx.foldl (fun s (p : Nat × Nat) => setBound s c x p.1 (h.bndVals.getD p.2 0)) s

/-- A slot of an input that holds the next packet READY. -/
def StageIn.next (q : StageIn) : Option (Fin 3 × Bool) :=
  (List.finRange 3).findSome? (fun sl => match q.slots.get sl with
    | .ready mb e => if mb = q.nextMb then some (sl, e) else none
    | _ => none)

/-- A FREE slot of an output, the lowest-numbered. -/
def StageOut.freeSlot (q : StageOut) : Option (Fin 2) := (List.finRange 2).find? (fun sl => q.slots.get sl == .free)

/-- A stage that starts nothing idles for a cause (R159). -/
def idleAs (s : State) (c : Cl) (x : Ctx) (i : Idle) : State := s.updStage c x (fun g => { g with idle := i })

/-- The beat of a stage starts (R153): with an empty packet no program runs. -/
def beginBeat (s : State) (c : Cl) (x : Ctx) (g : Stage) (prog : Nat) (inp : Option (Fin 2 × Fin 3 × Bool)) (out : Option (Fin 2 × Fin 2)) : State :=
  let j := s.jobs.get x
  let emptyIn : Bool := match inp with | some (_, _, e) => e | none => false
  let r : BeatRun :=
    { beat := j.beat, entry := g.pos, inSel := inp.map (fun p => (p.1.val, p.2.1.val)), outSel := out.map (fun p => (p.1.val, p.2.val)),
      prog := prog, ended := emptyIn, emptyIn := emptyIn, startedAt := s.now, step := j.step }
  let s := s.updStage c x (fun g => { g with run := some r })
  let s := s.updSeq c x (fun q => { q with ueRaised := [] })
  let s := match out with
    | some (o, sl) => s.updOut c x o (fun q => { q with slots := upd q.slots sl (fun _ => OutSt.writing) })
    | none => s
  match inp with
  | none => s
  | some (i, sl, _) =>
    let s := s.updIn c x i (fun q => { q with slots := upd q.slots sl (fun _ => InSt.active) })
    loadBounds s c x (HoHdr.of (s.csRd c ((g.ins.get i).at_ sl.val) 64))

/-- The input a schedule entry takes: none needed, the packet ready, or why the stage waits. -/
inductive InTake where
  | none
  | ready (i : Fin 2) (sl : Fin 3) (isEmpty : Bool)
  | wait (why : Idle)
  | bad (i : Fin 2)
  deriving DecidableEq, Repr

/-- What InSel finds (R152, R149, R159). -/
def Stage.take (g : Stage) (sel : Nat) : InTake :=
  if h : sel < 2 then
    let q := g.ins.get ⟨sel, h⟩
    match q.next with
    | some (sl, e) => .ready ⟨sel, h⟩ sl e
    | none => if q.bad then .bad ⟨sel, h⟩ else .wait (if q.overrun.contains q.nextMb then .waitInputOverrun else .waitInput)
  else .none

/-- A stage starts its next beat at a boundary, or waits (R152, R162, R248). -/
def startStage (s : State) (c : Cl) (x : Ctx) : State :=
  match s.stage c x with
  | none => s
  | some g =>
    if g.run.isSome then s
    else if !s.clusterUp c || !s.startsBeats x then idleAs s c x .stepWait
    else if x = .j1 && !s.j1Allowed c then idleAs s c x .j1Preempt
    else
      match g.schedule[g.pos]? with
      | none => idleAs s c x .stepWait
      | some e =>
        if !g.outbound.isEmpty then idleAs s c x .overrunDefer
        else
          let (inSel, prog, outSel, _) := schedOf e
          let go (inp : Option (Fin 2 × Fin 3 × Bool)) : State :=
            if h : outSel < 2 then
              match (g.outs.get ⟨outSel, h⟩).freeSlot with
              | none => idleAs s c x .blockedOutput
              | some sl => beginBeat s c x g prog inp (some (⟨outSel, h⟩, sl))
            else beginBeat s c x g prog inp none
          match g.take inSel with
          | .wait w => idleAs s c x w
          | .none => go none
          | .ready i sl em => go (some (i, sl, em))
          | .bad _ => failBeat (beginBeat s c x g prog none none) c x Code.HANDOVER_BAD

/-! ## Boundaries -/

/-- A StepStart boundary returns every schedule and every MbIdx to 0 (R136). -/
def Stage.restart (g : Stage) : Stage :=
  { g with pos := 0,
           ins := g.ins.map (fun q => { q with nextMb := 0, nextLand := 0, overrun := [] }),
           outs := g.outs.map (fun q => { q with nextMb := 0 }) }

/-- What a StepStart boundary does to the context (R136, R161, R416, R442, R468). -/
def stepStart (s : State) (x : Ctx) (m : BeatMsg) : State :=
  let refused := (s.jobs.get x).refused
  let s := s.updJob x (fun j => { j with
    step := m.step, stepDone := [], stepDoneSent := false, overruns := 0, agreed := none, stepStartReady := false,
    rewindTo := none, updateStarted := false, refused := false,
    longStep := (if m.periodNew then m.period else j.period) = 256000,
    waitStep := if j.waitStep = some m.step then none else j.waitStep })
  let s := (List.finRange 40).foldl (fun s c => s.updStage c x Stage.restart) s
  let s := rebuildTrees s x
  let s := completeAll s CmdCode.jobStart (ctxNo x) Code.OK
  completeAll s CmdCode.beatPeriod (ctxNo x) (if refused then Code.BEAT_PERIOD_REFUSED else Code.OK)

/-- A boundary of a context is applied now (R140, R152, R158, R162): the beat advances, BEAT_OUT is driven, late beats are
noted, J0's stages start before J1 is let run or preempted. -/
def applyBoundary (s : State) (x : Ctx) (m : BeatMsg) : State :=
  let s := s.updJob x (fun j => { j with beat := m.beat, begun := true, boundaryAt := s.now, period := if m.periodNew then m.period else j.period })
  let s := { s with pins := { s.pins with beatOut := some (s.now + 50) },
                    obs := { s.obs with pcs := if x = .j0 || !s.jobs.j0.isOpen then s.obs.pcs.map (fun p => { p with beatInc := 0 }) else s.obs.pcs } }
  let s := logEvent s 0 { ts := s.now, kind := 2, seqNum := m.beat % 2 ^ 32 }
  let s := if m.stepStart then stepStart s x m else s
  let s := (List.finRange 40).foldl (fun s c => lateCheck s c x m.beat) s
  let s := (List.finRange 40).foldl (fun s c =>
    let s := startStage s c x
    if x = .j0 then
      let s := preemptJ1 s c
      if (s.run c .j1).isNone then startStage s c .j1 else s
    else s.updRun c .j1 (fun r => { r with beat := m.beat })) s
  checkStepDone s x

/-- BEAT_BOUNDARY (R139, R152): the oldest message whose boundary is due. -/
def beatBoundary (x : Ctx) (s : State) : State :=
  match (s.jobs.get x).due with
  | [] => s
  | d :: rest =>
    match d.at_ with
    | none => s
    | some t => if s.now < t then s else applyBoundary (s.updJob x (fun j => { j with due := rest })) x d.msg

def execBeatBoundary (x : Ctx) (s : State) : Host.Outcome State Fault Refusal := .next (beatBoundary x s)

/-! ## Beat messages (R137, R139 to R144) -/

/-- Devices at the far ends of a set of ports. -/
def State.peersOf (s : State) (mask : Nat) : List Nat :=
  (List.finRange 12).filterMap (fun p => if bit mask p.val then (s.fab.ports.get p).peer.map (·.devNum) else none)

/-- The beat number the device expects next (R142). -/
def Job.expected (j : Job) : Nat :=
  match j.due.getLast? with
  | some d => d.msg.beat + 1
  | none => if j.begun then j.beat + 1 else j.beat

/-- The message the master sends next (R137, R160, R161, R467). -/
def State.nextBeat (s : State) (x : Ctx) : BeatMsg :=
  let j := s.jobs.get x
  let start := (!j.begun && j.due.isEmpty) || j.stepStartReady || j.rewindTo.isSome
  let fresh := start && !j.due.any (fun d => d.msg.stepStart)
  { beat := j.expected, master := s.ident.devNum,
    step := if !fresh then j.step else match j.rewindTo with | some n => n | none => if j.begun then j.step + 1 else j.startStep,
    stepStart := fresh, periodNew := fresh && j.agreed.isSome, period := j.agreed.getD j.period }

/-- The master may send: every device of the tree has issued job.start, and a period has passed since the last message. -/
def State.mayBeat (s : State) (x : Ctx) : Bool :=
  let j := s.jobs.get x
  j.startIssued && j.members.all (fun m => j.startedBy.contains m.1) &&
    ((!j.begun && j.due.isEmpty) || j.arrivedAt + j.period ≤ s.now)

/-- A phase error as far as one beat takes it up: at most 1 µs (R141). -/
def rephase (want aim : Nat) : Nat := if want < aim then want + min 1000 (aim - want) else want - min 1000 (want - aim)

/-- When the boundary of a message arriving now is due (R139, R140, R141). -/
def State.dueTime (s : State) (x : Ctx) : Option Nat :=
  let j := s.jobs.get x
  if s.pins.beatSrc then none
  else
    let t := s.now + j.beatDelay
    some (if j.missed != 0 && j.begun then rephase (j.boundaryAt + j.period) t else t)

/-- A message of the master is accepted (R139, R142). -/
def acceptBeat (s : State) (x : Ctx) (m : BeatMsg) : State :=
  let j := s.jobs.get x
  if j.slip then s
  else if (j.begun || !j.due.isEmpty) && m.beat != j.expected then
    raiseCtx (s.updJob x (fun j => { j with slip := true })) Code.BEAT_SLIP (some x) { cls := 0 } j.beat m.beat
  else s.updJob x (fun j => { j with due := j.due ++ [{ msg := m, arrived := s.now, at_ := s.dueTime x }], arrivedAt := s.now, missed := 0 })

/-- BEAT (R137): the message is forwarded to the children and its boundary is due. On the device that sends the beat, the
row is the sending of the message its state calls for. -/
def beatStep (x : Ctx) (msg : BeatMsg) (s : State) : State :=
  let j := s.jobs.get x
  if !j.isOpen then s
  else if j.sender = s.ident.devNum then
    if !s.mayBeat x then s
    else
      let m := s.nextBeat x
      let s := (s.peersOf j.children).foldl (fun s d => send s (ctlPkt 0x01 d m.bytes)) s
      acceptBeat s x m
  else if msg.master != j.sender then s
  else
    let s := (s.peersOf j.children).foldl (fun s d => send s (ctlPkt 0x01 d { msg with hops := msg.hops + 1 }.bytes)) s
    acceptBeat s x msg

def execBeat (x : Ctx) (msg : BeatMsg) (s : State) : Host.Outcome State Fault Refusal := .next (beatStep x msg s)

/-- A BEAT_IN edge for one context: its first message that arrived at least 2 µs before gives the boundary 40 ns later
(R140, R636). -/
def edgeFor (s : State) (x : Ctx) : State :=
  match (s.jobs.get x).due with
  | d :: rest =>
    if d.at_.isNone && d.arrived + 2000 ≤ s.now then
      s.updJob x (fun j => { j with due := { d with at_ := some (s.now + 40) } :: rest })
    else s
  | [] => s

/-- BEAT_IN_EDGE (R636). -/
def beatInEdge (highNs : Nat) (s : State) : State :=
  if !s.pins.beatSrc || highNs < 20 then s else edgeFor (edgeFor s .j0) .j1

def execBeatInEdge (highNs : Nat) (s : State) : Host.Outcome State Fault Refusal := .next (beatInEdge highNs s)

/-- The device gives up on the beat (R141): neither context starts a beat until job.open. -/
def loseBeat (s : State) (x : Ctx) : State :=
  let s := raiseCtx s Code.BEAT_LOST (some x) { cls := 0 } (s.jobs.get x).beat 0
  (s.updJob .j0 (fun j => { j with lost := true })).updJob .j1 (fun j => { j with lost := true })

/-- The boundary a device applies from its own timer (R141): under BeatSrc = 1 with the flags of a message that has come
too late for its edge. -/
def ownBoundary (s : State) (x : Ctx) : State :=
  let j := s.jobs.get x
  let s := if j.diag then s else bump s { code := Cnt.BEAT_MISS, ctx := some x }
  let s := s.updJob x (fun j => { j with missed := if j.diag then 0 else j.missed + 1, arrivedAt := j.arrivedAt + j.period })
  let s := if (s.jobs.get x).missed = 256 && !j.lost then loseBeat s x else s
  match j.due with
  | d :: rest => applyBoundary (s.updJob x (fun j => { j with due := rest })) x d.msg
  | [] => applyBoundary s x { beat := j.beat + 1, master := j.sender, step := j.step, stepStart := false, periodNew := false, period := j.period }

/-- BEAT_MISS (R141): 1 µs after the expected arrival, and not before the boundary the message would have given. -/
def beatMiss (x : Ctx) (s : State) : State :=
  let j := s.jobs.get x
  let late : Bool := match j.due with
    | [] => j.arrivedAt + j.period + max 1000 j.beatDelay ≤ s.now
    | d :: _ => d.at_.isNone && j.boundaryAt + j.period + 1000 ≤ s.now
  if !j.isOpen || !j.begun || (j.sender = s.ident.devNum && j.due.isEmpty) || !late then s else ownBoundary s x

def execBeatMiss (x : Ctx) (s : State) : Host.Outcome State Fault Refusal := .next (beatMiss x s)

end Sys2Proof.Machine
end

