-- ==== Sys2Proof/Machine/Records.lean ====
section
/-! DEFINITION. Fault records as bytes, and the fault log in flash (R480 to R489). -/

namespace Sys2Proof.Machine

/-! ## The record (R480, R481, PRESUMED, log entry 42 for the parts of the UEFI layout) -/

/-- A GUID in its little-endian form: B7057A40-0001-4D31-9F00-00000000000n. -/
def brostanGuid (n : Nat) : List Byte :=
  toBytes 4 0xB7057A40 ++ toBytes 2 0x0001 ++ toBytes 2 0x4D31 ++ [0x9F, 0x00, 0, 0, 0, 0, 0, BitVec.ofNat 8 n]

/-- ASCII bytes of a decimal number. -/
def digits (n : Nat) : List Byte := (Nat.repr n).toList.map (fun c => BitVec.ofNat 8 c.toNat)

/-- ASCII bytes of a text. -/
def ascii (t : String) : List Byte := t.toList.map (fun c => BitVec.ofNat 8 c.toNat)

/-- Name of a cluster: two decimal digits (R4). -/
def clusterName (c : Nat) : List Byte := ascii "C" ++ (if c < 10 then ascii "0" else []) ++ digits c

/-- Name of a unit (R4, PRESUMED, log entry 42). -/
def unitName (cls unit sub : Nat) : List Byte :=
  if cls = 1 then clusterName unit ++ ascii ".E" ++ digits sub
  else if cls = 2 then clusterName unit ++ ascii ".VE"
  else if cls = 3 then clusterName unit ++ ascii ".SEQ"
  else if cls = 4 then clusterName unit ++ ascii ".CS"
  else if cls = 5 then clusterName unit ++ ascii ".CC"
  else if cls = 6 then ascii "LLM" ++ digits unit
  else if cls = 7 then ascii "H" ++ digits (unit / 32) ++ ascii "." ++ digits (unit % 32)
  else if cls = 8 then ascii "P" ++ digits unit
  else if cls = 9 then ascii "HD" ++ digits unit ++ ascii ".CE"
  else if cls = 0xA then ascii "OX" ++ ascii "H" ++ digits (unit / 32) ++ ascii "." ++ digits (unit % 32)
  else if cls = 0xB then ascii "HD" ++ digits unit ++ ascii ".CODEC"
  else ascii "MULE"

/-- Firmware version word of R586. -/
def fwVersion : Nat := Config.fwBuild.toNat + place Config.fwMinor.toNat 16 + place 3 24

/-- The vendor section (R481). -/
def FaultRec.section_ (r : FaultRec) : List Byte :=
  toBytes 2 0x0003 ++ toBytes 2 r.eventCode ++ toBytes 1 r.unitClass ++ toBytes 1 r.action ++ toBytes 1 r.strikes ++ toBytes 1 r.flags ++
  toBytes 2 r.devNum ++ toBytes 2 r.origDevNum ++ toBytes 2 r.unitIndex ++ toBytes 2 r.subIndex ++ toBytes 8 r.jobId ++
  toBytes 6 r.beatNum ++ toBytes 2 0 ++ toBytes 6 r.stepNum ++ toBytes 2 r.treeGen ++ toBytes 8 r.ts ++
  toBytes 8 Config.moduleSerial.toNat ++ toBytes 4 r.count ++ toBytes 4 fwVersion ++
  toBytes 8 r.digestOrig ++ toBytes 8 r.digestReplay ++ toBytes 8 r.digestRef ++ toBytes 2 r.buddyDev ++ toBytes 6 0 ++
  slice r.detail 0 32

/-- The 328 bytes of a record. -/
def FaultRec.bytes (r : FaultRec) : List Byte :=
  ascii "CPER" ++ toBytes 2 0x0101 ++ toBytes 4 0xFFFFFFFF ++ toBytes 2 1 ++ toBytes 4 r.severity ++
  toBytes 4 (2 * b2n r.hostTime.isSome) ++ toBytes 4 328 ++ toBytes 8 (r.hostTime.getD 0) ++
  List.replicate 32 0 ++ brostanGuid 1 ++ brostanGuid 2 ++ toBytes 8 r.recordId ++ List.replicate 24 0 ++
  toBytes 4 200 ++ toBytes 4 128 ++ toBytes 2 0x0101 ++ List.replicate 2 0 ++ toBytes 4 1 ++ brostanGuid 3 ++
  List.replicate 16 0 ++ toBytes 4 r.severity ++ slice (ascii "PM1 " ++ unitName r.unitClass r.unitIndex r.subIndex) 0 20 ++ r.section_

/-- A slot of the log (R486): SlotSeq, Length, contents, checksum. -/
def slotBytes (seq len : Nat) (content : List Byte) : List Byte :=
  let b := slice (toBytes 4 seq ++ toBytes 2 len ++ toBytes 2 0 ++ content) 0 508
  b ++ toBytes 4 (crc32 b)

/-- A slot of the persistent part (R487). -/
def PSlot.bytes : PSlot → List Byte
  | .record seq r => slotBytes seq 328 r.bytes
  | .clear seq cleared => slotBytes seq 0 (toBytes 4 cleared)
  | .marker seq => slotBytes seq 1 []

/-! ## Summaries (R485) -/

/-- Severity of an event code (R482). -/
def sevOf (event : Nat) : Nat :=
  if event = 0x0101 || event = 0x0102 || event = 0x0202 || event = 0x0301 || event = 0x0501 then 2
  else if event = 0x0303 || event = 0x0402 then 3
  else if event = 0x0601 || event = 0x0602 then 1 else 0

/-- CPER_SUMMARY (R485): once an hour, one record for each unit and event code with a count. -/
def cperSummary (s : State) : State :=
  if s.now < s.log.summaryAt + 3600000000000 then s
  else
    let l := s.log.pendingSummary
    let s := { s with log := { s.log with summaryAt := s.now, pendingSummary := [] } }
    l.foldl (fun s e => (logRec s
      { severity := sevOf e.2.2.2.1, eventCode := e.2.2.2.1, unitClass := e.1, unitIndex := e.2.1, subIndex := e.2.2.1,
        action := if sevOf e.2.2.2.1 = 2 then 1 else 0, flags := 4, count := e.2.2.2.2 }).1) s

def execCperSummary (s : State) : Host.Outcome State Fault Refusal := .next (cperSummary s)

/-! ## The persistent part (R487, R488) -/

/-- SlotSeqs that clearing marks of a sector name. -/
def clearedOf (sec : List PSlot) : List Nat := sec.filterMap (fun p => match p with | .clear _ c => some c | _ => none)

/-- Live records of a sector with their SlotSeqs. -/
def liveOf (sec : List PSlot) : List (Nat × FaultRec) :=
  let gone := clearedOf sec
  sec.filterMap (fun p => match p with
    | .record q r => if gone.contains q then none else some (q, r)
    | _ => none)

/-- The active sector. -/
def FaultLog.activeSec (l : FaultLog) : List PSlot := if l.active = 0 then l.sector0 else l.sector1

/-- A sector replaced. -/
def FaultLog.setSec (l : FaultLog) (i : Nat) (sec : List PSlot) : FaultLog := if i = 0 then { l with sector0 := sec } else { l with sector1 := sec }

/-- The unit of a record has been fused (R488, R597). -/
def State.fused (s : State) (r : FaultRec) : Bool := s.ident.fuses.contains (r.unitClass, r.unitIndex, r.subIndex)

/-- Compaction (R488): live records of units not fused go to the other sector, which becomes active; none where they and one
more would not fit. -/
def compact (s : State) (room : Nat) : Option State :=
  let live := ((liveOf s.log.activeSec).filter (fun p => !s.fused p.2)).mergeSort (fun a b => decide (a.1 ≤ b.1))
  if 127 < live.length + room then none
  else
    let o := 1 - s.log.active
    let seq := s.log.lastSeq + 1
    some { s with log := { (s.log.setSec o (live.map (fun p => .record p.1 p.2) ++ [.marker seq])) with active := o, lastSeq := seq } }

/-- A slot written into the persistent part, after a compaction where the active sector is full. A record that would leave
more than 127 live ones is dropped from it, and counted. -/
def putPersistent (s : State) (p : PSlot) (isRec : Bool) : State :=
  let add (s : State) : State := { s with log := s.log.setSec s.log.active (s.log.activeSec ++ [p]) }
  if s.log.activeSec.length < 128 then add s
  else
    match compact s (b2n isRec) with
    | some s => add s
    | none => bump s { code := Cnt.LOG_DROP }

/-! ## FAULT_LOG_WRITE (R486, R489, R578, R622) -/

/-- The hold-up energy check (R622): 1.2 J. -/
def State.energyOk (s : State) : Bool := 1200 ≤ s.power.bankMj

/-- A record written into the ring: a full sector is erased when the ring reaches it. -/
def putRing (s : State) (r : FaultRec) : State :=
  let i := s.log.ringNext
  let sec := i / 128
  let full : Bool := i % 128 = 0 && s.log.ring.any (fun e => e.1 / 128 = sec)
  let ring := (if full then s.log.ring.filter (fun e => e.1 / 128 != sec) else s.log.ring) ++ [(i, r)]
  let s := { s with log := { s.log with ring := ring, ringNext := (i + 1) % 16384 } }
  if full then bump s { code := Cnt.LOG_WRAP } else s

/-- FAULT_LOG_WRITE: the oldest waiting record, once the energy check passes and no host flash command runs. -/
def faultLogWrite (s : State) : State :=
  match s.log.waiting with
  | [] => s
  | r :: rest =>
    if !s.energyOk || s.power.flashBusy then s
    else
      let s := putRing { s with log := { s.log with waiting := rest } } r
      if bit r.flags 3 then putPersistent s (.record r.recordId r) true else s

def execFaultLogWrite (s : State) : Host.Outcome State Fault Refusal := .next (faultLogWrite s)

end Sys2Proof.Machine
end

