-- ==== Sys2Proof/Machine/Mailbox.lean ====
section
/-! DEFINITION. The mailbox: what every command meets at its start, the session commands, and the mailbox's own timers and
doorbells (R538 to R565, R608 to R612). -/

namespace Sys2Proof.Machine

/-! ## The start of a command (R540, R548 to R556, R562, R565) -/

/-- What the command tables say of a command: its code, its payload's length and reserved bits, the Foal column, its feature
bit (R550), whether version 3 alone has it (R549), and whether it acts on the context its entry names. -/
structure CmdSpec where
  code : Nat
  lenOk : List Byte → Bool := fun p => p.isEmpty
  /-- Bit offset of the first reserved field or code that is not zero. -/
  bad : List Byte → Option Nat := fun _ => none
  foal : State → List Byte → Bool := fun _ _ => true
  feature : Option Nat := none
  v3 : Bool := false
  ctx : Bool := false

/-- A payload of exactly `n` bytes. -/
def lenIs (n : Nat) (p : List Byte) : Bool := p.length = n

/-- First bit not zero among ranges of a payload: byte offset of a 64-bit word, high bit, low bit. -/
def firstBit (p : List Byte) (rs : List (Nat × Nat × Nat)) : Option Nat :=
  rs.findSome? (fun r =>
    let v := fld p r.1 r.2.1 r.2.2
    if v = 0 then none else ((List.range 64).find? (bit v)).map (fun i => 8 * r.1 + r.2.2 + i))

/-- The service Mule gives (R561): Foal or full. -/
def State.serving (s : State) : Bool := s.sys.service = .foal || s.sys.service = .full

/-- Started commands of a queue. -/
def State.startedOf (s : State) (q : Fin 16) : List Started := s.mbx.started.filter (fun k => k.cmd.q = q && k.sess)

/-- A queue's limits and barriers let its next command start (R554, R556). -/
def State.mayStart (s : State) (m : MCmd) : Bool :=
  let mine := s.startedOf m.q
  mine.length < 16 && s.mbx.started.length < 128 && !mine.any (fun k => k.cmd.barrier) && !(m.barrier && !mine.isEmpty)

/-- Mule can start a command: it serves, and the command's queue is enabled and not held. -/
def State.canStart (s : State) (m : MCmd) : Bool :=
  if m.q.val = 0 then s.sys.muleUp && !s.mbx.q0Busy
  else s.serving && (s.mbx.queues.get m.q).enable && s.mayStart m

/-- Detail of NOT_READY (R552): milliseconds to full service, and the service. -/
def notReady (s : State) (code : Nat) (m : MCmd) : State :=
  let at_ := s.sys.resetAt + 1200000000
  answer s code m Code.NOT_READY (cdiv (at_ - s.now) 1000000) (b2n (s.sys.service = .full))

/-- DESC_INVALID outside a descriptor (R552): the bit offset of the field within the payload. -/
def badField (s : State) (code : Nat) (m : MCmd) (off : Nat) : State := answer s code m Code.DESC_INVALID 0xFFFF off

/-- Commands Q0 carries (R538). -/
def q0Code (code : Nat) : Bool :=
  code = CmdCode.idRead || code = CmdCode.idCapRead || code = CmdCode.pwrStatus || code = CmdCode.faultCperRead

/-- The session's refusals (R548 to R550): 0 for none. -/
def State.sessionErr (s : State) (sp : CmdSpec) (m : MCmd) : Nat :=
  let q := s.mbx.queues.get m.q
  if m.q.val = 0 then (if q0Code sp.code then 0 else Code.BAD_CODE)
  else if sp.code = CmdCode.mbxOpen then (if q.isOpen then Code.SESSION_OPEN else 0)
  else if !q.isOpen then Code.NO_SESSION
  else if q.closing then Code.ABORTED
  else if sp.v3 && q.version < 3 then Code.BAD_CODE
  else match sp.feature with
    | some b => if bit q.features b then 0 else Code.BAD_CODE
    | none => 0

/-- The context a command's entry names (R539). -/
def MCmd.ctxt (m : MCmd) : CtxNo := ctxOf m.ctx.toNat

/-- A command starts (DESIGN CHOICE, log entry 35 for the order of the checks): refused, or its effect. -/
def startCmd (sp : CmdSpec) (m : MCmd) (s : State) (act : State → State) : State :=
  if !s.canStart m then s
  else
    let e := s.sessionErr sp m
    if e != 0 then answer s sp.code m e
    else if m.payloadErr then answer s sp.code m Code.BAD_ADDR
    else if !sp.lenOk m.payload then answer s sp.code m Code.BAD_LEN
    else if s.sys.service = .foal && m.q.val != 0 && !sp.foal s m.payload then notReady s sp.code m
    else if m.ctx = 3 then badField s sp.code m 0
    else
      match sp.bad m.payload with
      | some b => badField s sp.code m b
      | none =>
        if sp.ctx && (match m.ctxt with | some x => !(s.jobs.get x).isOpen | none => true) then answer s sp.code m Code.NO_JOB
        else act s

/-- The context a command acts on, once `startCmd` has found it open. -/
def MCmd.jobCtx (m : MCmd) : Ctx := m.ctxt.getD .j0

/-! ## Session commands (R548 to R550, R558, R566) -/

/-- Feature bits of the device (R550). -/
def State.features (s : State) : Nat :=
  place 1 0 + place (b2n ((List.finRange 256).any (fun ch =>
    let k := s.mem.chans.get ch; !k.absent && !k.fenced && !k.oxFenced))) 1 + place 1 2 + place 1 3




def specOpen : CmdSpec := { code := CmdCode.mbxOpen, lenOk := lenIs 24, bad := fun p => firstBit p [(0, 31, 17), (16, 63, 32)] }

/-- MBX_OPEN (R548 to R550). -/
def mbxOpen (m : MCmd) (s : State) : State :=
  startCmd specOpen m s (fun s =>
    let p := m.payload
    let lo := fld p 0 7 0
    let hi := fld p 0 15 8
    let persist := fld p 16 31 0
    if 10000 < persist then badField s specOpen.code m 128
    else if (3 < lo || hi < 3) && (2 < lo || hi < 2) then answer s specOpen.code m Code.VERSION_NONE
    else
      let v := if lo ≤ 3 && 3 ≤ hi then 3 else 2
      let f := if v = 2 then 0 else u64At p 8 &&& s.features
      let s := s.updQueue m.q (fun q => { q with
        isOpen := true, closing := false, version := v, features := f, priority := bit (fld p 0 16 16) 0,
        coalesceNs := fld p 0 63 32, persistMs := if persist = 0 then 100 else persist })
      answer s specOpen.code m Code.OK
        (v + place (b2n (s.sys.service = .full)) 8 + place (b2n s.ident.fwSlot) 10 + place fwVersion 32) f)

def execMbxOpen (m : MCmd) (s : State) : Host.Outcome State Fault Refusal := .next (mbxOpen m s)

def specClose : CmdSpec := { code := CmdCode.mbxClose }

/-- MBX_CLOSE (R558): it completes last. -/
def mbxClose (m : MCmd) (s : State) : State :=
  startCmd specClose m s (fun s =>
    finishCloses (startLater (s.updQueue m.q (fun q => { q with closing := true })) specClose.code m m.q.val))

def execMbxClose (m : MCmd) (s : State) : Host.Outcome State Fault Refusal := .next (mbxClose m s)

def specNop : CmdSpec := { code := CmdCode.mbxNop }

/-- MBX_NOP (R566). -/
def execMbxNop (m : MCmd) (s : State) : Host.Outcome State Fault Refusal :=
  .next (startCmd specNop m s (fun s => answer s specNop.code m Code.OK (s.now % 2 ^ 64)))

def specCancel : CmdSpec := { code := CmdCode.mbxCancel, lenOk := lenIs 8, bad := fun p => firstBit p [(0, 63, 16)] }

/-- MBX_CANCEL (R558): the unstarted entries of the queue are those from FetchIdx to the doorbell's index, whose first words
Mule has read from the ring; each one with the Tag will end ABORTED. -/
def mbxCancel (m : MCmd) (s : State) : State :=
  startCmd specCancel m s (fun s =>
    let q := s.mbx.queues.get m.q
    let n := 2 ^ q.sizeLog2
    let waiting := (List.range ((q.cmdDbl + n - q.fetchIdx) % n)).map (fun i => (q.fetchIdx + i) % n)
    let hit := (waiting.zip m.answers).filter (fun w => bits w.2 31 16 = fld m.payload 0 15 0 && !q.cancelled.contains w.1)
    let mark (q : MQueue) : MQueue := { q with cancelled := q.cancelled ++ hit.map (·.1) }
    answer (s.updQueue m.q mark) specCancel.code m Code.OK hit.length)

def execMbxCancel (m : MCmd) (s : State) : Host.Outcome State Fault Refusal := .next (mbxCancel m s)

/-! ## Timers (R544, R557, R559) -/

/-- CMD_SLOW (R559): commands still incomplete 10 s after their start, once each. -/
def cmdSlow (s : State) : State :=
  let late := s.mbx.started.filter (fun k => !k.slow && k.at_ + 10000000000 ≤ s.now)
  let mark (k : Started) : Started := { k with slow := k.slow || decide (k.at_ + 10000000000 ≤ s.now) }
  let s := { s with mbx := { s.mbx with started := s.mbx.started.map mark } }
  late.foldl (fun s k =>
    let detail := toBytes 8 (k.cmd.q.val + place k.cmd.tag.toNat 16 + place k.code 32)
    raise s { code := Code.CMD_SLOW, unit := { cls := 0xC }, detail := detail }) s

def execCmdSlow (s : State) : Host.Outcome State Fault Refusal := .next (cmdSlow s)

/-- MBX_OVERLOAD (R557): a queue has been held or refused continuously for longer than MbxPersist; after a full MbxPersist
without either it can be raised again. -/
def mbxOverload (q : Fin 16) (s : State) : State :=
  let k := s.mbx.queues.get q
  let ns := k.persistMs * 1000000
  match k.heldSince with
  | some t =>
    if k.overloaded || s.now ≤ t + ns then s
    else raise (s.updQueue q (fun k => { k with overloaded := true })) { code := Code.MBX_OVERLOAD, unit := { cls := 0xC }, detail := detailOf 0 q.val 0 }
  | none => if k.overloaded && k.heldLast.getD 0 + ns ≤ s.now then s.updQueue q (fun k => { k with overloaded := false }) else s

def execMbxOverload (q : Fin 16) (s : State) : Host.Outcome State Fault Refusal := .next (mbxOverload q s)

/-- MSIX_COALESCE (R544): the interval of a queue's vector ends with a response unsignalled. -/
def msixCoalesce (q : Fin 16) (s : State) : State :=
  let k := s.mbx.queues.get q
  if !k.msiDue || (match k.lastMsi with | some t => s.now < t + k.coalesceNs | none => false) then s
  else sendMsix (s.updQueue q (fun k => { k with msiDue := false, lastMsi := some s.now })) q

def execMsixCoalesce (q : Fin 16) (s : State) : Host.Outcome State Fault Refusal := .next (msixCoalesce q s)

/-! ## Doorbells (R543, R611, R612) -/

/-- An access recorded in FLT_ACCESS_ADDR and FLT_ACCESS_INFO (R581, R607). -/
def recordAccess (s : State) (bar4 : Bool) (off cause : Nat) : State :=
  { s with regs := { s.regs with accOffset := off, accBar4 := bar4, accCause := cause, accCount := min 0xFFFF (s.regs.accCount + 1) } }

/-- Off drops a doorbell silently; one its ring cannot take is recorded (R612). -/
def doorbell (s : State) (off : Nat) (ok : Bool) (act : State → State) : State :=
  if s.sys.service = .off then s else if ok then act s else recordAccess s true off 5

/-- DBL_CMD. -/
def dblCmd (q : Fin 16) (index : BitVec 16) (s : State) : State :=
  let k := s.mbx.queues.get q
  doorbell s (0x1000 * q.val) (q.val != 0 && k.enable && index.toNat < 2 ^ k.sizeLog2)
    (fun s => s.updQueue q (fun k => { k with cmdDbl := index.toNat }))

def execDblCmd (q : Fin 16) (index : BitVec 16) (s : State) : Host.Outcome State Fault Refusal := .next (dblCmd q index s)

/-- Entries from an index of a ring to another. -/
def ringDist (n a b : Nat) : Nat := (b + n - a % n) % n

/-- DBL_CPL: responses up to the index have been read. -/
def dblCpl (q : Fin 16) (index : BitVec 16) (s : State) : State :=
  let k := s.mbx.queues.get q
  let n := 2 ^ k.sizeLog2
  let read := ringDist n k.cplDbl index.toNat
  doorbell s (0x1000 * q.val + 4) (q.val != 0 && k.enable && index.toNat < n && (read ≤ k.rspUnread))
    (fun s => s.updQueue q (fun k => { k with cplDbl := index.toNat, rspUnread := k.rspUnread - read, outstanding := k.outstanding - read }))

def execDblCpl (q : Fin 16) (index : BitVec 16) (s : State) : Host.Outcome State Fault Refusal := .next (dblCpl q index s)

/-- DBL_EVT: events up to the index have been read; lost ones are reported once there is room (R546). -/
def dblEvt (index : BitVec 16) (s : State) : State :=
  let r := s.mbx.evt
  let n := 2 ^ r.sizeLog2
  let left := ringDist n index.toNat r.writeIdx
  let left := if left = 0 && r.unread = n && index.toNat = (r.writeIdx + n - r.unread % n) % n then n else left
  doorbell s 0x10000 (r.enable && index.toNat < n && left ≤ r.unread)
    (fun s => flushLost { s with mbx := { s.mbx with evt := { s.mbx.evt with unread := left } } })

def execDblEvt (index : BitVec 16) (s : State) : Host.Outcome State Fault Refusal := .next (dblEvt index s)

/-! ## The end of a session (R560, R589, R610) -/

/-- A queue closes: unstarted commands end with no response, and responses of started ones are discarded. -/
def shutQueue (s : State) (q : Fin 16) : State :=
  let shut (k : Started) : Started := { k with sess := k.sess && decide (k.cmd.q ≠ q) }
  let s := { s with mbx := { s.mbx with started := s.mbx.started.map shut } }
  s.updQueue q (fun k => { k with
    enable := false, isOpen := false, closing := false, cancelled := [], features := 0, version := 0, msiDue := false,
    heldSince := none, overloaded := false })

/-- Commands whose queue has closed and that wait only for it end. -/
def dropCloses (s : State) : State :=
  { s with mbx := { s.mbx with started := s.mbx.started.filter (fun k => k.sess || k.code != CmdCode.mbxClose) } }

/-- PCIE_RESET (R560, R583): every host queue and the event ring close, and the MBX_ registers and doorbells are reset. -/
def pcieReset (s : State) : State :=
  let s := ((List.finRange 16).filter (fun q => q.val != 0)).foldl (fun s q => (shutQueue s q).updQueue q (fun k =>
    { ({} : MQueue) with heldLast := k.heldLast })) s
  let evt : EvtRing := { seq := s.mbx.evt.seq, lostFirst := s.mbx.evt.lostFirst, lostCount := s.mbx.evt.lostCount }
  dropCloses { s with mbx := { s.mbx with evt := evt } }

def execPcieReset (s : State) : Host.Outcome State Fault Refusal := .next (pcieReset s)

end Sys2Proof.Machine
end

