-- ==== Sys2Proof/Machine/Hbm.lean ====
section
/-! DEFINITION. HBM channels, patrol scrub, near-memory adders and the last-level memory (R271 to R307). -/

namespace Sys2Proof.Machine

/-! ## Errors of a channel (R278 to R286) -/

/-- A channel as a unit (R483). -/
def chanUnit (ch : Chan) : UnitId := { cls := 7, unit := ch.val }

/-- A slice as a unit. -/
def sliceUnit (sl : Slice) : UnitId := { cls := 6, unit := sl.val }

/-- The device-local address of a channel offset: R275 read backwards. -/
def State.addrOf (s : State) (ch : Chan) (coff : Nat) : Nat :=
  let h := ch.val / 128
  let l := s.listOf h
  let n := max 1 l.length
  let p := l.findIdx (· = ch)
  let s0 := s.slabSize 0
  let g := coff % slabUnit / 256 * n + p
  coff / slabUnit * (s0 + s.slabSize 1) + (if h = 0 then 0 else s0) + g * 256 + coff % 256

/-- A corrected error (R279, R285). -/
def chanCe (s : State) (ch : Chan) : State :=
  let k := s.mem.chans.get ch
  let fresh : Bool := k.ceStart + 3600000000000 ≤ s.now
  let n := if fresh then 1 else k.ceCount + 1
  let storm : Bool := 65536 < n && (fresh || !k.ceStorm)
  let s := s.updChan ch (fun k => { k with
    ceStart := if fresh then s.now else k.ceStart, ceCount := n, ceStorm := if fresh then storm else k.ceStorm || storm })
  let s := noteCorrected (bump s { code := Cnt.HBM_CE, unit := ch.val }) (chanUnit ch) 0x0202 1
  if storm then raise s { code := Code.HBM_CE_STORM, unit := chanUnit ch, detail := detailOf 0 ch.val 0 } else s

/-- A read that detects an uncorrectable error poisons its codeword (R280). -/
def chanUe (s : State) (ch : Chan) (coff : Nat) (a : Nat) (who : UnitId) (row : Nat) : State :=
  let s := s.updChan ch (fun k => { k with
    poison := if k.poison.contains (coff / 32) then k.poison else (coff / 32) :: k.poison,
    ueRows := if k.ueRows.any (fun r => r.1 = row) then k.ueRows.map (fun r => if r.1 = row then (row, s.now) else r) else (row, s.now) :: k.ueRows })
  raiseRec s { code := Code.HBM_UE, unit := chanUnit ch } 0 a
    { severity := 0, eventCode := 0x0203, unitClass := 7, detail := memDetail a coff who.cls 0xFFFF }

/-- Parity mismatches of one transfer (R283, R284): the flag says that the access failed. -/
def chanParity (s : State) (ch : Chan) (coff a : Nat) (who : UnitId) (n : Nat) : State × Bool :=
  let s := bump s { code := Cnt.HBM_IF_RETRY, unit := ch.val } (min 4 n)
  if n < 5 then (s, false)
  else
    let s := s.updChan ch (fun k => { k with
      ifFails := s.now :: k.ifFails, suspect := if k.suspect.contains (coff / 32) then k.suspect else k.suspect ++ [coff / 32] })
    (raiseRec s { code := Code.HBM_IF_FAIL, unit := chanUnit ch } 0 a
      { severity := 0, eventCode := 0x0204, unitClass := 7, detail := memDetail a coff who.cls 0xFFFF }, true)

/-- A codeword of a channel is already poisoned or suspect. -/
def State.badCoff (s : State) (ch : Chan) (coff : Nat) : Bool :=
  let k := s.mem.chans.get ch
  k.fenced || k.poison.contains (coff / 32) || k.suspect.contains (coff / 32)

/-- One codeword read under an error: the flag says that it is delivered as poison or not at all. -/
def readWord (s : State) (ch : Chan) (coff a : Nat) (who : UnitId) (err : HbmErr) : State × Bool :=
  if s.badCoff ch coff then (bump s { code := Cnt.HBM_POISON_READ, unit := ch.val }, true)
  else
    match err with
    | .ok => (s, false)
    | .ce => (chanCe s ch, false)
    | .ue row => (chanUe s ch coff a who row, true)
    | .parity n => chanParity s ch coff a who n

/-- A foreground request reaches a channel (R289). -/
def touchChan (s : State) (ch : Chan) : State := s.updChan ch (fun k => { k with fgLast := s.now })

/-- Bytes of a range counted at the channels that hold them. -/
def countBytes (s : State) (code a len : Nat) : State :=
  (wordsOf a len).foldl (fun s w =>
    match s.locate w with
    | none => s
    | some l => touchChan (bump s { code := code, unit := l.ch.val } (min (a + len) (w + 32) - max a w)) l.ch) s

/-- HBM_READ (R278): the codeword at the address meets `err`, the other codewords of the access none. -/
def hbmRead (a len : Nat) (who : UnitId) (err : HbmErr) (s : State) : State :=
  if len = 0 || s.hbmEnd < a + len then s
  else
    let s := countBytes s Cnt.HBM_RD_BYTES a len
    (wordsOf a len).foldl (fun s w =>
      match s.locate w with
      | none => s
      | some l => (readWord s l.ch l.coff w who (if w = a / 32 * 32 then err else .ok)).1) s

def execHbmRead (addr len : Nat) (unit : UnitId) (err : HbmErr) (s : State) : Host.Outcome State Fault Refusal :=
  .next (hbmRead addr len unit err s)

/-- HBM_WRITE (R281, R283, R284, R286): whole or not at all. A codeword covered in part is read and merged, and that read
can find the error. -/
def hbmWrite (a : Nat) (data : List Byte) (who : UnitId) (err : HbmErr) (s : State) : State :=
  if data.isEmpty || s.hbmEnd < a + data.length || s.writeErr a data.length != 0 then s
  else
    let w := a / 32 * 32
    let part : Bool := !(a ≤ w && w + 32 ≤ a + data.length)
    match s.locate w with
    | none => s
    | some l =>
      let (s, failed) := match err with
        | .ok => (s, false)
        | .ce => if part then (chanCe s l.ch, false) else (s, false)
        | .ue row => if part then (chanUe s l.ch l.coff w who row, true) else (s, false)
        | .parity n => chanParity s l.ch l.coff w who n
      if failed then s else (countBytes s Cnt.HBM_WR_BYTES a data.length).wr a data

def execHbmWrite (addr : Nat) (data : List Byte) (unit : UnitId) (err : HbmErr) (s : State) : Host.Outcome State Fault Refusal :=
  .next (hbmWrite addr data unit err s)

/-! ## Retirement (R285, R286) -/

/-- A condition of R285 holds. -/
def State.retireDue (s : State) (ch : Chan) : Bool :=
  let k := s.mem.chans.get ch
  let p := s.goose.policy
  p.ifFailN ≤ (k.ifFails.filter (fun t => s.now < t + 1000000000)).length || p.suspectN < k.suspect.length ||
    p.ueRowsN ≤ (k.ueRows.filter (fun r => s.now < r.2 + 86400000000000)).length || p.scrubN ≤ k.scrubUe.length

/-- A range of HBM has a byte on a channel. -/
def State.onChan (s : State) (ch : Chan) (a len : Nat) : Bool :=
  let s0 := s.slabSize 0
  let s1 := s.slabSize 1
  let h := ch.val / 128
  let l := s.listOf h
  let n := max 1 l.length
  let p := l.findIdx (· = ch)
  l.contains ch && (List.range 32).any (fun i =>
    let base := i * (s0 + s1) + (if h = 0 then 0 else s0)
    let size := if h = 0 then s0 else s1
    let lo := max a base
    let hi := min (a + len) (base + size)
    lo < hi && (let g1 := (lo - base) / 256
                let g2 := (hi - 1 - base) / 256
                (p + n - g1 % n) % n ≤ g2 - g1))

/-- An object has a byte on a channel: its home or its anchor lies there. -/
def State.objOnChan (s : State) (ch : Chan) (o : Obj) : Bool :=
  (o.tier = 2 && s.onChan ch o.home o.size) ||
    (match o.anchor with | some a => !s.inScratch a && s.onChan ch a o.size | none => false)

/-- An object becomes Damaged, and OBJ_DAMAGED is raised for it (R286). -/
def damageObj (s : State) (o : Obj) : State :=
  let s := { s with mem := { s.mem with objs := s.mem.objs.map (fun q => if q.index = o.index then { q with damaged := true } else q) } }
  raise s { code := Code.OBJ_DAMAGED, unit := { cls := 0 }, detail := detailOf 0 (o.index + place o.gen 16) 0 }

/-- CHANNEL_RETIRE (R286): dirty lines of the channel are lost, counted as write-backs that were not made. -/
def channelRetire (ch : Chan) (s : State) : State :=
  let k := s.mem.chans.get ch
  if k.fenced || k.absent || !s.retireDue ch then s
  else
    let s := s.updChan ch (fun k => { k with fenced := true, privileged := false, oxFenced := true })
    let gone (l : LlmLine) : Bool := match s.locate (256 * l.gran) with | some q => q.ch = ch | none => false
    let s := { s with mem := { s.mem with llm := { s.mem.llm with slices := s.mem.llm.slices.map (fun v => v.filter (fun l => !gone l)) } } }
    let s := capChanged s
    let s := (s.mem.objs.filter (s.objOnChan ch)).foldl damageObj s
    (logRec s { severity := 0, eventCode := 0x0205, unitClass := 7, unitIndex := ch.val, action := 5, detail := memDetail 0 0 0 0xFFFF }).1

def execChannelRetire (ch : Chan) (s : State) : Host.Outcome State Fault Refusal := .next (channelRetire ch s)

/-! ## Patrol scrub (R288 to R291) -/

/-- Granules of a channel. -/
def scrubGranules : Nat := 393216

/-- One granule is scrubbed; `errs` gives the error of each of its codewords that has one. -/
def scrubOne (ch : Chan) (errs : List (Nat × HbmErr)) (s : State) : State :=
  let g := (s.mem.chans.get ch).scrubPos
  let s := errs.foldl (fun s e =>
    if e.1 < 128 then
      let coff := g * 4096 + e.1 * 32
      let bad : Bool := match e.2 with | .ue _ => !s.badCoff ch coff | _ => false
      let s := (readWord s ch coff (s.addrOf ch coff) (chanUnit ch) e.2).1
      if bad then s.updChan ch (fun k => { k with scrubUe := if k.scrubUe.contains g then k.scrubUe else g :: k.scrubUe }) else s
    else s) s
  let s := bump s { code := Cnt.SCRUB_GRANULES, unit := ch.val }
  s.updChan ch (fun k => { k with
    scrubPos := (g + 1) % scrubGranules, scrubLast := s.now, scrubUe := if g + 1 = scrubGranules then [] else k.scrubUe })

/-- A channel that scrubs: in service. -/
def State.scrubs (s : State) (ch : Chan) : Bool := let k := s.mem.chans.get ch; !k.absent && !k.fenced && k.listed

/-- SCRUB_GRANULE (R288, R289): after 1 µs without a foreground request. -/
def scrubGranule (ch : Chan) (errs : List (Nat × HbmErr)) (s : State) : State :=
  if !s.scrubs ch || s.now < (s.mem.chans.get ch).fgLast + 1000 then s else scrubOne ch errs s

def execScrubGranule (ch : Chan) (errs : List (Nat × HbmErr)) (s : State) : Host.Outcome State Fault Refusal :=
  .next (scrubGranule ch errs s)

/-- SCRUB_FORCED (R289): after 200 ms without a completed granule. -/
def scrubForced (ch : Chan) (errs : List (Nat × HbmErr)) (s : State) : State :=
  if !s.scrubs ch || s.now < (s.mem.chans.get ch).scrubLast + 200000000 then s
  else bump (scrubOne ch errs s) { code := Cnt.SCRUB_FORCED, unit := ch.val }

def execScrubForced (ch : Chan) (errs : List (Nat × HbmErr)) (s : State) : Host.Outcome State Fault Refusal :=
  .next (scrubForced ch errs s)

/-- The scrub positions go to flash (R291). -/
def saveScrub (s : State) : State :=
  { s with mem := { s.mem with scrubSaved := s.mem.chans.toList.map (·.scrubPos), scrubSavedAt := s.now } }

/-- SCRUB_POSITION_SAVE (R291): once an hour. -/
def scrubSaveStep (s : State) : State := if s.now < s.mem.scrubSavedAt + 3600000000000 then s else saveScrub s

def execScrubPositionSave (s : State) : Host.Outcome State Fault Refusal := .next (scrubSaveStep s)

/-! ## Near-memory adders (R292 to R297) -/

/-- Bytes of an element type. -/
def AddType.bytes : AddType → Nat
  | .fp32 => 4
  | .bf16 => 2
  | .int32 => 4
  | .int64 => 8

/-- One element's sum (R294, R60): its code, whether a NaN came out, and whether an integer wrapped. -/
def AddType.sum (t : AddType) (a b : Nat) : Nat × Bool × Bool :=
  match t with
  | .fp32 => let r := f32Add a b; (r, (FF.fp32.decode r).isNan, false)
  | .bf16 => let r := FF.bf16.rne (FVal.add (FF.bf16.decode a) (FF.bf16.decode b)); (r, (FF.bf16.decode r).isNan, false)
  | .int32 => let i := signed 32 a + signed 32 b
              (((a + b) % 2 ^ 32), false, i != signed 32 (a + b))
  | .int64 => let i := signed 64 a + signed 64 b
              (((a + b) % 2 ^ 64), false, i != signed 64 (a + b))

/-- The limits of R292. -/
def addLegal (a : Nat) (t : AddType) (n : Nat) : Bool :=
  a % t.bytes = 0 && 1 ≤ n && n ≤ 64 && n % t.bytes = 0 && a / 64 = (a + n - 1) / 64

/-- The slice that serves a granule drops its line (R297): the dirty bytes are in the channel first. -/
def dropGranule (s : State) (a : Nat) : State :=
  { s with mem := { s.mem with llm := { s.mem.llm with slices := s.mem.llm.slices.map (fun v => v.filter (fun l => l.gran != a / 256)) } } }

/-- An add at its channel (R293, R294): the state, the status, and the prior contents. It does all of its elements or
none. The scratchpad, which has no channel, adds in the same way (DEDUCED, log entry 30). -/
def nmAdd (s : State) (a : Nat) (t : AddType) (operand : List Byte) (err : HbmErr) : State × Nat × List Byte :=
  let n := operand.length
  let s := dropGranule s a
  let pre := if s.writeErr a n != 0 then s.writeErr a n
    else if s.inScratch a && s.poisoned a n then Code.HBM_POISON else 0
  if pre != 0 then (s, pre, [])
  else
    let (s, st) := (wordsOf a n).foldl (fun (acc : State × Nat) w =>
      match acc.1.locate w with
      | none => acc
      | some l =>
        let e : HbmErr := if w = a / 32 * 32 then err else .ok
        let r := readWord (touchChan acc.1 l.ch) l.ch l.coff w (chanUnit l.ch) e
        (r.1, if acc.2 != 0 || !r.2 then acc.2 else match e with | .parity _ => Code.HBM_IF_FAIL | _ => Code.HBM_UE)) (s, 0)
    if st != 0 then (s, st, [])
    else
      let old := s.rd a n
      let w := t.bytes
      let rs := (List.range (n / w)).map (fun i => t.sum (ofBytes (slice old (i * w) w)) (ofBytes (slice operand (i * w) w)))
      let u := match s.locate a with | some l => l.ch.val | none => 0
      let s := bump s { code := Cnt.NM_ADDS, unit := u }
      let s := bump s { code := Cnt.NM_NAN, unit := u } (rs.filter (·.2.1)).length
      let s := bump s { code := Cnt.NM_INT_WRAP, unit := u } (rs.filter (·.2.2)).length
      (s.wr a (rs.flatMap (fun r => toBytes w r.1)), 0, old)

/-- NM_ADD (R293): the party is checked like any other (R315). -/
def nmAddStep (a : Nat) (t : AddType) (operand : List Byte) (p : Party) (err : HbmErr) (s : State) : State :=
  if !addLegal a t operand.length || s.access p a operand.length != .ok then s else (nmAdd s a t operand err).1

def execNmAdd (addr : Nat) (type : AddType) (operand : List Byte) (_ret : Bool) (party : Party) (err : HbmErr) (s : State) :
    Host.Outcome State Fault Refusal := .next (nmAddStep addr type operand party err s)

/-! ## The last-level memory (R299 to R307) -/

/-- A slice's lines changed. -/
def State.updSlice (s : State) (sl : Slice) (f : List LlmLine → List LlmLine) : State :=
  { s with mem := { s.mem with llm := { s.mem.llm with slices := upd s.mem.llm.slices sl f } } }

/-- An eighth works as cache, and may take a context's lines (R300, R302). -/
def Llm.takes (m : Llm) (e : Nat) (x : CtxNo) : Bool :=
  m.es ≤ e && e < 8 && (match m.eighths.getD e .both, x with
    | .both, _ => true
    | _, none => true
    | .j0, some .j0 => true
    | .j1, some .j1 => true
    | _, _ => false)

/-- Set of a granule in its slice: the manual gives the number of sets and not the index (DESIGN CHOICE, log entry 31). -/
def llmSet (gran : Nat) : Nat := gran % 1536

/-- A line is written back or lost: a dirty line's bytes reach its channel (R302). -/
def evict (s : State) (sl : Slice) (l : LlmLine) : State :=
  let s := s.updSlice sl (fun v => v.filter (fun m => m.gran != l.gran))
  if l.dirty then bump s { code := Cnt.LLM_WRITEBACK, unit := sl.val } else s

/-- A dirty line that met an uncorrectable error: its codewords are poisoned (R307). -/
def poisonLine (s : State) (sl : Slice) (l : LlmLine) : State :=
  let a := 256 * l.gran
  let s := (List.range 8).foldl (fun s i =>
    match s.locate (a + 32 * i) with
    | none => s
    | some q => s.updChan q.ch (fun k => { k with poison := if k.poison.contains (q.coff / 32) then k.poison else (q.coff / 32) :: k.poison })) s
  let s := s.updSlice sl (fun v => v.filter (fun m => m.gran != l.gran))
  raiseRec s { code := Code.LLM_UE, unit := sliceUnit sl } 0 a
    { severity := 0, eventCode := 0x0201, unitClass := 6, detail := memDetail a (l.gran * 256) 6 0xFFFF }

/-- Allocation class of an address: Normal where no object holds it. -/
def State.allocClass (s : State) (a : Nat) : Nat := ((s.objAt a).map (·.alloc)).getD 0

/-- A granule is allocated after a miss (R302): the victim is the least recently used way among the eighths the context may
take, a way not in use first. -/
def llmAlloc (s : State) (sl : Slice) (gran : Nat) (x : CtxNo) (dirty : Bool) : State :=
  let m := s.mem.llm
  let cls := s.allocClass (256 * gran)
  let priv : Bool := match s.locate (256 * gran) with | some l => (s.mem.chans.get l.ch).privileged | none => true
  if cls = 2 || priv then s
  else
    let set := (m.slices.get sl).filter (fun l => llmSet l.gran = llmSet gran)
    let es := (List.range 8).filter (fun e => m.takes e x)
    let room := es.find? (fun e => (set.filter (fun l => l.eighth = e)).length < 2)
    let put (s : State) (e : Nat) : State :=
      let l : LlmLine := { gran := gran, eighth := e, dirty := dirty, poison := s.poisoned (256 * gran) 256 }
      s.updSlice sl (fun v => if cls = 1 then v ++ [l] else l :: v)
    match room with
    | some e => put s e
    | none =>
      match (set.filter (fun l => es.contains l.eighth)).getLast? with
      | none => s
      | some v => put (evict s sl v) v.eighth

/-- LLM_ACCESS to an HBM granule (R302, R303, R307). -/
def llmHbm (a len : Nat) (data : Option (List Byte)) (x : CtxNo) (err : LlmErr) (s : State) : State :=
  match s.locate a with
  | none => s
  | some l =>
    let sl := l.slice
    let gran := a / 256
    let write (s : State) : State := match data with
      | none => s
      | some bs => if s.writeErr a (bs.take len).length != 0 then s else s.wr a (bs.take len)
    let look (s : State) : Option LlmLine := (s.mem.llm.slices.get sl).find? (fun q => q.gran = gran)
    let s := match look s, err with
      | some _, .single => noteCorrected (bump s { code := Cnt.LLM_CE, unit := sl.val }) (sliceUnit sl) 0x0202 1
      | some q, .uncorrectable => if q.dirty then poisonLine s sl q else s.updSlice sl (fun v => v.filter (fun m => m.gran != gran))
      | some q, .tagParity => if q.dirty then poisonLine s sl q else s.updSlice sl (fun v => v.filter (fun m => m.gran != gran))
      | _, _ => s
    match look s with
    | some q =>
      let s := bump s { code := Cnt.LLM_HIT, unit := sl.val }
      write (s.updSlice sl (fun v => { q with dirty := q.dirty || data.isSome } :: v.filter (fun m => m.gran != gran)))
    | none =>
      let s := write (bump s { code := Cnt.LLM_MISS, unit := sl.val })
      llmAlloc s sl gran x data.isSome

/-- LLM_ACCESS to the scratchpad (R304, R305, R307). -/
def llmScratch (a len : Nat) (data : Option (List Byte)) (err : LlmErr) (s : State) : State :=
  let sl : Slice := ⟨(a - scratchBase) / 256 % 64, Nat.mod_lt _ (by decide)⟩
  let s := match err with
    | .single => noteCorrected (bump s { code := Cnt.LLM_CE, unit := sl.val }) (sliceUnit sl) 0x0202 1
    | .uncorrectable =>
      let s := { s with mem := { s.mem with llm := { s.mem.llm with
        poison := if s.mem.llm.poison.contains (a / 8) then s.mem.llm.poison else (a / 8) :: s.mem.llm.poison } } }
      raiseRec s { code := Code.LLM_UE, unit := sliceUnit sl } 0 (a / 8 * 8)
        { severity := 0, eventCode := 0x0201, unitClass := 6, detail := memDetail (a / 8 * 8) (a - scratchBase) 6 0xFFFF }
    | _ => s
  match data with
  | none => s
  | some bs => s.wr a (bs.take len)

/-- LLM_ACCESS (R302): an access within one granule, by a context, or by a unit that acts for none. -/
def llmAccess (a len : Nat) (data : Option (List Byte)) (x : CtxNo) (err : LlmErr) (s : State) : State :=
  if len = 0 || a / 256 != (a + len - 1) / 256 || !s.mapped a then s
  else if s.inScratch a then
    let set := s.mem.llm.eighths.getD (eighthOf a) .both
    if (set = .j0 && x = some .j1) || (set = .j1 && x = some .j0) then s else llmScratch a len data err s
  else llmHbm a len data x err s

def execLlmAccess (addr : Nat) (len : Nat) (data : Option (List Byte)) (ctx : CtxNo) (err : LlmErr) (s : State) :
    Host.Outcome State Fault Refusal := .next (llmAccess addr len data ctx err s)

end Sys2Proof.Machine
end

