-- ==== Sys2Proof/Machine/Objects.lean ====
section
/-! DEFINITION. The object table, the ownership map and free space (R309 to R317). -/

namespace Sys2Proof.Machine

/-! ## Map entries -/

/-- What is left of an entry once a range is taken out of it. -/
def MapRange.carve (r : MapRange) (a n : Nat) : List MapRange :=
  if r.base + r.size ≤ a || a + n ≤ r.base then [r]
  else
    (if r.base < a then [{ r with size := a - r.base }] else []) ++
      (if a + n < r.base + r.size then [{ r with base := a + n, size := r.base + r.size - (a + n) }] else [])

/-- A range's entries removed: its pages are Free and not reserved. -/
def clearPages (s : State) (a n : Nat) : State :=
  { s with mem := { s.mem with pages := s.mem.pages.flatMap (fun r => r.carve a n) } }

/-- A range's entries set (R316). -/
def setPages (s : State) (a n : Nat) (owner : Party) (st : PageSt) : State :=
  let s := clearPages s a n
  { s with mem := { s.mem with pages := { base := a, size := n, owner := owner, st := st } :: s.mem.pages } }

/-! ## Objects -/

/-- A handle (R310). -/
def Obj.handle (o : Obj) : Nat := o.index + place o.gen 16

/-- The object a handle names. -/
def State.obj? (s : State) (h : Nat) : Option Obj := s.mem.objs.find? (fun o => o.index = bits h 15 0 && o.gen = bits h 31 16)

/-- An object changed. -/
def State.updObj (s : State) (h : Nat) (f : Obj → Obj) : State :=
  { s with mem := { s.mem with objs := s.mem.objs.map (fun o => if o.handle = h then f o else o) } }

/-- The party an Owner code names (R310). -/
def State.ownerParty (s : State) (owner : Nat) : Party := ⟨s.ident.devNum, owner⟩

/-- Slots of an object. -/
def Obj.slots (o : Obj) : Nat := o.size / 4096

/-- Bytes of a tag plane: 2 for each slot, in whole pages (R332). -/
def tagBytes (size : Nat) : Nat := cdiv (size / 4096 * 2) 65536 * 65536

/-- The 64 bytes of a record (R310). -/
def Obj.bytes (o : Obj) : List Byte :=
  toBytes 8 (o.index + place o.gen 16 + place o.owner 32 + place o.tier 34 + place (b2n o.comp) 37 + place (b2n o.f2) 38 +
    place (b2n o.damaged) 39 + place o.alloc 40 + place (b2n o.anchor.isSome) 42 + place (b2n o.moving) 43 +
    place (b2n (o.pins != 0)) 44 + place o.elemW 45) ++
  toBytes 8 o.size ++ toBytes 8 o.home ++ toBytes 8 (o.anchor.getD 0) ++ toBytes 8 (if o.comp then o.tagAddr else 0) ++
    toBytes 8 o.compBytes ++ toBytes 8 (o.moveBeat % 2 ^ 48) ++ toBytes 8 0

/-! ## Free space (R312 to R314) -/

/-- Bytes at the top of HBM that hold the object table and the map (R314). -/
def tableBytes : Nat := 0x2000000

/-- Placeable HBM bytes (R314). -/
def State.placeable (s : State) : Nat := s.hbmEnd - tableBytes

/-- Start of the lending pool: the highest PoolBytes of placeable HBM (R571). -/
def State.poolBase (s : State) : Nat := s.placeable - s.mem.poolBytes

/-- Ranges in use or reserved, in ascending order. -/
def State.usedRanges (s : State) : List (Nat × Nat) :=
  (s.mem.pages.map (fun r => (r.base, r.size))).mergeSort (fun p q => decide (p.1 ≤ q.1))

/-- Free runs of a window, given the ranges in use in ascending order. -/
def freeRuns (lo hi : Nat) (used : List (Nat × Nat)) : List (Nat × Nat) :=
  let r := used.foldl (fun (acc : Nat × List (Nat × Nat)) u =>
    if u.1 + u.2 ≤ acc.1 || hi ≤ u.1 then acc
    else ((u.1 + u.2), if acc.1 < u.1 then acc.2 ++ [(acc.1, u.1 - acc.1)] else acc.2)) (lo, [])
  if r.1 < hi then r.2 ++ [(r.1, hi - r.1)] else r.2

/-- Largest free aligned range of a list of runs. -/
def largestRun (runs : List (Nat × Nat)) : Nat := (runs.map (·.2)).foldl max 0

/-- Places at which a size fits: one for each page a run leaves room for. -/
def fitCount (runs : List (Nat × Nat)) (size : Nat) : Nat :=
  (runs.map (fun r => if size ≤ r.2 then (r.2 - size) / 65536 + 1 else 0)).sum

/-- The `k`-th place at which a size fits. -/
def fitAt (size : Nat) : List (Nat × Nat) → Nat → Option Nat
  | [], _ => none
  | r :: rs, k =>
    let n := if size ≤ r.2 then (r.2 - size) / 65536 + 1 else 0
    if k < n then some (r.1 + 65536 * k) else fitAt size rs (k - n)

/-- What a search for space answers: a range, or the shortfall (R312). -/
inductive Fit where
  | at_ (a : Nat)
  | short (bytes : Nat)
  deriving DecidableEq, Repr

/-- A place for a size in a window: at a named address, or a free one of the implementation's choosing (DESIGN CHOICE, log entry 5). -/
def State.fit (s : State) (lo hi size : Nat) (addr : Option Nat) : Fit :=
  let runs := freeRuns lo hi s.usedRanges
  match addr with
  | some a =>
    match runs.find? (fun r => r.1 ≤ a && a < r.1 + r.2) with
    | none => .short size
    | some r => if a + size ≤ r.1 + r.2 then .at_ a else .short (size - (r.1 + r.2 - a))
  | none =>
    let n := fitCount runs size
    if n = 0 then .short (size - largestRun runs)
    else
      match fitAt size runs (Config.freeChoice s.free n % n) with
      | some a => .at_ a
      | none => .short size

/-- Eighths of the scratchpad that an owner may use, as windows joined where they touch (R305, R312). -/
def State.scratchWindows (s : State) (owner : Nat) : List (Nat × Nat) :=
  let bad (e : Nat) : Bool := match s.mem.llm.eighths.getD e .both with
    | .j0 => owner = 1
    | .j1 => owner = 0
    | .both => false
  ((List.range s.mem.llm.es).filter (fun e => !bad e)).foldl (fun (acc : List (Nat × Nat)) e =>
    let lo := scratchBase + e * slabUnit
    match acc.getLast? with
    | some w => if w.2 = lo then acc.dropLast ++ [(w.1, lo + slabUnit)] else acc ++ [(lo, lo + slabUnit)]
    | none => [(lo, lo + slabUnit)]) []

/-- Whether an answer is a range. -/
def Fit.found : Fit → Bool
  | .at_ _ => true
  | .short _ => false

/-- Place for an object in tier 1 or 2 (R312, R313): the flag says that only an eighth of the other context would hold it. -/
def State.fitTier (s : State) (tier owner size : Nat) (addr : Option Nat) : Fit × Bool :=
  if tier = 1 then
    let all := s.fit scratchBase (scratchBase + s.mem.llm.es * slabUnit) size addr
    let mine := (s.scratchWindows owner).map (fun w => s.fit w.1 w.2 size addr)
    match mine.find? Fit.found with
    | some f => (f, false)
    | none => (all, all.found)
  else (s.fit 0 s.poolBase size addr, false)

/-! ## Zeroing (R311) -/

/-- A range of device-local memory becomes zero, its poison cleared. -/
def zeroRange (s : State) (a n : Nat) : State :=
  let s := { s with mem := { s.mem with mem := Mem.clear s.mem.mem a n } }
  let s := { s with mem := { s.mem with
    chans := Vector.ofFn (fun ch => let k := s.mem.chans.get ch
      let inside (w : Nat) : Bool := a ≤ s.addrOf ch (32 * w) && s.addrOf ch (32 * w) < a + n
      { k with poison := k.poison.filter (fun w => !inside w), suspect := k.suspect.filter (fun w => !inside w) }),
    llm := { s.mem.llm with poison := s.mem.llm.poison.filter (fun w => !(a ≤ 8 * w && 8 * w < a + n)) } } }
  markDirty (dropLines s a n) a n

/-! ## Records -/

/-- A free record index of the implementation's choosing (R310, DESIGN CHOICE, log entry 5), and the generation its next use takes. -/
def State.freeIndex (s : State) : Option (Nat × Nat) :=
  let used := s.mem.objs.map (·.index)
  let n := 65536 - used.length
  if n = 0 then none
  else
    let k := Config.freeChoice (s.free + 1) n % n
    match ((List.range 65536).filter (fun i => !used.contains i))[k]? with
    | none => none
    | some i =>
      some (i, match s.mem.gens.find? (fun g => g.1 = i) with | some g => (g.2 + 1) % 65536 | none => 0)

/-- A record enters the table. -/
def addObj (s : State) (o : Obj) : State :=
  { s with free := s.free + 2,
           mem := { s.mem with objs := s.mem.objs ++ [o], gens := (o.index, o.gen) :: s.mem.gens.filter (fun g => g.1 != o.index) } }

/-! ## The lending pool (R313) -/

/-- A borrower's request for a pool range: the pages become its own and read as zero. -/
def poolPlace (s : State) (p : Party) (size : Nat) : State × Option Nat :=
  match s.fit s.poolBase s.placeable size none with
  | .short _ => (s, none)
  | .at_ a =>
    let s := zeroRange (setPages { s with free := s.free + 1 } a size p .owned) a size
    ({ s with mem := { s.mem with poolRanges := { base := a, size := size, owner := p } :: s.mem.poolRanges } }, some a)

/-- A borrower returns a pool range. -/
def poolFree (s : State) (p : Party) (base : Nat) : State :=
  match s.mem.poolRanges.find? (fun r => r.base = base && r.owner = p) with
  | none => s
  | some r =>
    let s := clearPages s r.base r.size
    { s with mem := { s.mem with poolRanges := s.mem.poolRanges.filter (fun q => q != r) } }

/-- An object's own range leaves it: its pages are Free, a lender is told (DESIGN CHOICE, log entry 21), host memory is left alone (R313, R319). -/
def releaseHome (s : State) (tier home size owner : Nat) : State :=
  if tier = 1 || tier = 2 then clearPages s home size
  else if tier = 3 || tier = 4 then send s (muleMsg (devOf home) 7 [owner, home % 2 ^ 48])
  else s

end Sys2Proof.Machine
end

