-- ==== Sys2Proof/Machine/Moves.lean ====
section
/-! DEFINITION. Moves, anchors, the exact codec's queues, and the host's accesses through BAR2 (R318 to R324, R335 to R338,
R584). -/

namespace Sys2Proof.Machine

/-! ## BAR2 (R277, R282, R321, R338, R584) -/

/-- The device-local address a BAR2 offset reaches; none where the aperture is unmapped (R584). -/
def State.bar2Addr (s : State) (off : Nat) : Option Nat :=
  let base := (s.regs.aperture.toList.getD (off / 2 ^ 36 % 8) 0xFFF).toNat
  if 2 ^ 39 ≤ off || base = 0xFFF then none else some (base * 2 ^ 36 + off % 2 ^ 36)

/-- The completion the host receives: data, with its EP bit, or Completer Abort. -/
def hostCpl (s : State) (data : Option (List Byte)) (ep : Bool) : State :=
  { s with regs := { s.regs with lastRead := data, lastAbort := data.isNone, lastEp := ep } }

/-- A host access at a device-local address: done, held, or aborted. -/
def bar2At (s : State) (a len : Nat) (data : Option (List Byte)) (since : Nat) : State :=
  match s.accessW s.hostParty a len, s.access s.hostParty a len, data with
  | .ok, _, some bs => hostCpl (s.wr a bs) (some []) false
  | _, .ok, none => hostCpl s (some (s.rd a len)) (s.poisoned a len)
  | _, .hold, d => { s with mem := { s.mem with heldBar2 := s.mem.heldBar2 ++ [{ addr := a, len := len, data := d, since := since }] } }
  | _, _, _ => hostCpl s none false

/-- A BAR2 access. -/
def bar2 (off len : Nat) (data : Option (List Byte)) (s : State) : State :=
  if len = 0 || off % 2 ^ 36 + len > 2 ^ 36 then hostCpl s none false
  else
    match s.bar2Addr off with
    | none => hostCpl s none false
    | some a => bar2At s a len data s.now

def execBar2Read (off len : Nat) (s : State) : Host.Outcome State Fault Refusal := .next (bar2 off len none s)

def execBar2Write (off : Nat) (data : List Byte) (s : State) : Host.Outcome State Fault Refusal :=
  .next (bar2 off data.length (some data) s)

/-- BAR2_HOLD_TIMEOUT (R321): the oldest held access, 1 ms after it came. -/
def bar2Timeout (s : State) : State :=
  match s.mem.heldBar2 with
  | [] => s
  | h :: rest =>
    if s.now < h.since + 1000000 then s
    else bump (hostCpl { s with mem := { s.mem with heldBar2 := rest } } none false) { code := Cnt.BAR2_HOLD_TIMEOUT }

def execBar2HoldTimeout (s : State) : Host.Outcome State Fault Refusal := .next (bar2Timeout s)

/-- Held BAR2 accesses are checked again when a move has completed (R320, R321). -/
def recheckBar2 (s : State) : State :=
  let held := s.mem.heldBar2
  held.foldl (fun s h => bar2At s h.addr h.len h.data h.since) { s with mem := { s.mem with heldBar2 := [] } }

/-! ## The exact codec's queues (R336) -/

/-- Hub die whose codec takes a slot at a device-local address: the one that holds it (DEDUCED, log entry 32). -/
def State.hubOf (s : State) (a : Nat) : Nat :=
  if s.inScratch a then ((a - scratchBase) / 256 % 64) / 32
  else match s.locate a with | some l => l.ch.val / 128 | none => 0

/-- A hub's codec changed. -/
def State.updCodec (s : State) (h : Hub) (f : Codec → Codec) : State :=
  { s with mem := { s.mem with codecs := upd s.mem.codecs h f } }

/-- A move changed. -/
def State.updMove (s : State) (handle : Nat) (f : Move → Move) : State :=
  { s with mem := { s.mem with moves := s.mem.moves.map (fun m => if m.handle = handle then f m else m) } }

/-- The move of an object. -/
def State.move? (s : State) (handle : Nat) : Option Move := s.mem.moves.find? (·.handle = handle)

/-- Slots waiting for a hub enter its input queue, in order, while it has room; a slot that finds it full is counted
(R336). `dec` names the decode side. -/
def feedHub (s : State) (m : Move) (h : Hub) (dec : Bool) : State :=
  let k := s.mem.codecs.get h
  let mine := m.jobs.filter (fun j => j.hub = h.val)
  let room := 64 - (if dec then k.decIn.length else k.encIn.length)
  let now := mine.take room
  let s := s.updCodec h (fun k => if dec then { k with decIn := k.decIn ++ now } else { k with encIn := k.encIn ++ now })
  let s := s.updMove m.handle (fun m => { m with jobs := m.jobs.filter (fun j => !now.contains j) })
  if room < mine.length then bump s { code := Cnt.CODEC_QFULL, unit := h.val } else s

/-- A move that decodes: its source is compressed (R319). -/
def State.moveDecodes (s : State) (m : Move) : Bool := match s.obj? m.handle with | some o => o.comp | none => false

/-- Every waiting slot of every move is offered to its hub. -/
def feedAll (s : State) : State :=
  s.mem.moves.foldl (fun s m0 =>
    (List.finRange 2).foldl (fun s h =>
      match s.move? m0.handle with
      | none => s
      | some m => if m.jobs.any (fun j => j.hub = h.val) then feedHub s m h (s.moveDecodes m) else s) s) s

/-- Slots that have left a hub's output queues go to their moves, in order. -/
def drainHub (s : State) (h : Hub) : State :=
  let k := s.mem.codecs.get h
  let outs := k.encOut ++ k.decOut
  let s := s.updCodec h (fun k => { k with encOut := [], decOut := [] })
  outs.foldl (fun s j => s.updMove j.handle (fun m => { m with out := m.out ++ [j] })) s

/-- CODEC_ENCODE_SLOT (R336): the oldest slot of the encode queue is encoded; a full output queue stalls the lane. -/
def codecEncode (h : Hub) (s : State) : State :=
  let s := drainHub s h
  let k := s.mem.codecs.get h
  match k.encIn with
  | [] => s
  | j :: rest =>
    if 64 ≤ k.encOut.length then bump s { code := Cnt.CODEC_QFULL, unit := h.val }
    else
      let r := encodeSlot (elemWidth j.elemW) j.bytes
      let s := s.updCodec h (fun k => { k with encIn := rest, encOut := k.encOut ++ [{ j with bytes := r.2, tag := r.1 }] })
      feedAll (bump s { code := Cnt.CODEC_SLOTS_ENC, unit := h.val })

def execCodecEncodeSlot (h : Hub) (s : State) : Host.Outcome State Fault Refusal := .next (codecEncode h s)

/-! ## The end of a move -/

/-- Slots of a move are let go by both codecs. -/
def dropJobs (s : State) (handle : Nat) : State :=
  let f (l : List CodecJob) : List CodecJob := l.filter (fun j => j.handle != handle)
  { s with mem := { s.mem with codecs := s.mem.codecs.map (fun k =>
      { k with encIn := f k.encIn, encOut := f k.encOut, decIn := f k.decIn, decOut := f k.decOut }) } }

/-- A move ends without effect (R324): the source is Owned again and the destination released. -/
def failMove (s : State) (m : Move) (status : Nat) (damaged : Bool) : State :=
  match s.obj? m.handle with
  | none => s
  | some o =>
    let s := dropJobs s m.handle
    let s := if o.tier = 1 || o.tier = 2 then setPages s o.home o.size (s.ownerParty o.owner) .owned else s
    let s := if m.ownerOnly then s
      else if m.recalled then setPages s m.dstAddr o.size (s.ownerParty o.owner) .absent
      else releaseHome s m.dstTier m.dstAddr o.size o.owner
    let s := s.updObj m.handle (fun o => { o with moving := false, damaged := o.damaged || damaged })
    let s := { s with mem := { s.mem with moves := s.mem.moves.filter (fun q => q.handle != m.handle) } }
    recheckBar2 (completeLater s CmdCode.memMove m.handle status)

/-- CODEC_DECODE_SLOT (R335, R336): a slot that fails its checks fails its move. -/
def codecDecode (h : Hub) (s : State) : State :=
  let s := drainHub s h
  let k := s.mem.codecs.get h
  match k.decIn with
  | [] => s
  | j :: rest =>
    if 64 ≤ k.decOut.length then bump s { code := Cnt.CODEC_QFULL, unit := h.val }
    else
      let s := bump s { code := Cnt.CODEC_SLOTS_DEC, unit := h.val }
      match decodeSlot (elemWidth j.elemW) j.tag j.bytes with
      | some bs => feedAll (s.updCodec h (fun k => { k with decIn := rest, decOut := k.decOut ++ [{ j with bytes := bs }] }))
      | none =>
        let s := s.updCodec h (fun k => { k with decIn := rest })
        let s := bump s { code := Cnt.CODEC_FAIL, unit := h.val }
        let s := raise s { code := Code.CODEC_FAIL, unit := { cls := 0xB, unit := h.val }, detail := detailOf 0 (j.handle + place j.slot 32) 0 }
        match s.move? j.handle with
        | some m => failMove s m Code.CODEC_FAIL false
        | none => s

def execCodecDecodeSlot (h : Hub) (s : State) : Host.Outcome State Fault Refusal := .next (codecDecode h s)

/-! ## Moves (R318 to R324) -/

/-- Slots of an object's bytes for the encoder. -/
def encJobs (s : State) (o : Obj) : List CodecJob :=
  (List.range o.slots).map (fun i =>
    { handle := o.handle, slot := i, bytes := s.rd (o.home + 4096 * i) 4096, elemW := o.elemW, hub := s.hubOf (o.home + 4096 * i) })

/-- A stored source as it arrives: its tags in slot order, then the stored bytes of each slot (R332). -/
def decJobs (s : State) (o : Obj) (m : Move) (data : List Byte) : List CodecJob :=
  let n := o.slots
  ((List.range n).foldl (fun (acc : List CodecJob × Nat) i =>
    let tag := ofBytes (slice data (2 * i) 2)
    let len := bits tag 8 0 * 16
    (acc.1 ++ [{ handle := o.handle, slot := i, bytes := slice data acc.2 len, tag := tag, elemW := o.elemW,
                 hub := if m.dstTier = 1 || m.dstTier = 2 then s.hubOf (m.dstAddr + 4096 * i) else i % 2 }], acc.2 + len)) ([], 2 * n)).1

/-- MOVE_START (R318, R319): an accepted move begins once nothing pins its object. The encoder is given the source's slots
where the destination is compressed. -/
def startMove (s : State) (handle : Nat) : State :=
  match s.move? handle, s.obj? handle with
  | some m, some o =>
    if m.started || o.pins != 0 then s
    else
      let here : Bool := o.tier = 1 || o.tier = 2
      let s := if here then setPages s o.home o.size (s.ownerParty o.owner) .moving else s
      let s := if !here || m.ownerOnly then s
        else
          let s := { s with mem := { s.mem with llm := { s.mem.llm with slices := s.mem.llm.slices.map (fun v =>
            v.filter (fun l => !(o.home ≤ 256 * l.gran && 256 * l.gran < o.home + o.size))) } } }
          dropLines s o.home o.size
      let enc : Bool := m.comp && !o.comp && !m.ownerOnly && here
      let s := s.updMove handle (fun m => { m with started := true, fed := enc, jobs := if enc then encJobs s o else [] })
      if enc then feedAll s else s
  | _, _ => s

def execMoveStart (handle : Nat) (s : State) : Host.Outcome State Fault Refusal := .next (startMove s handle)

/-- Slots of a move still in a codec. -/
def State.coding (s : State) (m : Move) : Bool :=
  !m.jobs.isEmpty || s.mem.codecs.toList.any (fun k => (k.encIn ++ k.decIn).any (fun j => j.handle = m.handle))

/-- The bytes a move writes in its destination's stored form: addresses from the start of its range, and of its tag
plane. -/
structure Stored where
  cells : List (Nat × List Byte)
  tags : List Byte
  compBytes : Nat
  deriving DecidableEq, Repr

/-- Slots in slot order as stored. -/
def storedOf (js : List CodecJob) : Stored :=
  let js := js.mergeSort (fun a b => decide (a.slot ≤ b.slot))
  { cells := js.map (fun j => (4096 * j.slot, j.bytes)), tags := js.flatMap (fun j => toBytes 2 j.tag),
    compBytes := (js.map (fun j => j.bytes.length)).sum }

/-- Plain bytes as slots encoded on the way (R332, R334). -/
def encodeAll (o : Obj) (bs : List Byte) : List CodecJob :=
  (List.range o.slots).map (fun i =>
    let r := encodeSlot (elemWidth o.elemW) (slice bs (4096 * i) 4096)
    { handle := o.handle, slot := i, bytes := r.2, tag := r.1 })

/-- What a move copies: from its codec's output, from this device's memory, or from the bytes that came. -/
def State.moveBytes (s : State) (m : Move) (o : Obj) (data : List Byte) : Stored :=
  let plain : List Byte :=
    if o.comp then ((storedOf m.out).cells).flatMap (·.2)
    else if o.tier = 1 || o.tier = 2 then s.rd o.home o.size else slice data 0 o.size
  if m.comp then storedOf (if !o.comp && m.fed then m.out else encodeAll o plain)
  else { cells := [(0, plain)], tags := [], compBytes := o.size }

/-- Stored bytes are written at a home (R319): here, by WRITE packets at a lender, or in host memory. -/
def writeHome (s : State) (ctx tier a tagAddr : Nat) (w : Stored) : State :=
  let put (s : State) (at_ : Nat) (bs : List Byte) : State :=
    if bs.isEmpty then s
    else if tier = 1 || tier = 2 then s.wr at_ bs
    else if tier = 5 then writeHost s at_ bs
    else (writePkts ctx at_ bs).foldl send s
  let s := w.cells.foldl (fun s c => put s (a + c.1) c.2) s
  put s tagAddr w.tags

/-- The record and the pages of a completed move (R319, R322, R323). -/
def finishMove (s : State) (m : Move) (o : Obj) (w : Stored) : State :=
  let owner := m.newOwner.getD o.owner
  let party := s.ownerParty owner
  let beat := if owner < 2 then (s.jobs.get (if owner = 0 then .j0 else .j1)).beat else 0
  let here (t : Nat) : Bool := t = 1 || t = 2
  let s :=
    if m.ownerOnly then
      let s := if here o.tier then setPages s o.home o.size party .owned else s
      match o.anchor with
      | some a => setPages s a o.size party .absent
      | none => s
    else
      let tagAddr := m.dstAddr + o.size
      let s := writeHome s (if owner < 2 then owner else 2) m.dstTier m.dstAddr tagAddr w
      let s := if here m.dstTier then setPages s m.dstAddr o.size party .owned else s
      if m.keepAnchor then setPages s o.home o.size (s.ownerParty o.owner) .absent
      else releaseHome s o.tier o.home o.size o.owner
  let s := s.updObj m.handle (fun o =>
    if m.ownerOnly then { o with owner := owner, moving := false, moveBeat := beat }
    else { o with
      owner := owner, tier := m.dstTier, home := m.dstAddr, comp := m.comp, tagAddr := if m.comp then m.dstAddr + o.size else 0,
      compBytes := w.compBytes, moving := false, moveBeat := beat,
      anchor := if m.keepAnchor then some o.home else if m.recalled then none else o.anchor })
  let s := dropJobs { s with mem := { s.mem with moves := s.mem.moves.filter (fun q => q.handle != m.handle) } } m.handle
  recheckBar2 (completeLater s CmdCode.memMove m.handle Code.OK none (some (if m.ownerOnly then o.home else m.dstAddr)))

/-- MOVE_COMPLETE (R319, R324). The bytes of a source that is not on this device come with the row, in the source's stored
form; a compressed source's slots go to the decoder first, and the move completes once they have come out. -/
def moveComplete (handle : Nat) (data : List Byte) (err : MoveErr) (s : State) : State :=
  let s := (List.finRange 2).foldl drainHub s
  match s.move? handle, s.obj? handle with
  | some m, some o =>
    if !m.started then s
    else
      match err with
      | .hbmUe => failMove s m Code.HBM_UE true
      | .destFailed => failMove s m Code.DEV_UNREACHABLE false
      | .codecFail slot =>
        let s := raise s { code := Code.CODEC_FAIL, unit := { cls := 0xB }, detail := detailOf 0 (handle + place slot 32) 0 }
        failMove s m Code.CODEC_FAIL false
      | .ok =>
        if m.ownerOnly then finishMove s m o { cells := [], tags := [], compBytes := 0 }
        else if (o.tier = 1 || o.tier = 2) && s.poisoned o.home o.size then failMove s m Code.HBM_UE true
        else if o.comp && !m.fed then
          feedAll (s.updMove handle (fun m => { m with fed := true, jobs := decJobs s o m data }))
        else if s.coding m then s
        else finishMove s m o (s.moveBytes m o data)
  | _, _ => s

def execMoveComplete (handle : Nat) (data : List Byte) (err : MoveErr) (s : State) : Host.Outcome State Fault Refusal :=
  .next (moveComplete handle data err s)

/-- ANCHOR_RECALL (R323): an owner's access has found an Absent page; the whole object moves back, once. -/
def anchorRecall (a : Nat) (x : CtxNo) (s : State) : State :=
  let p : Party := match x with | some x => s.party x | none => s.hostParty
  match s.pageOf a, s.mem.objs.find? (fun o => match o.anchor with | some b => b ≤ a && a < b + o.size | none => false) with
  | some r, some o =>
    if r.st != .absent || r.owner != p || o.moving then s
    else
      let s := s.updObj o.handle (fun o => { o with moving := true })
      let m : Move := { handle := o.handle, dstTier := if s.inScratch (o.anchor.getD 0) then 1 else 2, dstAddr := o.anchor.getD 0, recalled := true }
      startMove { s with mem := { s.mem with moves := s.mem.moves ++ [m] } } o.handle
  | _, _ => s

def execAnchorRecall (addr : Nat) (x : CtxNo) (s : State) : Host.Outcome State Fault Refusal := .next (anchorRecall addr x s)

end Sys2Proof.Machine
end

