-- ==== Sys2Proof/Machine/Ckpt.lean ====
section
/-! DEFINITION. Checkpoints on the buddy (R432 to R436): a save's and a restore's phases, and their commands. -/

namespace Sys2Proof.Machine

/-! ## Jobs -/

/-- A save or restore by its key. -/
def State.ckJob (s : State) (key : Nat) : Option CkptJob := s.mem.ckptJobs.find? (·.key = key)

/-- One changed. -/
def updCk (s : State) (key : Nat) (f : CkptJob → CkptJob) : State :=
  { s with mem := { s.mem with ckptJobs := s.mem.ckptJobs.map (fun j => if j.key = key then f j else j) } }

/-- A slot of a context changed. -/
def updSlot (s : State) (x : Ctx) (slot : Nat) (f : CkptSlot → CkptSlot) : State :=
  { s with mem := { s.mem with ckpt := s.mem.ckpt.set x ((s.mem.ckpt.get x).mapIdx (fun i k => if i = slot then f k else k)) } }

/-- A save or restore ends: its pins are let go and its command completes. -/
def endCk (s : State) (j : CkptJob) (status r0 : Nat) : State :=
  let s := pinObjs { s with mem := { s.mem with ckptJobs := s.mem.ckptJobs.filter (fun q => q.key != j.key) } } j.pins (· - 1)
  let s := { s with fab := { s.fab with reqs := s.fab.reqs.filter (fun r => r.who != .ckpt j.key) } }
  completeLater s (if j.save then CmdCode.ckptSave else CmdCode.ckptRestore) j.key status (some r0)

/-- It fails. -/
def ckptFail (s : State) (key status r0 : Nat) : State :=
  match s.ckJob key with
  | some j => endCk s j status r0
  | none => s

/-- Saves whose data were on their way to a device whose flow is lost. -/
def ckptLost (s : State) (peer : Nat) : State :=
  (s.mem.ckptJobs.filter (fun j => j.save && j.phase = 1 && j.dev = peer)).foldl (fun s j => endCk s j Code.DEV_UNREACHABLE 0) s

/-! ## The manifest (R433) -/

/-- Bytes of a manifest. -/
def manifestBytes (s : State) (x : Ctx) (slot : Nat) (valid : Bool) (entries : List (List Byte)) : List Byte :=
  let j := s.jobs.get x
  let head := toBytes 8 (1 + place (b2n valid) 8 + place slot 9 + place s.ident.devNum 16) ++ toBytes 8 (j.step % 2 ^ 48) ++
    toBytes 8 j.jobId ++ toBytes 8 s.ident.logCoord ++ toBytes 8 entries.length ++ List.replicate 20 0
  slice (head ++ toBytes 4 (crc32 (head ++ entries.flatten)) ++ entries.flatten) 0 2112

/-- One entry: FGA, Size, Label, exact-codec form, DataCrc. -/
def entryBytes (fga size label : Nat) (comp : Bool) (crc : Nat) : List Byte :=
  toBytes 8 fga ++ toBytes 8 size ++ toBytes 8 (label % 65536 + place (b2n comp) 16) ++ toBytes 8 crc

/-- The manifest is complete and its checksum is right (R436). -/
def manifestOk (m : List Byte) : Bool :=
  bit (u64At m 0) 8 && crc32 (slice m 0 0x3C ++ slice m 0x40 (32 * fld m 0x20 6 0)) = u32At m 0x3C

/-! ## Requests -/

/-- STORE requests of a range, at most 256 bytes each (R360). -/
def storePkts (ctx a : Nat) (bs : List Byte) : List Pkt :=
  (piecesOf 256 (bs.length + 1) bs).zipIdx.map (fun (b, i) =>
    { cls := 1, op := 0x02, dst := devOf a, src := 0, ctx := ctx, addr := a + 256 * i, len := b.length, payload := b : Pkt })

/-- READ_BULK requests of a range, at most 8 KiB each, in whole 64-byte pieces. -/
def readPkts (ctx a len : Nat) : List Pkt :=
  (List.range (cdiv len 8192)).map (fun i =>
    { cls := 1, op := 0x04, dst := devOf a, src := 0, ctx := ctx, addr := a + 8192 * i, len := cdiv (min 8192 (len - 8192 * i)) 64 * 64 : Pkt })

/-- Requests sent for a save or restore. -/
def ckSend (s : State) (key : Nat) (ks : List Pkt) : State := ks.foldl (fun s k => request s (.ckpt key) k) s

/-- Every request of it has been answered. -/
def State.ckQuiet (s : State) (j : CkptJob) : Bool := !s.fab.reqs.any (fun r => r.who = .ckpt j.key)

/-- A checkpoint object and its tag plane have a packet that the buddy has not acknowledged. -/
def State.ckUnacked (s : State) (j : CkptJob) : Bool :=
  let mine (k : Pkt) : Bool := k.cls = 3 && k.dst = j.dev && j.objs.any (fun o =>
    match s.obj? o.1 with
    | some q => o.2.1 ≤ k.addr && k.addr < o.2.1 + q.size + tagBytes q.size
    | none => false)
  s.fab.src.any (fun f => f.cls = 3 && f.peer = j.dev && (f.unacked.map (·.pkt) ++ f.waiting).any mine) || s.fab.ctxWait.any (fun w => mine w.2)

/-! ## A save's phases (R434, R435) -/

/-- Every source is read and written to its checkpoint object in exact-codec form; its entry joins the manifest, and its pin
is let go. A poisoned source fails the save. -/
def copySources (s : State) (j : CkptJob) : State :=
  let bad := j.objs.any (fun o => match s.obj? o.1 with
    | some q => (q.tier = 1 || q.tier = 2) && s.poisoned q.home q.size
    | none => true)
  if bad then endCk s j Code.HBM_UE 0
  else
    let (s, _, es) := j.objs.foldl (fun (acc : State × List Byte × List (List Byte)) o =>
      match acc.1.obj? o.1 with
      | none => acc
      | some q =>
        let here : Bool := q.tier = 1 || q.tier = 2
        let bs := if here then acc.1.rd q.home q.size else slice acc.2.1 0 q.size
        let w := storedOf (encodeAll q bs)
        let pks := w.cells.flatMap (fun c => if c.2.isEmpty then [] else writePkts (ctxNo j.ctx) (o.2.1 + c.1) c.2) ++
          writePkts (ctxNo j.ctx) (o.2.1 + q.size) w.tags
        (pks.foldl send acc.1, if here then acc.2.1 else acc.2.1.drop q.size, acc.2.2 ++ [entryBytes o.2.1 q.size o.2.2 true (crc32 bs)]))
      (s, j.buf, [])
    updCk (pinObjs s j.pins (· - 1)) j.key (fun j => { j with phase := 1, entries := es, pins := [] })

/-- One phase of a save, when what it waits for has come. -/
def saveStep (s : State) (j : CkptJob) : State :=
  if j.phase = 0 then (if s.ckQuiet j then copySources s j else s)
  else if j.phase = 1 then
    if s.ckUnacked j then s
    else
      let s := updCk s j.key (fun j => { j with phase := 2 })
      ckSend s j.key (storePkts (ctxNo j.ctx) j.man (manifestBytes s j.ctx j.slot true j.entries))
  else if s.ckQuiet j then endCk (updSlot s j.ctx j.slot (fun k => { k with valid := true })) j Code.OK 0
  else s

/-! ## A restore's phases (R436) -/

/-- Bytes of the answered reads from an address. -/
def CkptJob.bytesAt (j : CkptJob) (a len : Nat) : List Byte :=
  slice ((j.got.filter (fun g => a ≤ g.1 && g.1 < a + len)).mergeSort (fun p q => decide (p.1 ≤ q.1)) |>.flatMap (·.2)) 0 len

/-- The read of an entry begins: its tag plane where it is stored by the exact codec, otherwise its bytes. -/
def readEntry (s : State) (j : CkptJob) : State :=
  match j.objs[j.entry]? with
  | none => endCk (s.updJob j.ctx (fun k => { k with updateStarted := false })) j Code.OK 0
  | some o =>
    let size := ((s.obj? o.1).map (·.size)).getD 0
    let comp := j.comps.getD j.entry false
    let s := updCk s j.key (fun j => { j with phase := if comp then 1 else 2, got := [], buf := [] })
    ckSend s j.key (if comp then readPkts (ctxNo j.ctx) (o.2.1 + size) (size / 4096 * 2) else readPkts (ctxNo j.ctx) o.2.1 size)

/-- The manifest has come: it is checked, and the first entry is read. -/
def openManifest (s : State) (j : CkptJob) : State :=
  let m := j.bytesAt j.man 2112
  let n := fld m 0x20 6 0
  if !manifestOk m then endCk s j Code.CKPT_SLOT_INVALID 0
  else
    let ent (i : Nat) : Nat × Nat × Bool × Nat :=
      (u64At m (0x40 + 32 * i), u64At m (0x48 + 32 * i), bit (u64At m (0x50 + 32 * i)) 16, u32At m (0x58 + 32 * i))
    let sizes := j.objs.map (fun o => ((s.obj? o.1).map (·.size)).getD 0)
    if n != j.objs.length || (List.range n).map (fun i => (ent i).2.1) != sizes then endCk s j Code.DESC_INVALID 0xFFFF
    else
      let os := j.objs.zipIdx.map (fun (o, i) => (o.1, (ent i).1, (ent i).2.2.2))
      let j := { j with objs := os, comps := (List.range n).map (fun i => (ent i).2.2.1) }
      readEntry (updCk s j.key (fun _ => j)) j

/-- Stored slots of an entry decoded with its tags; none where a slot fails its checks (R335). -/
def decodeEntry (j : CkptJob) (fga size w : Nat) : Option (List Byte) :=
  (List.range (size / 4096)).foldl (fun (acc : Option (List Byte)) i =>
    let tag := ofBytes (slice j.buf (2 * i) 2)
    let a := fga + 4096 * i
    match acc, decodeSlot w tag (j.bytesAt a (bits tag 8 0 * 16)) with
    | some bs, some d => some (bs ++ d)
    | _, _ => none) (some [])

/-- An object takes its restored bytes in its stored form. -/
def putObject (s : State) (o : Obj) (bs : List Byte) : State :=
  let w : Stored := if o.comp then storedOf (encodeAll o bs) else { cells := [(0, bs)], tags := [], compBytes := o.size }
  let s := writeHome s (if o.owner < 2 then o.owner else 2) o.tier o.home o.tagAddr w
  s.updObj o.handle (fun o => { o with compBytes := w.compBytes })

/-- An entry's bytes have come: checked against its DataCrc and written to its object. -/
def closeEntry (s : State) (j : CkptJob) : State :=
  match j.objs[j.entry]? with
  | none => endCk s j Code.OK 0
  | some o =>
    match s.obj? o.1 with
    | none => endCk s j Code.BAD_HANDLE 0
    | some q =>
      let bs? := if j.comps.getD j.entry false then decodeEntry j o.2.1 q.size (elemWidth q.elemW) else some (j.bytesAt o.2.1 q.size)
      match bs? with
      | none => endCk s j Code.CKPT_CRC j.entry
      | some bs =>
        if crc32 bs != o.2.2 then endCk s j Code.CKPT_CRC j.entry
        else
          let j := { j with entry := j.entry + 1 }
          let s := updCk (putObject s q bs) j.key (fun _ => j)
          if j.entry < j.objs.length then readEntry s j else endCk s j Code.OK 0

/-- The tags of an entry have come: its stored slots are read. -/
def readSlots (s : State) (j : CkptJob) : State :=
  match j.objs[j.entry]? with
  | none => endCk s j Code.OK 0
  | some o =>
    let size := ((s.obj? o.1).map (·.size)).getD 0
    let tags := j.bytesAt (o.2.1 + size) (size / 4096 * 2)
    let s := updCk s j.key (fun j => { j with phase := 2, got := [], buf := tags })
    ckSend s j.key ((List.range (size / 4096)).flatMap (fun i =>
      readPkts (ctxNo j.ctx) (o.2.1 + 4096 * i) (bits (ofBytes (slice tags (2 * i) 2)) 8 0 * 16)))

/-- One phase of a restore, when its reads have been answered. -/
def restoreStep (s : State) (j : CkptJob) : State :=
  if !s.ckQuiet j then s
  else if j.phase = 0 then openManifest s j
  else if j.phase = 1 then readSlots s j
  else closeEntry s j

/-- Phases that need nothing more follow at once. The fuel bounds them. -/
def ckptGo (key : Nat) : Nat → State → State
  | 0, s => s
  | n + 1, s =>
    match s.ckJob key with
    | none => s
    | some j => ckptGo key n (if j.save then saveStep s j else restoreStep s j)

/-- Most phases a job can go through. -/
def ckptFuel : Nat := 200

/-- Every save and restore goes on as far as it can. -/
def ckptAll (s : State) : State := s.mem.ckptJobs.foldl (fun s j => ckptGo j.key ckptFuel s) s

/-- Data of a read of a restore. -/
def ckptData (s : State) (key a : Nat) (bs : List Byte) : State :=
  ckptGo key ckptFuel (updCk s key (fun j => { j with got := j.got ++ [(a, bs)] }))

/-! ## Pool ranges that other devices grant (R313) -/

/-- What a lender's Mule answered: 1 and an address for a range granted, 0 and the shortfall, 2 for no pool (DESIGN CHOICE, log entry 21).
The ranges granted, and what ended the list early. -/
def grants : Nat → List Nat → List Nat × Option (Nat × Nat)
  | 0, _ => ([], none)
  | n + 1, 1 :: a :: rest => let r := grants n rest; (a :: r.1, r.2)
  | _ + 1, 2 :: _ => ([], some (Code.NOT_LENDER, 0))
  | _ + 1, 0 :: short :: _ => ([], some (Code.NO_SPACE, short))
  | _ + 1, _ => ([], some (Code.DEV_UNREACHABLE, 0))

/-- A record for a range in another device's pool. -/
def addPooled (s : State) (owner tier size home : Nat) (comp : Bool) (elemW alloc : Nat) : State × Nat :=
  match s.freeIndex with
  | none => (s, 0)
  | some (i, gen) =>
    let o : Obj := { index := i, gen := gen, owner := owner, tier := tier, comp := comp, alloc := alloc, elemW := elemW, size := size,
                     home := home, tagAddr := if comp then home + size else 0, compBytes := if comp then 0 else size }
    (addObj s o, o.handle)

/-- An object leaves the table and its range is returned (R313, R571). -/
def removeObj (s : State) (o : Obj) : State :=
  let s := releaseHome s o.tier o.home o.size o.owner
  let s := match o.anchor with | some a => clearPages s a o.size | none => s
  { s with mem := { s.mem with objs := s.mem.objs.filter (fun q => q.index != o.index) } }

/-! ## CKPT_SAVE -/

/-- ckpt.save and ckpt.restore in progress, and how many there may be (R557). -/
def ckptBusy (s : State) (save : Bool) (code : Nat) (m : MCmd) (act : State → State) (s' : State) : State :=
  if 4 ≤ s.mem.ckptJobs.length then answer s' code m Code.BUSY code ((s.mem.ckptJobs.filter (fun j => j.save = save)).length)
  else act s'

/-- The next key. -/
def State.ckKey (s : State) : Nat := (s.mem.ckptJobs.map (·.key)).foldl max 0 + 1

/-- First refusal that objects named by a context meet: none, or a status with its detail. -/
def State.namedErr (s : State) (x : Ctx) (hs : List Nat) : Option (Nat × Nat × Nat) :=
  hs.findSome? (fun h => match s.obj? h with
    | none => some (Code.BAD_HANDLE, 0, 0)
    | some o =>
      if o.owner != ctxNo x then some (Code.OWN_FAULT, o.home, h)
      else if o.moving then some (Code.MOVE_BUSY, 0, 0) else none)

/-- Reserved bits and the count of a ckpt.save payload. -/
def ckSaveBad (p : List Byte) : Option Nat :=
  let n := fld p 0 7 1
  if n = 0 || 64 < n then some 1
  else firstBit p ((0, 63, 8) :: (List.range n).map (fun i => (8 + 8 * i, 63, 48)))

def specCkptSave : CmdSpec :=
  { code := CmdCode.ckptSave, lenOk := fun p => p.length = 8 + 8 * fld p 0 7 1, bad := ckSaveBad, foal := fun _ _ => false, ctx := true }

/-- The slot's objects are those a save of these sizes needs, or are placed anew in the buddy's pool (R432). The answer is the
FGAs of the manifest and of the objects, or a refusal. -/
def placeSlot (s : State) (x : Ctx) (slot dev : Nat) (srcs : List Obj) (answers : List Nat) : State × Option (Nat × List Nat) × Nat × Nat :=
  let k := (s.mem.ckpt.get x).toList.getD slot {}
  let have_ := k.objs.filterMap s.obj?
  let man := k.man.bind s.obj?
  let same : Bool := have_.map (·.size) = srcs.map (·.size) && have_.map (·.elemW) = srcs.map (·.elemW) && have_.all (fun o => devOf o.home = dev)
  match same, man with
  | true, some o => (s, some (o.home, have_.map (·.home)), 0, 0)
  | _, _ =>
    if 65536 < s.mem.objs.length + srcs.length + 1 - (have_.length + b2n man.isSome) then (s, none, Code.OBJ_FULL, 0)
    else
      let g := grants (srcs.length + 1) answers
      let s := (65536 :: srcs.map (fun o => o.size + tagBytes o.size)).foldl (fun s n => send s (muleMsg dev 6 [ctxNo x, n])) s
      match g.2, g.1 with
      | some (st, short), as => (as.foldl (fun s a => send s (muleMsg dev 7 [ctxNo x, a])) s, none, st, short)
      | none, [] => (s, none, Code.DEV_UNREACHABLE, 0)
      | none, a :: as =>
        let s := (have_ ++ man.toList).foldl removeObj s
        let fga (a : Nat) : Nat := dev * 2 ^ 48 + a % 2 ^ 48
        let (s, mh) := addPooled s (ctxNo x) 3 65536 (fga a) false 0 0
        let (s, hs) := (srcs.zip as).foldl (fun (acc : State × List Nat) p =>
          let r := addPooled acc.1 (ctxNo x) 3 p.1.size (fga p.2) true p.1.elemW 0
          (r.1, acc.2 ++ [r.2])) (s, [])
        (updSlot s x slot (fun _ => { man := some mh, objs := hs }), some (fga a, as.map fga), 0, 0)

/-- CKPT_SAVE (R432 to R435). -/
def ckptSave (m : MCmd) (s : State) : State :=
  startCmd specCkptSave m s (fun s =>
    let p := m.payload
    let x := m.jobCtx
    let slot := fld p 0 0 0
    let ents := (List.range (fld p 0 7 1)).map (fun i => (u32At p (8 + 8 * i), fld p (8 + 8 * i) 47 32))
    let dev := s.buddy x
    ckptBusy s true specCkptSave.code m (fun s =>
      match s.namedErr x (ents.map (·.1)) with
      | some (st, a, h) => answer s specCkptSave.code m st a h
      | none =>
        if s.fab.failed.contains dev then answer s specCkptSave.code m Code.DEV_UNREACHABLE
        else
          let srcs := ents.filterMap (fun e => s.obj? e.1)
          match placeSlot s x slot dev srcs m.answers with
          | (s, none, st, short) => answer s specCkptSave.code m st short (if st = Code.NO_SPACE then 3 else 0)
          | (s, some (man, fgas), _, _) =>
            let key := s.ckKey
            let j : CkptJob := { key := key, save := true, ctx := x, slot := slot, dev := dev, man := man,
                                 objs := (ents.zip fgas).map (fun (e, a) => (e.1, a, e.2)), buf := m.answerBytes, pins := srcs.map (·.index) }
            let s := pinObjs { s with mem := { s.mem with ckptJobs := s.mem.ckptJobs ++ [j] } } j.pins (· + 1)
            let s := startLater (updSlot s x slot (fun k => { k with valid := false })) specCkptSave.code m key
            let es := (srcs.zip j.objs).map (fun (o, e) => entryBytes e.2.1 o.size e.2.2 true 0)
            ckSend s key (storePkts (ctxNo x) man (manifestBytes s x slot false es))) s)

def execCkptSave (m : MCmd) (s : State) : Host.Outcome State Fault Refusal := .next (ckptSave m s)

/-! ## CKPT_RESTORE -/

/-- Reserved bits of a ckpt.restore payload. -/
def ckRestoreBad (p : List Byte) : Option Nat :=
  let n := fld p 0 23 17
  if n = 0 || 64 < n then some 17
  else firstBit p ((0, 63, 24) :: (List.range n).map (fun i => (8 + 8 * i, 63, 32)))

def specCkptRestore : CmdSpec :=
  { code := CmdCode.ckptRestore, lenOk := fun p => p.length = 8 + 8 * fld p 0 23 17, bad := ckRestoreBad, foal := fun _ _ => false, ctx := true }

/-- CKPT_RESTORE (R436): the manifest's address is the named device's answer, or that of this device's own slot. -/
def ckptRestore (m : MCmd) (s : State) : State :=
  startCmd specCkptRestore m s (fun s =>
    let p := m.payload
    let x := m.jobCtx
    let dev := fld p 0 15 0
    let slot := fld p 0 16 16
    let hs := (List.range (fld p 0 23 17)).map (fun i => u32At p (8 + 8 * i))
    let own := (((s.mem.ckpt.get x).toList.getD slot {}).man.bind s.obj?).filter (fun o => devOf o.home = dev)
    let man : Option Nat := match m.answers with | a :: _ => some (dev * 2 ^ 48 + a % 2 ^ 48) | [] => own.map (·.home)
    ckptBusy s false specCkptRestore.code m (fun s =>
      match s.namedErr x hs, man with
      | some (st, a, h), _ => answer s specCkptRestore.code m st a h
      | none, none => answer s specCkptRestore.code m Code.CKPT_SLOT_INVALID
      | none, some man =>
        if s.fab.failed.contains dev then answer s specCkptRestore.code m Code.DEV_UNREACHABLE
        else
          let key := s.ckKey
          let j : CkptJob := { key := key, save := false, ctx := x, slot := slot, dev := dev, man := man, objs := hs.map (fun h => (h, 0, 0)) }
          let s := startLater { s with mem := { s.mem with ckptJobs := s.mem.ckptJobs ++ [j] } } specCkptRestore.code m key
          ckSend s key (readPkts (ctxNo x) man 2112)) s)

def execCkptRestore (m : MCmd) (s : State) : Host.Outcome State Fault Refusal := .next (ckptRestore m s)

end Sys2Proof.Machine
end

