-- ==== Sys2Proof/Machine/Coll.lean ====
section
/-! DEFINITION. The collective engine: members and trees, packets, combines, completion and failure (R391 to R415). -/

namespace Sys2Proof.Machine

/-! ## Members (R391, R393) -/

/-- Axes of a group, in phase order. -/
def CGroup.axesList (g : CGroup) : List Nat := (List.range 7).filter (bit g.axes)

/-- Count of an axis. -/
def CGroup.count (g : CGroup) (axis : Nat) : Nat := g.counts.getD axis 0

/-- Members (R391). -/
def CGroup.size (g : CGroup) : Nat := (g.axesList.map g.count).foldl (· * ·) 1

/-- A device's position on an axis of the group. -/
def State.posIn (s : State) (g : CGroup) (dev axis : Nat) : Nat := s.coordOf dev axis - g.los.getD axis 0

/-- A device is a member. -/
def State.memberOf (s : State) (g : CGroup) (dev : Nat) : Bool :=
  (List.range 7).all (fun a =>
    let c := s.coordOf dev a
    if bit g.axes a then g.los.getD a 0 ≤ c && c < g.los.getD a 0 + g.count a else c = s.pos a)

/-- A rank's digit on the phase of an axis, the first axis most significant (R393). -/
def CGroup.digit (g : CGroup) (rank phase : Nat) : Nat :=
  let later := (g.axesList.drop (phase + 1)).map g.count
  rank / later.foldl (· * ·) 1 % max 1 (g.count (g.axesList.getD phase 0))

/-- A device's rank. -/
def State.rankOf (s : State) (g : CGroup) (dev : Nat) : Nat :=
  g.axesList.foldl (fun r a => r * g.count a + s.posIn g dev a) 0

/-- The device next to this one on an axis, in the plus direction or the minus one (R345). -/
def State.neigh (s : State) (axis : Nat) (plus : Bool) : Nat :=
  let len := max 1 (s.ringLen axis)
  if axis < 6 then s.along axis (if plus then 1 else len - 1)
  else
    let c := (s.pos 6 + (if plus then 1 else len - 1)) % len
    match s.fab.bank? s.fab.activeEpoch with
    | none => 0
    | some b =>
      match b.hall.findIdx? (fun e => bits e.toNat 3 0 != 0xF && entryCoord e true 6 = c) with
      | some p => if c = s.pos 6 then s.ident.devNum else p * 512 + podIndex s.ident.devNum + 1
      | none => 0

/-- The device of a rank. -/
def State.devOfRank (s : State) (g : CGroup) (rank : Nat) : Nat :=
  if rank = s.rankOf g s.ident.devNum then s.ident.devNum
  else
    let coord (a : Nat) : Nat := match g.axesList.findIdx? (· = a) with
      | some p => g.los.getD a 0 + g.digit rank p
      | none => s.pos a
    let here := s.devAt ((List.range 6).map coord)
    if coord 6 = s.pos 6 then here
    else
      match s.fab.bank? s.fab.activeEpoch with
      | none => 0
      | some b =>
        match b.hall.findIdx? (fun e => bits e.toNat 3 0 != 0xF && entryCoord e true 6 = coord 6) with
        | some p => p * 512 + podIndex here + 1
        | none => 0

/-! ## The trees (R394, R400, R401) -/

/-- Line index of a position, and the position of a line index. -/
def lineIdx (c start pos : Nat) : Nat := (pos + (c - start % max 1 c)) % max 1 c

/-- The ordered list of R400 for the owner at position `j`. -/
def treeList (c : Nat) (mode : Option Nat) (tree j : Nat) : List Nat :=
  match mode with
  | none => (List.range c).map (fun i => if tree = 0 then (j + 1 + i) % max 1 c else (j + (c - 1 - i)) % max 1 c)
  | some start =>
    let i := lineIdx c start j
    let idx := List.range i ++ ((List.range c).filter (fun k => i < k)).reverse ++ [i]
    idx.map (fun k => (start + k) % max 1 c)

/-- Entries of the list at a combine level (R400): its length at level 1 is `c`. -/
def levelLen (c level : Nat) : Nat := cdiv c (2 ^ (level - 1))

/-- Original index of the entry `i` of a level's list. -/
def levelOrig (c level i : Nat) : Nat := min ((i + 1) * 2 ^ (level - 1)) c - 1

/-- What a member does at a level of a tree. -/
inductive TreeRole where
  | sends (target : Nat)
  | receives (source : Nat)
  | passes
  | owns
  | relays
  deriving DecidableEq, Repr

/-- The role of the list index `j` at a level: indices of the list name the other member. -/
def treeRole (c level j : Nat) : TreeRole :=
  let n := levelLen c level
  let i := j / 2 ^ (level - 1)
  if levelOrig c level i != j then .relays
  else if n ≤ 1 then .owns
  else if i % 2 = 1 then .receives (levelOrig c level (i - 1))
  else if i + 1 < n then .sends (levelOrig c level (i + 1))
  else .passes

/-- Levels of a list: its owner is alone at this one. -/
def topLevel (c : Nat) : Nat → Nat → Nat
  | 0, l => l
  | f + 1, l => if levelLen c l ≤ 1 then l else topLevel c f (l + 1)

/-- A member's place in the tree of one half of one part in a phase. -/
structure Place where
  axis : Nat
  c : Nat
  mode : Option Nat
  list : List Nat
  /-- This member's index in the list. -/
  me : Nat
  deriving DecidableEq, Repr

/-- The place of this device for a part and tree in a phase; none where the part is not in its piece (R399). -/
def State.placeIn (s : State) (g : CGroup) (modes : List (Option Nat)) (phase part tree : Nat) : Option Place :=
  match g.axesList[phase]? with
  | none => none
  | some a =>
    let rank := s.rankOf g s.ident.devNum
    if (List.range phase).all (fun q => g.digit part q = g.digit rank q) then
      let c := g.count a
      let l := treeList c (modes.getD a none) tree (g.digit part phase)
      (l.findIdx? (· = s.posIn g s.ident.devNum a)).map (fun me =>
        { axis := a, c := c, mode := modes.getD a none, list := l, me := me })
    else none

/-- A transfer between two indices of a list moves in the plus direction (R401). -/
def Place.plus (p : Place) (tree fromI toI : Nat) (op : Bool) : Bool :=
  match p.mode with
  | none => decide (tree = 0) != op
  | some st => lineIdx p.c st (p.list.getD fromI 0) < lineIdx p.c st (p.list.getD toI 0)

/-! ## Fused data (R395, R396, R404) -/

/-- Bytes of an element, in memory and on the wire of an operation: BF16 partials travel as FP32. -/
def collElemBytes (dtype : Nat) : Nat := if dtype = 1 then 2 else if dtype = 3 then 8 else 4
def wireBytes (dtype : Nat) (gather : Bool) : Nat := if dtype = 1 && !gather then 4 else collElemBytes dtype

/-- Elements of the fused buffer. -/
def CFuse.total (f : CFuse) : Nat := (f.bufs.map (·.2)).sum

/-- Shard size in elements (R396). -/
def CFuse.shardElems (f : CFuse) (n : Nat) : Nat :=
  let u := 512 / collElemBytes f.dtype
  cdiv f.total (n * u) * u

/-- First element and number of elements that exist of half `h` of a shard. -/
def CFuse.half (f : CFuse) (n part h : Nat) : Nat × Nat :=
  let sh := f.shardElems n
  let lo := part * sh + h * (sh / 2)
  (lo, min (sh / 2) (f.total - lo))

/-- Device-local pieces of a range of fused elements: address, length in bytes. -/
def CFuse.pieces (f : CFuse) (lo n : Nat) : List (Nat × Nat) :=
  (f.bufs.foldl (fun (acc : Nat × List (Nat × Nat)) b =>
    let e := collElemBytes f.dtype
    let from_ := max lo acc.1
    let upto := min (lo + n) (acc.1 + b.2)
    (acc.1 + b.2, if from_ < upto then acc.2 ++ [(b.1 + e * (from_ - acc.1), e * (upto - from_))] else acc.2)) (0, [])).2

/-- Bytes of a range of fused elements. -/
def State.fusedRead (s : State) (f : CFuse) (lo n : Nat) : List Byte := (f.pieces lo n).flatMap (fun p => s.rd p.1 p.2)

/-- Bytes written over a range of fused elements. -/
def fusedWrite (s : State) (f : CFuse) (lo n : Nat) (bs : List Byte) : State :=
  ((f.pieces lo n).foldl (fun (acc : State × Nat) p => (acc.1.wr p.1 (slice bs acc.2 p.2), acc.2 + p.2)) (s, 0)).1

/-- Memory bytes in wire form: BF16 widened exactly (R404). -/
def toWire (dtype : Nat) (gather : Bool) (bs : List Byte) : List Byte :=
  if dtype = 1 && !gather then (List.range (bs.length / 2)).flatMap (fun i => [0, 0] ++ slice bs (2 * i) 2) else bs

/-- Adder type of a wire form. -/
def wireType (dtype : Nat) : AddType := if dtype = 2 then .int32 else if dtype = 3 then .int64 else .fp32

/-- Two partials combined, the lower entry first (R400, R404). -/
def combine (t : AddType) (lower upper : List Byte) : List Byte :=
  (List.range (lower.length / t.bytes)).flatMap (fun i =>
    toBytes t.bytes (t.sum (ofBytes (slice lower (i * t.bytes) t.bytes)) (ofBytes (slice upper (i * t.bytes) t.bytes))).1)

/-- A reduced half in DstType (R404): RNE, Sat = 0. -/
def toDst (dtype dst : Nat) (bs : List Byte) : List Byte :=
  if dst = 1 && (dtype = 0 || dtype = 1) then
    (List.range (bs.length / 4)).flatMap (fun i => toBytes 2 (FF.bf16.rne (FF.fp32.decode (ofBytes (slice bs (4 * i) 4)))))
  else bs

/-! ## Instances -/

/-- A group of a context. -/
def State.cgroup (s : State) (x : Ctx) (id : Nat) : Option CGroup := (s.coll.groups.get x).find? (·.id = id)

/-- A fusion descriptor. -/
def State.cfuse (s : State) (x : Ctx) (id : Nat) : Option CFuse := (s.coll.fuses.get x).find? (·.id = id)

/-- An instance of a group that is armed or in flight. -/
def State.cinst (s : State) (x : Ctx) (g n : Nat) : Option CInst :=
  s.coll.insts.find? (fun i => i.ctx = x && i.group = g && i.num = n)

/-- A group changed. -/
def State.updGroupC (s : State) (x : Ctx) (id : Nat) (f : CGroup → CGroup) : State :=
  { s with coll := { s.coll with groups := s.coll.groups.set x ((s.coll.groups.get x).map (fun g => if g.id = id then f g else g)) } }

/-- An instance changed. -/
def State.updInst (s : State) (x : Ctx) (g n : Nat) (f : CInst → CInst) : State :=
  { s with coll := { s.coll with insts := s.coll.insts.map (fun i => if i.ctx = x && i.group = g && i.num = n then f i else i) } }

/-- The collective header (R403). -/
def collHeader (num group : Nat) (op : Bool) (tree part level : Nat) (abort : Bool) (descCrc shapeCrc off tag slow treeGen : Nat) :
    List Byte :=
  toBytes 8 (num % 2 ^ 32 + place (group % 64) 32 + place (b2n op) 38 + place (tree % 2) 39 + place (part % 2 ^ 15) 40 +
    place (level % 16) 55 + place (b2n abort) 59) ++
  toBytes 8 (descCrc % 2 ^ 32 + place (shapeCrc % 2 ^ 32) 32) ++
  toBytes 8 (off % 2 ^ 40 + place (tag % 65536) 40) ++
  toBytes 8 (slow % 65536 + place (treeGen % 65536) 16)

/-- A collective packet to a neighbour (R401). -/
def collPkt (x : Ctx) (dst : Nat) (payload : List Byte) : Pkt :=
  { cls := 3, op := 0x01, dst := dst, src := 0, ctx := ctxNo x, addr := dst * 2 ^ 48 + 0xF00000000000, len := payload.length,
    payload := payload }

/-- Chunk data of a half: offset, tag, bytes, at most 992 B each (R403, R405; DESIGN CHOICE, log entry 34). -/
def chunksOf (comp : Bool) (w : Nat) (data : List Byte) : List (Nat × Nat × List Byte) :=
  if comp then
    ((piecesOf 4096 (data.length + 1) data).zipIdx.map (fun (sl, i) =>
      let r := encodeSlot w (sl ++ List.replicate (4096 - sl.length) 0)
      ((piecesOf 992 (r.2.length + 1) r.2).zipIdx.map (fun (b, k) => (4096 * i + 992 * k, r.1, b))))).flatten
  else (piecesOf 992 (data.length + 1) data).zipIdx.map (fun (b, k) => (992 * k, 0, b))

/-- A half leaves for a neighbour in a direction. -/
def sendHalf (s : State) (i : CInst) (g : CGroup) (f : CFuse) (axis : Nat) (plus : Bool) (part tree level slow : Nat) (data : List Byte) :
    State :=
  let dest := s.neigh axis plus
  (chunksOf i.comp (collElemBytes f.dtype) data).foldl (fun s c =>
    send s (collPkt i.ctx dest (collHeader i.num i.group i.op tree part level false g.descCrc f.shapeCrc c.1 c.2.1 slow i.treeGen ++ c.2.2))) s

/-- Bytes of wire form a half has here. -/
def CInst.wireLen (i : CInst) (g : CGroup) (f : CFuse) (part tree : Nat) : Nat :=
  (f.half g.size part tree).2 * wireBytes f.dtype i.op

/-- Neighbours of this device in a group, each once. -/
def State.groupNeighbours (s : State) (g : CGroup) : List Nat :=
  ((g.axesList.flatMap (fun a => [s.neigh a true, s.neigh a false])).filter (fun d => d != s.ident.devNum && s.memberOf g d)).eraseDups

/-- An instance fails here (R412): Abort goes to its neighbours on both trees, its pins go, and `event` is raised when it
is this member that found the cause. -/
def failInst (s : State) (x : Ctx) (gid num : Nat) (event : Option (Nat × Nat)) (notTo : Nat) : State :=
  match s.cinst x gid num, s.cgroup x gid with
  | some i, some g =>
    let s := pinObjs { s with coll := { s.coll with insts := s.coll.insts.filter (fun j => j != i) } } i.objs (· - 1)
    let f := (s.cfuse x i.fuse).map (·.shapeCrc)
    let s := ((s.groupNeighbours g).filter (· != notTo)).foldl (fun s d =>
      [0, 1].foldl (fun s t =>
        send s (collPkt x d (collHeader num gid i.op t 0 1 true g.descCrc (f.getD 0) 0 0 0 i.treeGen))) s) s
    match event with
    | some (code, subject) => raiseCtx s code (some x) { cls := 9 } (s.jobs.get x).beat subject
    | none => s
  | _, _ => s

/-- The instance completes on this member (R411, R415): its record, its counts and COLL_DONE; what waits for it may start. -/
def completeInst (s : State) (x : Ctx) (gid num : Nat) : State :=
  match s.cinst x gid num, s.cgroup x gid with
  | some i, some g =>
    if i.completed then s
    else
      let dev := s.devOfRank g i.slowRank
      let lo : Bool := g.axesList.any (fun a => s.neigh a false = dev && dev != s.ident.devNum)
      let hi : Bool := g.axesList.any (fun a => s.neigh a true = dev && dev != s.ident.devNum)
      let s := s.updInst x gid num (fun i => { i with completed := true, objs := [] })
      let s := pinObjs s i.objs (· - 1)
      let s := s.updGroupC x gid (fun g => { g with
        records := ((num, i.slowRank, dev, i.waitNs) :: g.records).take 32, doneInsts := num :: g.doneInsts,
        slowLo := g.slowLo + b2n lo, slowHi := g.slowHi + b2n hi })
      let s := bump s { code := Cnt.COLL_WAIT_NS, unit := 0 } i.waitNs
      let s := { s with mem := { s.mem with oxRuns := s.mem.oxRuns.map (fun r =>
        if r.ctx = x && r.trig = some (gid, num) then { r with trig := none } else r) } }
      raise s { code := Code.COLL_DONE, ctx := some x, unit := { cls := 9 },
                detail := toBytes 8 gid ++ toBytes 8 num ++ toBytes 8 (i.slowRank + place dev 16) ++ toBytes 8 i.waitNs }
  | _, _ => s

/-- An instance with nothing left to do leaves the engine. -/
def retireInst (s : State) (x : Ctx) (gid num : Nat) : State :=
  match s.cinst x gid num with
  | some i => if i.completed && i.partials.isEmpty then { s with coll := { s.coll with insts := s.coll.insts.filter (fun j => j != i) } } else s
  | none => s

/-- A reduced half of this member's own shard is written, or added by the near-memory adders (R404). The status is that of
the first add that fails. -/
def writeShard (s : State) (i : CInst) (g : CGroup) (f : CFuse) (tree : Nat) (data : List Byte) : State × Nat :=
  let t : AddType := if i.dst = 1 then .bf16 else wireType i.dst
  let sh := f.shardElems g.size
  let a := f.shard + tree * (sh / 2) * t.bytes
  let bs := toDst f.dtype i.dst data
  if i.acc then
    (piecesOf 32 (bs.length + 1) bs).zipIdx.foldl (fun (acc : State × Nat) (p : List Byte × Nat) =>
      if acc.2 != 0 then acc
      else
        let (s, st, _) := nmAdd acc.1 (a + 32 * p.2) t p.1 .ok
        (s, st)) (s, 0)
  else if bs.isEmpty then (s, 0)
  else if s.writeErr a bs.length != 0 then (s, s.writeErr a bs.length)
  else (s.wr a bs, 0)

/-- A gathered half is written over its place in the buffers. -/
def writeGathered (s : State) (f : CFuse) (lo n : Nat) (data : List Byte) : State × Nat :=
  match (f.pieces lo n).find? (fun p => s.writeErr p.1 p.2 != 0) with
  | some p => (s, s.writeErr p.1 p.2)
  | none => (fusedWrite s f lo n data, 0)

/-- A half is done here: the owner writes it, or a gathered half goes to its place in the buffers; with the last one the
instance completes. -/
def finishHalf (s : State) (x : Ctx) (gid num part tree : Nat) (data : List Byte) (slow : Nat) : State :=
  match s.cinst x gid num, s.cgroup x gid with
  | some i, some g =>
    match s.cfuse x i.fuse with
    | none => s
    | some f =>
      let key := 2 * part + tree
      if i.written.contains key then s
      else
        let (s, st) : State × Nat :=
          if i.op then writeGathered s f (f.half g.size part tree).1 (f.half g.size part tree).2 data
          else writeShard s i g f tree data
        if st != 0 then failInst s x gid num (some (st, f.shard)) 0
        else
          let s := s.updInst x gid num (fun i => { i with written := key :: i.written, slowRank := slow })
          let need := if i.op then 2 * g.size else 2
          if i.written.length + 1 = need then completeInst s x gid num else s
  | _, _ => s

/-- A gathered half is at this member in a phase, at a level: it goes on to the members it has received from at the lower
levels, and in the phases before (R399). The fuel bounds the phases. -/
def gatherOut (x : Ctx) (gid num part tree slow : Nat) (data : List Byte) : Nat → Nat → Nat → State → State
  | 0, _, _, s => s
  | fuel + 1, phase, level, s =>
    match s.cinst x gid num, s.cgroup x gid with
    | some i, some g =>
      match s.cfuse x i.fuse, s.placeIn g i.modes phase part tree with
      | some f, some p =>
        let s := ((List.range (level - 1)).reverse).foldl (fun s k =>
          match treeRole p.c (k + 1) p.me with
          | .receives src => sendHalf s i g f p.axis (p.plus tree p.me src true) part tree (k + 1) slow data
          | _ => s) s
        if phase = 0 then s
        else
          let c := g.count (g.axesList.getD (phase - 1) 0)
          gatherOut x gid num part tree slow data fuel (phase - 1) (topLevel c 16 1) s
      | _, _ => s
    | _, _ => s

/-- Bytes a reception has in full: its plain bytes, or its slots decoded. -/
def CRecv.whole (r : CRecv) (comp : Bool) (w len : Nat) : Option (List Byte) :=
  let cells := r.cells.mergeSort (fun a b => decide (a.1 ≤ b.1))
  if comp then
    let slots := (List.range (cdiv len 4096)).map (fun i =>
      let mine := cells.filter (fun c => c.1 / 4096 = i)
      let tag := (mine.head?.map (·.2.1)).getD 0
      let bs := mine.flatMap (·.2.2)
      if mine.isEmpty || bs.length < bits tag 8 0 * 16 then none else decodeSlot w tag bs)
    if slots.all Option.isSome then some ((slots.flatMap (fun o => o.getD [])).take len) else none
  else
    let bs := cells.flatMap (·.2.2)
    if len ≤ bs.length then some (bs.take len) else none

/-- What the combine of a packet's row meets (R413). -/
def collUpset : Upset → Bool
  | .ue => true
  | .check _ _ _ => true
  | _ => false

/-- One step of a reduce-scatter half: it is sent, passes up, meets its partner's partial, or is done (R400). The flag says
whether anything happened. -/
def stepHalf (s : State) (x : Ctx) (gid num : Nat) (k : CPartial) : State × Bool :=
  match s.cinst x gid num, s.cgroup x gid with
  | some i, some g =>
    match s.cfuse x i.fuse, s.placeIn g i.modes k.phase k.part k.tree with
    | some f, some p =>
      let without (s : State) : State := s.updInst x gid num (fun i => { i with partials := i.partials.filter (· != k) })
      let put (s : State) (q : CPartial) : State := s.updInst x gid num (fun i => { i with partials := q :: i.partials.filter (· != k) })
      match treeRole p.c k.level p.me with
      | .sends t => (sendHalf (without s) i g f p.axis (p.plus k.tree p.me t false) k.part k.tree k.level k.slow k.data, true)
      | .passes => (put s { k with level := k.level + 1 }, true)
      | .owns =>
        if k.phase + 1 < g.axesList.length then (put s { k with phase := k.phase + 1, level := 1 }, true)
        else (finishHalf (without s) x gid num k.part k.tree k.data k.slow, true)
      | .relays => (s, false)
      | .receives _ =>
        let hit (r : CRecv) : Bool := r.phase = k.phase && r.part = k.part && r.tree = k.tree && r.level = k.level
        let len := i.wireLen g f k.part k.tree
        let got : Option (CRecv × List Byte) :=
          if len = 0 then some ({ phase := 0, part := 0, tree := 0, level := 0, cells := [], slow := k.slow, firstAt := 0 }, [])
          else (i.recv.find? hit).bind (fun r => (r.whole i.comp (collElemBytes f.dtype) len).map (fun d => (r, d)))
        match got with
        | none => (s, false)
        | some (r, d) =>
          let slow := if k.readyAt + 2000 < r.firstAt then r.slow else k.slow
          let s := put s { k with level := k.level + 1, data := combine (wireType f.dtype) d k.data, slow := slow, readyAt := s.now }
          let s := s.updInst x gid num (fun i => { i with recv := i.recv.filter (fun r => !hit r) })
          (bump s { code := Cnt.COLL_BYTES, unit := k.tree } d.length, true)
    | _, _ => (s, false)
  | _, _ => (s, false)

/-- Halves go on as far as they can. The fuel bounds the steps. -/
def progress (x : Ctx) (gid num : Nat) : Nat → State → State
  | 0, s => s
  | fuel + 1, s =>
    match s.cinst x gid num with
    | none => s
    | some i =>
      let r := i.partials.foldl (fun (acc : State × Bool) k =>
        let q := stepHalf acc.1 x gid num k
        (q.1, acc.2 || q.2)) (s, false)
      if r.2 then progress x gid num fuel r.1 else r.1

/-- Steps that bound a member's progress: each half can pass every level of every phase. -/
def progressFuel (g : CGroup) : Nat := 8 * (7 + 1) + g.size

/-! ## COLL_PACKET (R401 to R405, R412 to R414) -/

/-- A neighbour's axis and whether its packets arrive from the plus side. -/
def State.sideOf (s : State) (g : CGroup) (modes : List (Option Nat)) (src tree : Nat) (op : Bool) : Option (Nat × Bool) :=
  (g.axesList.find? (fun a => s.coordOf src a != s.pos a)).map (fun a =>
    match modes.getD a none with
    | none => (a, decide (tree = 0) == op)
    | some st =>
      let c := g.count a
      (a, lineIdx c st (s.posIn g s.ident.devNum a) < lineIdx c st (s.posIn g src a)))

/-- This member is the one a packet is for (R401): its place at the level receives, from the side the packet came by. -/
def Place.target (p : Place) (tree level : Nat) (op fromPlus : Bool) : Bool :=
  match treeRole p.c level p.me, op with
  | .receives src, false => p.plus tree src p.me false != fromPlus
  | .sends dst, true => p.plus tree dst p.me true != fromPlus
  | _, _ => false

/-- The wire bytes of a packet for this member join what has come of their half. -/
def collect (s : State) (x : Ctx) (gid num phase part tree level off tag slow : Nat) (bs : List Byte) : State :=
  s.updInst x gid num (fun i =>
    let hit (r : CRecv) : Bool := r.phase = phase && r.part = part && r.tree = tree && r.level = level
    let wait := max i.waitNs (s.now - i.startAt)
    if i.recv.any hit then
      { i with recv := i.recv.map (fun r => if hit r then { r with cells := r.cells ++ [(off, tag, bs)] } else r) }
    else
      { i with waitNs := wait, recv := i.recv ++ [{ phase := phase, part := part, tree := tree, level := level,
                                                    cells := [(off, tag, bs)], slow := slow, firstAt := s.now }] })

/-- A gathered half that is whole is written here and goes on. -/
def gatherIn (s : State) (x : Ctx) (gid num phase part tree level : Nat) : State :=
  match s.cinst x gid num, s.cgroup x gid with
  | some i, some g =>
    match s.cfuse x i.fuse with
    | none => s
    | some f =>
      let hit (r : CRecv) : Bool := r.phase = phase && r.part = part && r.tree = tree && r.level = level
      match (i.recv.find? hit).bind (fun r => (r.whole i.comp (collElemBytes f.dtype) (i.wireLen g f part tree)).map (fun d => (r, d))) with
      | none => s
      | some (r, d) =>
        let s := s.updInst x gid num (fun i => { i with recv := i.recv.filter (fun r => !hit r) })
        let s := gatherOut x gid num part tree r.slow d 8 phase level s
        finishHalf s x gid num part tree d r.slow
  | _, _ => s

/-- A packet of an instance that runs here, for this member. -/
def takePacket (s : State) (x : Ctx) (gid num : Nat) (op : Bool) (phase part tree level off tag slow : Nat) (bs : List Byte) : State :=
  let s := collect s x gid num phase part tree level off tag slow bs
  let s := if op then gatherIn s x gid num phase part tree level
    else
      match s.cgroup x gid with
      | some g => progress x gid num (progressFuel g) s
      | none => s
  retireInst s x gid num

/-- A packet that reaches the CE window. -/
def collPacket (src : Nat) (x : Ctx) (payload : List Byte) (u : Upset) (s : State) : State :=
  let w0 := u64At payload 0
  let w1 := u64At payload 8
  let w2 := u64At payload 16
  let w3 := u64At payload 24
  let num := bits w0 31 0
  let gid := bits w0 37 32
  let op := bit w0 38
  let tree := bits w0 39 39
  let part := bits w0 54 40
  let level := bits w0 58 55
  match s.cgroup x gid with
  | none => bump s { code := Cnt.COLL_REJECT, unit := tree }
  | some g =>
    if !s.memberOf g src then bump s { code := Cnt.COLL_REJECT, unit := tree }
    else
      let inst := s.cinst x gid num
      if bits w1 31 0 != g.descCrc then failInst s x gid num (some (Code.COLL_MISMATCH, gid)) 0
      else if bit w0 59 then failInst s x gid num none src
      else
        let shape := (inst.bind (fun i => s.cfuse x i.fuse)).map (·.shapeCrc)
        if (match shape with | some c => c != bits w1 63 32 | none => false) then failInst s x gid num (some (Code.COLL_MISMATCH, gid)) 0
        else
          let modes := match inst with | some i => if i.running then i.modes else g.modes | none => g.modes
          match s.sideOf g modes src tree op with
          | none => s
          | some (axis, fromPlus) =>
            let phase := (g.axesList.findIdx? (· = axis)).getD 0
            match s.placeIn g modes phase part tree with
            | none => s
            | some p =>
              if !p.target tree level op fromPlus then send s (collPkt x (s.neigh axis (!fromPlus)) payload)
              else
                match inst with
                | none => if num < g.nextInst then s else { s with coll := { s.coll with early := s.coll.early ++ [(src, x, payload)] } }
                | some i =>
                  if !i.running then { s with coll := { s.coll with early := s.coll.early ++ [(src, x, payload)] } }
                  else if collUpset u then
                    let s := charge s { cls := 9, unit := tree } { severity := 0, eventCode := 0x0105, unitClass := 9 }
                    failInst s x gid num (some (Code.CHECK_FAIL, gid)) 0
                  else takePacket s x gid num op phase part tree level (bits w2 39 0) (bits w2 55 40) (bits w3 15 0) (payload.drop 32)

def execCollPacket (src : Nat) (x : Ctx) (payload : List Byte) (u : Upset) (s : State) : Host.Outcome State Fault Refusal :=
  .next (collPacket src x payload u s)

/-! ## COLL_TRIGGER (R407 to R409) -/

/-- The trigger of an armed instance has come (R407). -/
def State.triggered (s : State) (i : CInst) : Bool :=
  if i.trig = 0 then true
  else if i.trig = 1 then
    (List.finRange 40).any (fun c => match s.stage c i.ctx with
      | some g => g.number = i.trigStage && g.run.isNone && !g.schedule.isEmpty && g.schedule.length ≤ g.pos
      | none => false)
  else match s.cgroup i.ctx i.trigGroup with
    | some g => g.doneInsts.contains i.trigInst
    | none => false

/-- Byte ranges an instance reads and writes here (R397). -/
def collRanges (i : CInst) (g : CGroup) (f : CFuse) : List (Nat × Nat) :=
  f.bufs.map (fun b => (b.1, b.2 * collElemBytes f.dtype)) ++ [(f.shard, f.shardElems g.size * collElemBytes (if i.op then f.dtype else i.dst))]

/-- Byte ranges whose contents an instance reads here. -/
def collReads (s : State) (i : CInst) (g : CGroup) (f : CFuse) : List (Nat × Nat) :=
  if i.op then
    let sh := f.shardElems g.size
    [(f.shard, min sh (f.total - s.rankOf g s.ident.devNum * sh) * collElemBytes f.dtype)]
  else f.bufs.map (fun b => (b.1, b.2 * collElemBytes f.dtype))

/-- What the ranges of an instance meet: the first error. -/
def State.collAccess (s : State) (x : Ctx) (rs : List (Nat × Nat)) : Access :=
  rs.foldl (fun a r => a.and (s.access (s.party x) r.1 r.2)) .ok

/-- An instance starts (R407, R409): it pins its objects, forms its partials, and sends what it can. -/
def startInst (s : State) (i : CInst) (g : CGroup) (f : CFuse) : State :=
  let rs := collRanges i g f
  let objs := (rs.flatMap (fun r => (s.objsAt r.1 r.2).map (·.index))).eraseDups
  let me := s.rankOf g s.ident.devNum
  let i' : CInst := { i with running := true, startAt := s.now, treeGen := g.treeGen, modes := g.modes, objs := objs, slowRank := me }
  let s := pinObjs (s.updInst i.ctx i.group i.num (fun _ => i')) objs (· + 1)
  let s :=
    if i.op then
      [0, 1].foldl (fun s t =>
        let h := f.half g.size me t
        let data := s.rd (f.shard + t * (f.shardElems g.size / 2) * collElemBytes f.dtype) (h.2 * collElemBytes f.dtype)
        let ph := g.axesList.length - 1
        let s := gatherOut i.ctx i.group i.num me t me data 8 ph (topLevel (g.count (g.axesList.getD ph 0)) 16 1) s
        -- a half with no element needs no transfer
        let empties := (List.range g.size).filter (fun p => p != me && (f.half g.size p t).2 = 0)
        let s := empties.foldl (fun s p => finishHalf s i.ctx i.group i.num p t [] me) s
        finishHalf s i.ctx i.group i.num me t data me) s
    else
      let ps := (List.range g.size).flatMap (fun part => [0, 1].map (fun t =>
        let h := f.half g.size part t
        ({ phase := 0, part := part, tree := t, level := 1, data := toWire f.dtype false (s.fusedRead f h.1 h.2), slow := me,
           readyAt := s.now } : CPartial)))
      let s := s.updInst i.ctx i.group i.num (fun i => { i with partials := ps })
      progress i.ctx i.group i.num (progressFuel g) s
  -- packets that came before the start
  let mine := s.coll.early.filter (fun e => e.2.1 = i.ctx && bits (u64At e.2.2 0) 31 0 = i.num && bits (u64At e.2.2 0) 37 32 = i.group)
  let s := { s with coll := { s.coll with early := s.coll.early.filter (fun e => !mine.contains e) } }
  retireInst (mine.foldl (fun s e => collPacket e.1 e.2.1 e.2.2 .none s) s) i.ctx i.group i.num

/-- COLL_TRIGGER (R407, R408): the next instance of a group starts once its trigger has come, with at most 8 in flight. -/
def collTrigger (x : Ctx) (gid num : Nat) (s : State) : State :=
  match s.cinst x gid num, s.cgroup x gid with
  | some i, some g =>
    let first : Bool := !s.coll.insts.any (fun j => j.ctx = x && j.group = gid && j.num < num && !j.running)
    let flying := (s.coll.insts.filter (fun j => j.running && !j.completed)).length
    if i.running || !first || 8 ≤ flying || !s.triggered i || !(s.jobs.get x).isOpen then s
    else
      match s.cfuse x i.fuse with
      | none => s
      | some f =>
        let rs := collRanges i g f
        match s.collAccess x rs with
        | .hold => s
        | .fail st => failInst s x gid num (some (st, f.shard)) 0
        | .ok =>
          match (collReads s i g f).find? (fun r => r.2 != 0 && s.poisoned r.1 r.2) with
          | some r => failInst s x gid num (some (Code.HBM_UE, r.1)) 0
          | none => startInst s i g f
  | _, _ => s

def execCollTrigger (x : Ctx) (group inst : Nat) (s : State) : Host.Outcome State Fault Refusal := .next (collTrigger x group inst s)

/-- Positions whose partials an instance still waits for, as a mask (R412). -/
def State.missing (s : State) (i : CInst) (g : CGroup) : Nat :=
  i.partials.foldl (fun m k =>
    match s.placeIn g i.modes k.phase k.part k.tree with
    | none => m
    | some p =>
      match treeRole p.c k.level p.me with
      | .receives src => m ||| 2 ^ (p.list.getD src 0)
      | _ => m) 0

/-- COLL_TIMEOUT (R412): TimeoutMs after its start an instance that has not completed fails. -/
def collTimeout (x : Ctx) (gid num : Nat) (s : State) : State :=
  match s.cinst x gid num, s.cgroup x gid with
  | some i, some g =>
    if !i.running || i.completed || s.now < i.startAt + g.timeoutNs then s
    else failInst s x gid num (some (Code.COLL_TIMEOUT, s.missing i g)) 0
  | _, _ => s

def execCollTimeout (x : Ctx) (group inst : Nat) (s : State) : Host.Outcome State Fault Refusal := .next (collTimeout x group inst s)

/-- A device reported failed fails every instance it is a member of (R412). -/
def collDevFailed (s : State) (dev : Nat) : State :=
  s.coll.insts.foldl (fun s i =>
    match s.cgroup i.ctx i.group with
    | some g => if i.running && !i.completed && s.memberOf g dev then failInst s i.ctx i.group i.num (some (Code.COLL_MEMBER_FAILED, dev)) 0 else s
    | none => s) s

end Sys2Proof.Machine
end

