-- ==== Sys2Proof/Machine/CollCmds.lean ====
section
/-! DEFINITION. The collective commands of the mailbox (R390 to R398, R407, R408, R415, R573). -/

namespace Sys2Proof.Machine

/-- An instance of a group is armed or in flight (R391). -/
def State.groupBusy (s : State) (x : Ctx) (g : Nat) : Bool := s.coll.insts.any (fun i => i.ctx = x && i.group = g)

/-! ## Groups (R390 to R394) -/

/-- Reserved ranges of a group descriptor. -/
def groupReserved : List (Nat × Nat × Nat) :=
  [(0, 7, 6), (0, 15, 15), (0, 63, 32), (8, 7, 6), (8, 15, 15), (8, 23, 22), (8, 31, 31), (8, 39, 38), (8, 47, 47), (8, 55, 54),
   (8, 63, 63), (16, 7, 6), (16, 15, 15), (16, 23, 22), (16, 31, 31), (16, 39, 38), (16, 47, 47), (16, 63, 48), (24, 63, 0)]

/-- Lo and Count of an axis in a descriptor. -/
def axisEntry (p : List Byte) (a : Nat) : Nat × Nat :=
  let w := ofBytes (slice p (8 + 2 * a) 2)
  (bits w 5 0, bits w 14 8)

/-- The group a descriptor names. -/
def groupOf (p : List Byte) : CGroup :=
  { id := fld p 0 5 0, axes := fld p 0 14 8, timeoutNs := (if fld p 0 31 16 = 0 then 100 else fld p 0 31 16) * 1000000,
    los := (List.range 7).map (fun a => (axisEntry p a).1), counts := (List.range 7).map (fun a => (axisEntry p a).2),
    descCrc := crc32 (slice p 0 32), modes := [] }

/-- First axis entry that R390 or R391 forbids: its bit offset. -/
def groupAxisBad (j : Job) (g : CGroup) : Option Nat :=
  (List.range 7).findSome? (fun a =>
    let lo := g.los.getD a 0
    let n := g.counts.getD a 0
    if bit g.axes a then (if n = 0 || 64 < n || j.lenOf a < lo + n then some (64 + 16 * a) else none)
    else if lo != 0 || n != 0 then some (64 + 16 * a) else none)

/-- A mask lies in the axes of one role (R391). -/
def Mapping.oneRole (m : Mapping) (mask : Nat) : Bool :=
  mask != 0 && [m.axesD, m.axesP, m.axesT, m.axesS, m.axesX].any (fun r => mask &&& r = mask)

def specCollDefine : CmdSpec := {
  code := CmdCode.collDefine, lenOk := lenIs 32, ctx := true, foal := fun _ _ => false, bad := fun p => firstBit p groupReserved }

/-- COLL_DEFINE (R390, R391). A group defined again keeps its instance numbers (DEDUCED, log entry 50). -/
def collDefine (m : MCmd) (s : State) : State :=
  startCmd specCollDefine m s (fun s =>
    let x := m.jobCtx
    let j := s.jobs.get x
    let g := groupOf m.payload
    if !j.map.oneRole g.axes then answer s specCollDefine.code m Code.COLL_AXES
    else
      match groupAxisBad j g with
      | some b => badField s specCollDefine.code m b
      | none =>
        if g.size < 2 then badField s specCollDefine.code m 64
        else if !s.memberOf g s.ident.devNum then answer s specCollDefine.code m Code.COLL_NOT_MEMBER
        else if s.groupBusy x g.id then answer s specCollDefine.code m Code.GROUP_BUSY
        else
          let g := { g with modes := s.groupModes j g, nextInst := ((s.cgroup x g.id).map (·.nextInst)).getD 1 }
          let gs := (s.coll.groups.get x).filter (fun o => o.id != g.id) ++ [g]
          answer { s with coll := { s.coll with groups := s.coll.groups.set x gs } } specCollDefine.code m Code.OK)

def execCollDefine (m : MCmd) (s : State) : Host.Outcome State Fault Refusal := .next (collDefine m s)

def specCollUndefine : CmdSpec := {
  code := CmdCode.collUndefine, lenOk := lenIs 8, ctx := true, foal := fun _ _ => false, bad := fun p => firstBit p [(0, 63, 6)] }

/-- COLL_UNDEFINE (R573). -/
def collUndefine (m : MCmd) (s : State) : State :=
  startCmd specCollUndefine m s (fun s =>
    let x := m.jobCtx
    let id := fld m.payload 0 5 0
    if (s.cgroup x id).isNone then answer s specCollUndefine.code m Code.NO_GROUP
    else if s.groupBusy x id then answer s specCollUndefine.code m Code.GROUP_BUSY
    else
      answer { s with coll := { s.coll with groups := s.coll.groups.set x ((s.coll.groups.get x).filter (fun o => o.id != id)) } }
        specCollUndefine.code m Code.OK)

def execCollUndefine (m : MCmd) (s : State) : Host.Outcome State Fault Refusal := .next (collUndefine m s)

/-! ## Fusion descriptors (R395 to R398) -/

/-- Buffers of a fusion descriptor. -/
def fuseCount (p : List Byte) : Nat := fld p 0 14 8

/-- The shape CRC (R398): of the descriptor's bytes with FuseId and every address 0 (DEDUCED, log entry 51). -/
def shapeCrcOf (p : List Byte) : Nat :=
  crc32 (toBytes 8 (place (fuseCount p) 8 + place (fld p 0 17 15) 15) ++ toBytes 8 0 ++
    (List.range (fuseCount p)).flatMap (fun i => toBytes 8 0 ++ toBytes 8 (fld p (24 + 16 * i) 39 0)))

/-- The fusion descriptor of a payload. -/
def fuseOf (p : List Byte) : CFuse :=
  { id := fld p 0 7 0, dtype := fld p 0 17 15, shard := fld p 8 47 0, shapeCrc := shapeCrcOf p,
    bufs := (List.range (fuseCount p)).map (fun i => (fld p (16 + 16 * i) 47 0, fld p (24 + 16 * i) 39 0)) }

/-- Two ranges of bytes meet. -/
def meets (a b : Nat × Nat) : Bool := a.1 < b.1 + b.2 && b.1 < a.1 + a.2

/-- Two of a list of ranges meet. -/
def anyMeet : List (Nat × Nat) → Bool
  | [] => false
  | r :: rs => rs.any (meets r) || anyMeet rs

/-- Byte ranges of a descriptor that are known without a group: its buffers, and the 512 bytes any shard has (DEDUCED, log entry 52). -/
def CFuse.ranges0 (f : CFuse) : List (Nat × Nat) := (f.shard, 512) :: f.bufs.map (fun b => (b.1, b.2 * collElemBytes f.dtype))

/-- Reserved and misaligned fields of a fusion descriptor, by bit offset. -/
def fuseBad (p : List Byte) : Option Nat :=
  let n := fuseCount p
  match firstBit p ([(0, 63, 18), (8, 63, 48)] ++ (List.range n).flatMap (fun i => [(16 + 16 * i, 63, 48), (24 + 16 * i, 63, 40)])) with
  | some b => some b
  | none =>
    if n = 0 || 64 < n then some 8
    else if 3 < fld p 0 17 15 then some 15
    else if fld p 8 47 0 % 256 != 0 then some 64
    else (List.range n).findSome? (fun i =>
      if fld p (16 + 16 * i) 47 0 % 8 != 0 then some (128 + 128 * i)
      else if fld p (24 + 16 * i) 39 0 = 0 then some (192 + 128 * i) else none)

def specCollFuse : CmdSpec := {
  code := CmdCode.collFuse, lenOk := fun p => p.length = 16 + 16 * fuseCount p, ctx := true, foal := fun _ _ => false, bad := fuseBad }

/-- Instances that use a descriptor keep it when its FuseId is defined again: it moves to a number no FuseId has. -/
def setAside (s : State) (x : Ctx) (id : Nat) : State :=
  let fs := s.coll.fuses.get x
  let spare := (fs.map (·.id)).foldl max 255 + 1
  if s.coll.insts.any (fun i => i.ctx = x && i.fuse = id) then
    let moved (f : CFuse) : CFuse := if f.id = id then { f with id := spare } else f
    let follow (i : CInst) : CInst := if i.ctx = x && i.fuse = id then { i with fuse := spare } else i
    { s with coll := { s.coll with fuses := s.coll.fuses.set x (fs.map moved), insts := s.coll.insts.map follow } }
  else { s with coll := { s.coll with fuses := s.coll.fuses.set x (fs.filter (fun f => f.id != id)) } }

/-- COLL_FUSE (R395, R397). -/
def collFuse (m : MCmd) (s : State) : State :=
  startCmd specCollFuse m s (fun s =>
    let x := m.jobCtx
    let f := fuseOf m.payload
    if anyMeet f.ranges0 then answer s specCollFuse.code m Code.COLL_OVERLAP
    else
      let s := setAside s x f.id
      answer { s with coll := { s.coll with fuses := s.coll.fuses.set x (s.coll.fuses.get x ++ [f]) } } specCollFuse.code m Code.OK)

def execCollFuse (m : MCmd) (s : State) : Host.Outcome State Fault Refusal := .next (collFuse m s)

/-! ## Instances (R407, R408) -/

/-- The instance a payload arms. -/
def instOf (p : List Byte) (x : Ctx) (num : Nat) : CInst :=
  let w := u64At p 0
  { ctx := x, group := bits w 5 0, num := num, fuse := bits w 13 6, op := bit w 14, dst := bits w 17 15, acc := bit w 18,
    comp := bit w 19, trig := bits w 21 20, trigStage := bits w 37 22, trigGroup := bits w 43 38, trigInst := fld p 8 31 0 }

/-- First field that breaks the table of R407. -/
def armBad (i : CInst) (dtype : Nat) : Option Nat :=
  let dstOk : Bool := i.dst = dtype || (!i.op && ((dtype = 0 && i.dst = 1) || (dtype = 1 && i.dst = 0)))
  if !dstOk then some 15
  else if i.acc && (i.op || i.dst = 1) then some 18
  else if i.trig = 3 then some 20
  else none

/-- What a range of an arm breaks of R397: 0 for nothing. -/
def State.armErr (s : State) (x : Ctx) (r : Nat × Nat) : Nat :=
  if r.2 = 0 then 0
  else
    let os := s.mem.objs.filter (fun o => (o.tier = 1 || o.tier = 2 || o.tier = 6) && meets r (o.home, o.size))
    if os.any (·.comp) then Code.COMP_ACCESS
    else if os.isEmpty || os.any (fun o => o.f2 || o.tier = 6) || s.accessErr (s.party x) r.1 r.2 != 0 then Code.OWN_FAULT
    else 0

def specCollArm : CmdSpec := {
  code := CmdCode.collArm, lenOk := lenIs 16, ctx := true, foal := fun _ _ => false,
  bad := fun p => firstBit p [(0, 63, 44), (8, 63, 32)] }

/-- Instances of a context that are armed, and instances in flight on the device. -/
def State.armedN (s : State) (x : Ctx) : Nat := (s.coll.insts.filter (fun i => i.ctx = x && !i.running)).length
def State.flyingN (s : State) : Nat := (s.coll.insts.filter (fun i => i.running && !i.completed)).length

/-- COLL_ARM (R407, R408): with Trigger 0 the instance starts at once. -/
def collArm (m : MCmd) (s : State) : State :=
  startCmd specCollArm m s (fun s =>
    let x := m.jobCtx
    let i0 := instOf m.payload x 0
    match s.cgroup x i0.group, s.cfuse x i0.fuse with
    | none, _ => answer s specCollArm.code m Code.NO_GROUP
    | some _, none => badField s specCollArm.code m 6
    | some g, some f =>
      match armBad i0 f.dtype with
      | some b => badField s specCollArm.code m b
      | none =>
        let i := { i0 with num := g.nextInst }
        let rs := collRanges i g f
        if 32 ≤ s.armedN x then answer s specCollArm.code m Code.BUSY CmdCode.collArm (s.armedN x)
        else if i.trig = 0 && 8 ≤ s.flyingN then answer s specCollArm.code m Code.BUSY CmdCode.collArm s.flyingN
        else if anyMeet (rs.filter (fun r => r.2 != 0)) then answer s specCollArm.code m Code.COLL_OVERLAP
        else
          match (rs.map (s.armErr x)).find? (· != 0) with
          | some st => answer s specCollArm.code m st
          | none =>
            let s := s.updGroupC x g.id (fun g => { g with nextInst := g.nextInst + 1 })
            let s := answer { s with coll := { s.coll with insts := s.coll.insts ++ [i] } } specCollArm.code m Code.OK i.num
            if i.trig = 0 then collTrigger x g.id i.num s else s)

def execCollArm (m : MCmd) (s : State) : Host.Outcome State Fault Refusal := .next (collArm m s)

/-! ## Arrival records (R415) -/

/-- The output of coll.query (DESIGN CHOICE, log entry 53): 16 bytes for each record, newest first, then the two counts of neighbours. -/
def CGroup.queryBytes (g : CGroup) : List Byte :=
  g.records.flatMap (fun r => toBytes 8 (r.1 % 2 ^ 32 + place (r.2.1 % 65536) 32 + place (r.2.2.1 % 65536) 48) ++ toBytes 8 r.2.2.2) ++
    toBytes 8 g.slowLo ++ toBytes 8 g.slowHi

def specCollQuery : CmdSpec := {
  code := CmdCode.collQuery, lenOk := lenIs 8, ctx := true, foal := fun _ _ => false, bad := fun p => firstBit p [(0, 63, 6)] }

/-- COLL_QUERY (R415). -/
def collQuery (m : MCmd) (s : State) : State :=
  startCmd specCollQuery m s (fun s =>
    match s.cgroup m.jobCtx (fld m.payload 0 5 0) with
    | none => answer s specCollQuery.code m Code.NO_GROUP
    | some g => answerOut s specCollQuery.code m g.queryBytes)

def execCollQuery (m : MCmd) (s : State) : Host.Outcome State Fault Refusal := .next (collQuery m s)

end Sys2Proof.Machine
end

