-- ==== Sys2Proof/Machine/Commit.lean ====
section
/-! DEFINITION. The commit of a beat: the hand-over it releases, the writes it lets out, the ring releases it counts, and the
records of tensor watches (R20, R147, R154, R155, R450, R530 to R535). -/

namespace Sys2Proof.Machine

/-! ## Tensor watches -/

/-- Byte at a watched offset, when it was written. -/
def seenAt (l : List Host.Cell) (a : Nat) : Option Byte := (l.find? (fun p => p.1 = a)).map (·.2)

/-- Codes of the elements of a watch whose bytes were all written (R534), in order of offset from the watch's base. -/
def Watch.elems (w : Watch) (f : Fmt) : List Nat :=
  let n := f.width / 8
  (List.range (w.len / n)).filterMap (fun i =>
    let bs := (List.range n).map (fun k => seenAt w.seen (w.base + i * n + k))
    if bs.all Option.isSome then some (ofBytes (bs.map (·.getD 0))) else none)

/-- Histogram bin of a finite non-zero value (R534). -/
def histBin (v : FVal) : Nat := if v.expo < -28 then 0 else if 28 ≤ v.expo then 15 else ((v.expo + 32) / 4).toNat

/-- The extreme of a list of values: FP32 bits, and whether there was one. -/
def extreme (lt : FVal → FVal → Bool) : List FVal → Option FVal
  | [] => none
  | v :: vs => some (vs.foldl (fun b x => if lt x b then x else b) v)

/-- The statistics part of a record, from 0x08 to 0x2F, and the histogram (R534, R535). With no element that is not NaN the
manual states no Min and Max: `none1` and `none2` stand for them (DESIGN CHOICE, log entry 27). -/
def statBytes (f : Fmt) (cs : List Nat) (none1 none2 : Nat) : List Byte × List Byte :=
  let vs := cs.map f.elemVal
  let real := vs.filter (fun v => !v.isNan)
  let n (p : FVal → Bool) : Nat := (vs.filter p).length
  let sub (v : FVal) : Bool := v.isFinite && !v.isZero && decide (v.expo < f.elemFF.emin)
  let mn := match extreme FVal.ltSigned real with | some v => FF.fp32.rne v | none => none1
  let mx := match extreme (fun a b => FVal.ltSigned b a) real with | some v => FF.fp32.rne v | none => none2
  let sum := FF.fp32.rne (FVal.sum vs)
  let sq := FF.fp32.rne (FVal.sum (vs.map (fun v => v.mul v)))
  let fin := vs.filter (fun v => v.isFinite && !v.isZero)
  (toBytes 4 vs.length ++ toBytes 4 (n FVal.isNan) ++ toBytes 4 (n FVal.isInf) ++ toBytes 4 (n FVal.isZero) ++
     toBytes 8 (n sub) ++ toBytes 4 mn ++ toBytes 4 mx ++ toBytes 4 sum ++ toBytes 4 sq,
   (List.range 16).flatMap (fun k => toBytes 4 (fin.filter (fun v => histBin v = k)).length))

/-- A record of 128 bytes (R535). -/
def Watch.record (w : Watch) (id beat none1 none2 : Nat) : List Byte :=
  let (st, hist) := match w.stats, Fmt.ofCode w.fmt with
    | true, some f => statBytes f (w.elems f) none1 none2
    | _, _ => (List.replicate 40 0, List.replicate 64 0)
  toBytes 8 (beat % 2 ^ 48 + place id 48 + place (ctxNo w.ctx) 54 + place (b2n w.stats + 2 * b2n w.digest) 55) ++ st ++
    toBytes 8 (if w.digest then (Seen.digest w.seen).toNat else 0) ++ toBytes 8 0 ++ hist

/-- One watch at the commit of a beat it watches (R530 to R532). -/
def watchCommit (s : State) (i : Fin 64) (c : Cl) (x : Ctx) (beat : Nat) : State :=
  match s.obs.watches.get i with
  | none => s
  | some w =>
    if w.cluster != c.val || w.ctx != x then s
    else
      let put (w : Watch) (s : State) : State := { s with obs := { s.obs with watches := upd s.obs.watches i (fun _ => some w) } }
      if w.since + 1 < w.every then put { w with since := w.since + 1, seen := [] } s
      else if w.ringEntries ≤ w.held then bump (put { w with since := 0, seen := [] } s) { code := Cnt.HEN_DROP }
      else
        let none1 := (Config.freeWord s.free).toNat
        let none2 := (Config.freeWord (s.free + 1)).toNat
        let s := { s with free := s.free + 2 }
        let s := s.wr (w.ringAddr + 128 * w.next) (w.record i.val beat none1 none2)
        put { w with since := 0, seen := [], held := w.held + 1, next := (w.next + 1) % w.ringEntries } s

/-- Every watch at a commit. -/
def watchesCommit (s : State) (c : Cl) (x : Ctx) (beat : Nat) : State :=
  (List.finRange 64).foldl (fun s i => watchCommit s i c x beat) s

/-! ## What a commit releases -/

/-- A command of the beat that writes the output window and ended under R110 (R154). -/
def Stage.emptyOut (g : Stage) (descs : Vector (List Byte) 64) (r : BeatRun) : Bool :=
  let inWin (a : Nat) : Bool := g.outWin ≤ a && a < g.outWin + g.outLen
  r.cmds.any (fun k =>
    let d := Desc.of (descs.get k.desc)
    k.empty && (if d.kind = 4 then d.xfer.dir != 1 && d.xfer.dir != 3 && inWin d.a.elem
      else inWin d.out.elem || (d.kind = 2 && inWin d.aux.elem)))

/-- The sequencer writes the header of the packet in an output slot (R147, R154). The program has left PayloadBytes and
BndMask in it (DEDUCED, log entry 28). -/
def writeHeader (s : State) (c : Cl) (x : Ctx) (g : Stage) (r : BeatRun) (o : Fin 2) (sl : Nat) : State :=
  let k := g.outs.get o
  let q := (s.clusters.get c).seq.get x
  let a := k.at_ sl
  let old := HoHdr.of (s.csRd c a 64)
  let isEmpty := r.emptyIn || g.emptyOut q.descs r
  let mask := if r.emptyIn then 0 else old.bndMask
  let regs := ((List.range 32).filter (fun i => bit mask i)).take 8
  let vals := regs.map (fun i => (q.bnd.toList.getD i 0).toNat)
  let last := !(g.schedule.drop (g.pos + 1)).any (fun e => (schedOf e).2.2.1 = o.val)
  let hb := hoBytes r.beat isEmpty last x r.overran g.number k.nextMb (if isEmpty then 0 else old.payload)
    (regs.foldl (fun m i => m + place 1 i) 0) vals
  s.updCluster c (fun v => { v with store := Mem.write 0 v.store a hb })

/-- Held stores are sent in issue order (R450), each within one 256-byte block (R360). -/
def releaseWrites (s : State) (c : Cl) (x : Ctx) : State :=
  let ws := ((s.clusters.get c).seq.get x).remoteWrites
  let s := s.updSeq c x (fun q => { q with remoteWrites := [] })
  ws.foldl (fun s w =>
    (joinRuns 256 (w.data.zipIdx.map (fun (b, i) => (w.addr + i, b)))).foldl (fun s p =>
      request s (.remoteWrite c.val x) { cls := 1, op := 0x02, dst := devOf w.addr, src := 0, ctx := ctxNo x, addr := p.1,
                                         len := p.2.length, payload := p.2 }) s) s

/-- Commands that release a ring count once their beat commits (R230, R450). -/
def countReleases (s : State) (c : Cl) (x : Ctx) (cs : List Cmd) : State :=
  cs.foldl (fun s k =>
    let d := s.desc c x k.desc
    if d.kind = 3 && d.att.ringRel then
      { s with mem := { s.mem with rings := s.mem.rings.set x ((s.mem.rings.get x).map (fun g =>
          if g.id = d.att.ringId then { g with releases := g.releases + 1 } else g)) } }
    else s) s

/-- Outbound transfers begin to write (R247): their source offsets are fixed to the slots of the beat (R146). -/
def releaseOutbound (s : State) (c : Cl) (x : Ctx) (g : Stage) (cs : List Cmd) : State :=
  let xs := cs.filterMap (fun k => match k.xfer with
    | some t => if t.pinned && !t.reqs.isEmpty then some { t with reqs := t.reqs.map (fun r => { r with store := g.place r.store }) } else none
    | none => none)
  s.updStage c x (fun g => { g with outbound := g.outbound ++ xs })

/-! ## BEAT_COMMIT -/

/-- Every stage of the context that started an earlier beat has committed it (R20, R155), and no beat at or before this one
has failed (R158, R465). -/
def State.inOrder (s : State) (c : Cl) (x : Ctx) (beat : Nat) : Bool :=
  (match (s.jobs.get x).failedBeat with | some b => beat < b | none => true) &&
  (List.finRange 40).all (fun d => d = c || (match s.run d x with | some r => beat ≤ r.beat | none => true))

/-- The beat a cluster may commit: its program has ended and every check on its work has passed (R155). -/
def State.committable (s : State) (c : Cl) (x : Ctx) : Option BeatRun :=
  match s.run c x with
  | none => none
  | some r =>
    if r.ended && r.failed.isNone && s.clusterUp c && !s.goose.stopCommits && s.inOrder c x r.beat &&
        !s.goose.items.any (fun w => w.cluster = c && w.ctx = x && w.isOpen) then some r else none

/-- BEAT_COMMIT (R155). -/
def beatCommit (c : Cl) (x : Ctx) (s : State) : State :=
  match s.committable c x, s.stage c x with
  | some r, some g =>
    let s := releaseWrites s c x
    let s := countReleases s c x r.cmds
    let s := releaseOutbound s c x g r.cmds
    let s := watchesCommit s c x r.beat
    let late := (s.jobs.get x).beat != r.beat
    let s := match r.outSel with
      | some (o, sl) =>
        if h : o < 2 ∧ sl < 2 then
          let o : Fin 2 := ⟨o, h.1⟩
          let s := writeHeader s c x g r o sl
          s.updOut c x o (fun q => { q with slots := upd q.slots ⟨sl, h.2⟩ (fun _ => OutSt.held r.beat q.nextMb), nextMb := q.nextMb + 1 })
        else s
      | none => s
    let s := s.updStage c x (fun g => { g with
      run := none, committed := some r.beat, pos := g.pos + 1, idle := if late then .overrunDefer else .slack })
    let s := match r.inSel with
      | some (i, sl) =>
        if h : i < 2 ∧ sl < 3 then
          let i : Fin 2 := ⟨i, h.1⟩
          let s := s.updIn c x i (fun q => { q with
            slots := upd q.slots ⟨sl, h.2⟩ (fun _ => InSt.free), overrun := q.overrun.filter (· != q.nextMb), nextMb := q.nextMb + 1 })
          tellProducer s c x i none
        else s
      | none => s
    let s := match r.outSel with
      | some (o, _) => if h : o < 2 then trySend s c x ⟨o, h⟩ else s
      | none => s
    let s := { s with goose := { s.goose with items := s.goose.items.filter (fun w => !(w.cluster = c && w.ctx = x)) } }
    checkStepDone s x
  | _, _ => s

def execBeatCommit (c : Cl) (x : Ctx) (s : State) : Host.Outcome State Fault Refusal := .next (beatCommit c x s)

end Sys2Proof.Machine
end

