-- ==== Sys2Proof/Machine/Link.lean ====
section
/-! DEFINITION. The link layer of the fabric: training and negotiation, flits, retraining and failed links (R342 to R357,
R381 to R384, R387). -/

namespace Sys2Proof.Machine

/-! ## Training (R351 to R356) -/

/-- Code of a role in a negotiation record (R353); an Unused port sends none. -/
def Role.code : Role → Nat
  | .torus => 0
  | .uplink => 1
  | .f2 => 2
  | .unused => 3

/-- The record a port sends (R353). -/
def State.ownRec (s : State) (p : Port) : NegRec :=
  let q := s.fab.ports.get p
  { protoMax := 3, devNum := s.ident.devNum, port := p.val, role := q.role.code, laneOk := q.laneOk, ready := s.sys.fabricReady }

/-- Credits granted on each virtual channel of a port (R350), in 64-byte units. -/
def creditsOf (r : Role) (vc : Nat) : Nat :=
  let torus : List Nat := [4, 24, 48, 96]
  let uplink : List Nat := [16, 192, 384, 768]
  match r with
  | .torus => (torus.getD (vc / 2) 0) * 16
  | .uplink => (uplink.getD (vc / 2) 0) * 16
  | _ => 0

/-- Lanes usable at both ends, as a mask. -/
def FPort.lanesBoth (q : FPort) (r : NegRec) : Nat := q.laneOk &&& r.laneOk

/-- Number of lanes in a mask of 8. -/
def laneCount (m : Nat) : Nat := ((List.range 8).filter (bit m)).length

/-- The width of R355: the largest of 8, 4 and 2 that the usable lanes allow; 0 with fewer than 2. -/
def widthOf (m : Nat) : Nat :=
  let n := laneCount m
  if 8 ≤ n then 8 else if 4 ≤ n then 4 else if 2 ≤ n then 2 else 0

/-- The protocol of a link (R354). -/
def protoOf (r : NegRec) : Nat := min 3 r.protoMax

/-- The link is refused (R354). -/
def FPort.refuses (q : FPort) (p : Port) (r : NegRec) : Bool :=
  let ff3 : Bool := q.role = .torus || q.role = .uplink
  protoOf r < 2 || q.role.code != r.role || (ff3 && r.port != (otherPort p).val) || (ff3 && protoOf r = 2)

/-- Time of a port's first training start (R352). -/
def State.trainStart (s : State) (p : Port) : Nat :=
  s.sys.resetAt + 140000000 + 2000000 * p.val + 500000 * ((s.ident.devNum - 1) % 16)

/-- LINK_TRAINING_START (R352): the port's start time, or the retry 10 ms after an attempt the peer did not answer. The role
and the enable that fab.port.config named are taken here. -/
def linkTrainingStart (p : Port) (s : State) : State :=
  let q := s.fab.ports.get p
  let due := q.trainAt.getD (s.trainStart p)
  if s.now < due || q.link != .training || q.peer.isSome then s
  else
    let (role, en, lim) := q.nextRole.getD (q.role, q.enable, q.congestNs)
    if role = .unused || !en then
      s.updPort p (fun q => { q with role := role, enable := en, congestNs := lim, nextRole := none, link := .disabled })
    else
      s.updPort p (fun q => { q with
        role := role, enable := en, congestNs := lim, nextRole := none, trainAt := some (s.now + 10000000), attempts := q.attempts + 1,
        peerSame := 0, sent := 0, sentRec := none })

def execLinkTrainingStart (p : Port) (s : State) : Host.Outcome State Fault Refusal := .next (linkTrainingStart p s)

/-- LANES_LOCKED (R351): the usable lanes of the port are known and the link passes to NOT_READY. -/
def lanesLocked (p : Port) (lanes : BitVec 8) (s : State) : State :=
  let q := s.fab.ports.get p
  if q.link != .training || q.attempts = 0 then s
  else s.updPort p (fun q => { q with link := .notReady, laneOk := lanes.toNat })

def execLanesLocked (p : Port) (lanes : BitVec 8) (s : State) : Host.Outcome State Fault Refusal := .next (lanesLocked p lanes s)

/-- A link whose negotiation is complete and whose ends are both fabric-ready comes UP (R355, R356): credits are granted, and
a neighbour counts as heard from now. A link with fewer than 2 usable lanes is taken out of service (R25). -/
def tryUp (s : State) (p : Port) : State :=
  let q := s.fab.ports.get p
  match q.peer with
  | none => s
  | some r =>
    if q.link != .notReady || q.peerSame < 2 || q.sent < 2 then s
    else
      let w := widthOf (q.lanesBoth r)
      if w = 0 then s.updPort p (fun q => { q with link := .disabled, outOfService := true, lanes := 0 })
      else if !(s.sys.fabricReady && r.ready) then s
      else
        let s := s.updPort p (fun q => { q with
          link := .up, lanes := w, ff2 := protoOf r = 2, outOfService := false,
          credits := Vector.ofFn (fun v => creditsOf q.role v.val), crOwed := Vector.replicate 8 0,
          txSeq := 0, rxLast := 0x3FFF, rxDrop := false, replay := [], onWire := [], replayOf := none, replays := 0 })
        let s := { s with fab := { s.fab with heard := (r.devNum, s.now) :: s.fab.heard.filter (fun h => h.1 != r.devNum) } }
        drainTx s p ((s.fab.ports.get p).txq.length + 1)

/-- NEGOTIATION_RECORD (R353, R354): the peer's record arrives; the second copy without change ends the exchange here. -/
def negotiationRecord (p : Port) (r : NegRec) (s : State) : State :=
  let q := s.fab.ports.get p
  if !(q.link = .training || q.link = .notReady) || q.attempts = 0 then s
  else
    let same : Nat := if q.peer = some r then q.peerSame + 1 else 1
    let s := s.updPort p (fun q => { q with peer := some r, peerSame := same })
    if 2 ≤ same && q.refuses p r then
      let s := s.updPort p (fun q => { q with link := .disabled })
      raise s { code := Code.LINK_MISMATCH, unit := { cls := 8, unit := p.val }, detail := detailOf 0 p.val 0 }
    else tryUp s p

def execNegotiationRecord (p : Port) (r : NegRec) (s : State) : Host.Outcome State Fault Refusal := .next (negotiationRecord p r s)

/-- NEGOTIATION_RECORD_SEND (R353): every 1 µs of the training the port sends its record again. -/
def negotiationSend (p : Port) (s : State) : State :=
  let q := s.fab.ports.get p
  if !(q.link = .training || q.link = .notReady) || q.attempts = 0 then s
  else if q.sent != 0 && s.now < q.sentAt + 1000 then s
  else tryUp (s.updPort p (fun q => { q with sent := q.sent + 1, sentRec := some (s.ownRec p), sentAt := s.now })) p

def execNegotiationRecordSend (p : Port) (s : State) : Host.Outcome State Fault Refusal := .next (negotiationSend p s)

/-! ## Retraining and failure (R381 to R384) -/

/-- Cause code of a link fault (R484). -/
def LinkCause.code : LinkCause → Nat
  | .fecLost => 1
  | .replayLimit => 2
  | .peerRequest => 3

/-- A link leaves UP for RETRAIN (R381); its replay buffer and credits are kept. The first attempt begins at once. -/
def startRetrain (s : State) (p : Port) (cause : Nat) : State :=
  if (s.fab.ports.get p).link != .up then s
  else s.updPort p (fun q => { q with
    link := .retrain, retrainSince := s.now, attempts := 0, attempting := true, faultCause := cause, lanesBefore := q.lanes })

def execLinkFault (p : Port) (cause : LinkCause) (s : State) : Host.Outcome State Fault Refusal :=
  .next (startRetrain s p cause.code)

/-- RETRAIN_ATTEMPT_START (R381): 50 µs after an attempt failed. -/
def retrainAttemptStart (p : Port) (s : State) : State :=
  let q := s.fab.ports.get p
  if q.link != .retrain || q.attempting || s.now < q.trainAt.getD 0 + 50000 then s
  else s.updPort p (fun q => { q with attempting := true })

def execRetrainAttemptStart (p : Port) (s : State) : Host.Outcome State Fault Refusal := .next (retrainAttemptStart p s)

/-- A packet goes round by the other port of its axis (R383), unless that has failed too (R384). -/
def detour (s : State) (p : Port) (k : Pkt) : State :=
  let o := otherPort p
  if (s.fab.ports.get o).link = .failed then
    let s := bump s { code := Cnt.DETOUR_FAIL, unit := o.val }
    { s with fab := { s.fab with split := if s.fab.split.contains (100 + o.val / 2) || s.fab.split.contains (o.val / 2)
        then s.fab.split else (100 + o.val / 2) :: s.fab.split } }
  else enqueue (bump s { code := Cnt.DETOUR_FWD, unit := o.val }) { k with detour := true, vc := true } o

/-- A link has FAILED (R382, R383): LINK_FAILED and its record, and every packet in its replay buffer and its queue goes
round. -/
def failLink (s : State) (p : Port) : State :=
  let q := s.fab.ports.get p
  let peer := (q.peer.map (·.devNum)).getD 0
  let pport := (q.peer.map (·.port)).getD 0
  let u : UnitId := { cls := 8, unit := p.val }
  let s := s.updPort p (fun q => { q with
    link := .failed, lanes := 0, attempting := false, txq := [], onWire := [], replay := [],
    credits := Vector.replicate 8 0, waitSince := Vector.replicate 8 none, crOwed := Vector.replicate 8 0 })
  let s := raiseRec s { code := Code.LINK_FAILED, unit := u } 0 p.val
    { severity := 0, eventCode := 0x0302, unitClass := 8,
      detail := linkDetail peer pport q.faultCause q.lanesBefore 0 q.replays }
  raiseSplits ((q.onWire.map (·.2) ++ q.txq).foldl (fun s k => detour s p k) s)

/-- RETRAIN_ATTEMPT_END (R381, R382): with at least 2 usable lanes the link is UP again and both ends replay; the third
failure makes it FAILED. -/
def retrainAttemptEnd (p : Port) (ok : Bool) (lanes : BitVec 8) (s : State) : State :=
  let q := s.fab.ports.get p
  if q.link != .retrain || !q.attempting then s
  else
    let w := widthOf (match q.peer with | some r => lanes.toNat &&& r.laneOk | none => lanes.toNat)
    if ok && w != 0 then
      let s := s.updPort p (fun q => { q with
        link := .up, lanes := w, laneOk := lanes.toNat, attempting := false, attempts := 0, rxDrop := false,
        replayOf := none, replays := 0 })
      let s := if q.replay.isEmpty then s else bump s { code := Cnt.LINK_REPLAY, unit := p.val }
      drainTx s p ((s.fab.ports.get p).txq.length + 1)
    else
      let s := s.updPort p (fun q => { q with attempting := false, attempts := q.attempts + 1, trainAt := some s.now })
      if q.attempts + 1 < 3 then s else failLink s p

def execRetrainAttemptEnd (p : Port) (ok : Bool) (lanes : BitVec 8) (s : State) : Host.Outcome State Fault Refusal :=
  .next (retrainAttemptEnd p ok lanes s)

/-! ## Flits (R347 to R350) -/

/-- Distance from one flit number to another, modulo 2^14. -/
def flitDist (a b : Nat) : Nat := (b + 16384 - a % 16384) % 16384

/-- A flit number is covered by an acknowledgement. -/
def covered (seq ack : Nat) : Bool := flitDist seq ack < 8192

/-- The acknowledgement of a flit frees the replay buffer (R349). -/
def FPort.acked (q : FPort) (ack : Nat) : FPort :=
  { q with replay := q.replay.filter (fun f => !covered f.seq ack), onWire := q.onWire.filter (fun w => !covered w.1 ack) }

/-- Credits returned join those held (R350). -/
def FPort.credited (q : FPort) (vc n : Nat) : FPort :=
  if h : vc < 8 then { q with credits := upd q.credits ⟨vc, h⟩ (· + n) } else q

/-- A Nak makes the port replay its buffer (R349): each replay is counted, and the eighth of one flit starts a retrain. -/
def replayFrom (s : State) (p : Port) : State :=
  let q := s.fab.ports.get p
  match q.replay with
  | [] => s
  | f :: _ =>
    let n := match q.replayOf with | some (g, m) => if g = f.seq then m + 1 else 1 | none => 1
    let s := s.updPort p (fun q => { q with replayOf := some (f.seq, n), replays := q.replays + 1 })
    let s := noteCorrected (bump s { code := Cnt.LINK_REPLAY, unit := p.val }) { cls := 8, unit := p.val } 0x0301 1
    if 8 ≤ n then startRetrain s p 2 else s

/-- FLIT_RECEIVE (R349): a flit is checked; its acknowledgement, Nak and credits are processed; a sequenced flit in order
is taken, and a bad or early one is discarded with all that follow until the replay arrives. -/
def flitReceive (p : Port) (f : Flit) (s : State) : State :=
  let q := s.fab.ports.get p
  if !(q.link = .up || q.link = .notReady) then s
  else
    let drop (s : State) : State :=
      if (s.fab.ports.get p).rxDrop then s
      else s.updPort p (fun q => { q with rxDrop := true, nakSent := some q.rxLast })
    if !f.crcOk then drop s
    else if q.link = .notReady then
      if f.notReady then s
      else tryUp (s.updPort p (fun q => { q with peer := q.peer.map (fun r => { r with ready := true }) })) p
    else
      let s := s.updPort p (fun q => (q.acked f.ackSeq).credited f.crVc f.crCount)
      let s := if f.nak then replayFrom s p else s
      let s := drainTx s p ((s.fab.ports.get p).txq.length + 1)
      if f.idle then s
      else if f.seq = (q.rxLast + 1) % 16384 then
        bump (s.updPort p (fun q => { q with rxLast := f.seq, rxDrop := false })) { code := Cnt.PORT_RX_BYTES, unit := p.val } f.bytes.length
      else drop s

def execFlitReceive (p : Port) (f : Flit) (s : State) : Host.Outcome State Fault Refusal := .next (flitReceive p f s)

/-- A packet that leaves the receive buffer of a port owes its credits to the peer (R350). -/
def oweCredits (s : State) (p : Port) (k : Pkt) : State := s.updPort p (fun q => { q with crOwed := upd q.crOwed k.vcNo (· + k.units) })

/-- PACKET_FORWARD (R376, R378, R383): a packet for another device leaves by its route. -/
def packetForward (p : Port) (k : Pkt) (s : State) : State :=
  if k.dst = s.ident.devNum then s
  else
    let s := oweCredits s p k
    if 64 ≤ k.hops + 1 then bump s { code := Cnt.FAB_HOPS, unit := p.val }
    else raiseSplits (checkThresholds (routePkt s (some p) { k with hops := k.hops + 1 }))

def execPacketForward (p : Port) (k : Pkt) (s : State) : Host.Outcome State Fault Refusal := .next (packetForward p k s)

/-- FAB_CONGEST (R387): a virtual channel has waited with its credits at zero for longer than CongestLimit. -/
def fabCongest (p : Port) (vc : Fin 8) (s : State) : State :=
  let q := s.fab.ports.get p
  match q.waitSince.get vc with
  | none => s.updPort p (fun q => { q with congested := false })
  | some t =>
    if s.now ≤ t + q.congestNs || q.congested then s
    else
      raise (s.updPort p (fun q => { q with congested := true }))
        { code := Code.FAB_CONGEST, unit := { cls := 8, unit := p.val, sub := vc.val }, detail := detailOf 0 (p.val + place vc.val 8) 0 }

def execFabCongest (p : Port) (vc : Fin 8) (s : State) : Host.Outcome State Fault Refusal := .next (fabCongest p vc s)

end Sys2Proof.Machine
end

