-- ==== Sys2Proof/Machine/Transport.lean ====
section
/-! DEFINITION. The transport layer of the fabric: flows, sequence numbers and exactly-once delivery (R358 to R368, R379). -/

namespace Sys2Proof.Machine

/-! ## Requests that fail (R361, R439) -/

/-- A request of this device fails with a status: its requester meets the error of that name. -/
def failReq (s : State) (r : OutReq) (status : Nat) : State :=
  let s := { s with fab := { s.fab with reqs := s.fab.reqs.filter (fun q => q.tag != r.tag) } }
  match r.who with
  | .thread c t => if h : c < 40 ∧ t < 8 then veStop s ⟨c, h.1⟩ ⟨t, h.2⟩ (if status = Code.HBM_POISON then Code.HBM_UE else status) [] else s
  | .transfer c x d i =>
    if h : c < 40 ∧ d < 64 then
      let c : Cl := ⟨c, h.1⟩
      match ((s.cmd c x ⟨d, h.2⟩).bind (·.xfer)).bind (fun t => t.reqs[i]?) with
      | some q => returned s c x ⟨d, h.2⟩ i q [] status
      | none => s
    else s
  | .remoteWrite c x => if h : c < 40 then raiseCtx s status (some x) (seqUnit ⟨c, h⟩) (s.jobs.get x).beat r.addr else s
  | .move hdl => match s.move? hdl with | some m => failMove s m status false | none => s
  | .ckpt key => ckptFail s key (if status = Code.HBM_POISON then Code.HBM_UE else status) 0
  | .mule => s

/-- A BULK WRITE that cannot be delivered leaves the object it belongs to Damaged (R364, R649). -/
def loseWrite (s : State) (k : Pkt) : State :=
  match ctxOf k.ctx with
  | some x => if k.cls = 3 && !(s.objsAt k.addr k.len).isEmpty then
      damage s x { cls := 3 } (s.jobs.get x).beat 0 k.addr k.len Code.DEV_UNREACHABLE else s
  | none => s

/-! ## Source flows (R362, R364 to R366) -/

/-- Port by which a packet to a device leaves. -/
def State.portTo (s : State) (dst : Nat) : Nat :=
  match s.fab.bank? s.fab.activeEpoch with
  | some b => (b.lookup s.ident.devNum dst).1
  | none => 0

/-- Flows that wait for a free source context get one while there is room (R366). The number bounds how many. -/
def accept (s : State) : Nat → State
  | 0 => s
  | n + 1 =>
    match s.fab.ctxWait with
    | [] => s
    | (t, k) :: rest =>
      if 8192 ≤ s.fab.src.length && (s.fab.srcFlow? k.cls k.dst).isNone then s
      else
        let s := { s with fab := { s.fab with ctxWait := rest } }
        accept (send (bump s { code := Cnt.T_CTX_WAIT, unit := s.portTo k.dst } (s.now - t)) k) n

/-- Once every drain marker is back the swap completes and the old bank is EMPTY (R379). -/
def checkSwap (s : State) : State :=
  if !s.fab.drains.isEmpty || !s.fab.banks.toList.any (fun b => b.st = .draining) then s
  else
    let s := { s with fab := { s.fab with banks := s.fab.banks.map (fun b =>
      if b.st = .draining then { b with st := .emptySt, pod := [], hall := [] } else b) } }
    completeLater s CmdCode.fabRouteSwap 0 Code.OK

/-- A source flow's context is closed: its FlowEpoch is remembered, and it owes no drain marker any more. -/
def closeSrc (s : State) (f : SrcFlow) : State :=
  let s := { s with fab := { s.fab with
    src := s.fab.src.filter (fun g => !(g.cls = f.cls && g.peer = f.peer)),
    epochs := (f.cls, f.peer, f.epoch) :: s.fab.epochs.filter (fun e => !(e.1 = f.cls && e.2.1 = f.peer)),
    drains := s.fab.drains.filter (fun d => d != (f.cls, f.peer)) } }
  accept (checkSwap s) s.fab.ctxWait.length

/-- A flow is lost with a device or by its retransmissions: its requests fail, its writes damage their objects (R364, R439). -/
def dropFlow (s : State) (f : SrcFlow) : State :=
  let s := closeSrc s f
  let s := if f.cls = 1 then (s.fab.reqs.filter (fun r => r.dst = f.peer)).foldl (fun s r => failReq s r Code.DEV_UNREACHABLE) s else s
  let s := (f.unacked.map (·.pkt) ++ f.waiting).foldl loseWrite s
  if f.cls = 3 then ckptLost s f.peer else s

/-- A flow fails after the fourth retransmission of one of its packets (R364). -/
def failFlow (s : State) (f : SrcFlow) (seq : Nat) : State :=
  let s := raise s { code := Code.FLOW_FAIL, unit := { cls := 8, unit := s.portTo f.peer },
                     detail := toBytes 8 (f.peer % 65536 + place f.cls 16 + place f.epoch 24) ++ toBytes 8 (seq % 2 ^ 32) }
  dropFlow s f

/-- One packet of a flow is sent again, or the flow fails when it has been retransmitted four times. -/
def retransmit (s : State) (cls peer : Nat) (u : Unacked) : State :=
  match s.fab.srcFlow? cls peer with
  | none => s
  | some f =>
    if !f.unacked.any (fun v => v.pkt.seq = u.pkt.seq) then s
    else if 4 ≤ u.retries then failFlow s f u.pkt.seq
    else
      let s := { s with fab := s.fab.updSrc cls peer (fun f => { f with
        unacked := f.unacked.map (fun v => if v.pkt.seq = u.pkt.seq then { v with retries := v.retries + 1, sentAt := s.now } else v),
        routeEpochs := if u.pkt.op = 0x1F || f.routeEpochs.contains s.fab.activeEpoch then f.routeEpochs else s.fab.activeEpoch :: f.routeEpochs }) }
      raiseSplits (checkThresholds (transmit s u.pkt))

/-- Packets that a flow's limits had kept waiting are injected as far as the limits now allow (R365). -/
def pump (s : State) (cls peer : Nat) : State :=
  match s.fab.srcFlow? cls peer with
  | none => s
  | some f =>
    let s := { s with fab := s.fab.updSrc cls peer (fun f => { f with waiting := [] }) }
    f.waiting.foldl (fun s k => send s k) s

/-- T_ACK (R362): packets up to the acknowledged SeqNum are let go. -/
def tAck (peer cls epoch seq : Nat) (s : State) : State :=
  match s.fab.srcFlow? cls peer with
  | none => s
  | some f =>
    if f.epoch != epoch then s
    else
      let s := { s with fab := s.fab.updSrc cls peer (fun f => { f with
        unacked := f.unacked.filter (fun u => seq < u.pkt.seq), lastUse := s.now }) }
      ckptAll (pump s cls peer)

def execTAck (peer cls epoch seq : Nat) (s : State) : Host.Outcome State Fault Refusal := .next (tAck peer cls epoch seq s)

/-- The flow is opened again under the next FlowEpoch, its packets numbered from 1 (R366). -/
def reopen (s : State) (f : SrcFlow) : State :=
  let e := (f.epoch + 1) % 256
  let us := f.unacked.zipIdx.map (fun (u, i) => { u with pkt := { u.pkt with seq := i + 1, flowEpoch := e }, sentAt := s.now })
  let s := { s with fab := s.fab.updSrc f.cls f.peer (fun f => { f with epoch := e, nextSeq := us.length + 1, unacked := us }) }
  us.foldl (fun s u => raiseSplits (checkThresholds (transmit s u.pkt))) s

/-- T_NAK (R364, R366): the flow is retransmitted from the SeqNum named; 0 reopens it. -/
def tNak (peer cls epoch seq : Nat) (s : State) : State :=
  match s.fab.srcFlow? cls peer with
  | none => s
  | some f =>
    if f.epoch != epoch then s
    else if seq = 0 then reopen s f
    else (f.unacked.filter (fun u => seq ≤ u.pkt.seq)).foldl (fun s u => retransmit s cls peer u) s

def execTNak (peer cls epoch seq : Nat) (s : State) : Host.Outcome State Fault Refusal := .next (tNak peer cls epoch seq s)

/-- RETRANSMIT_TIMEOUT (R364): packets unacknowledged 4 ms after their last transmission. -/
def retransmitTimeout (peer cls : Nat) (s : State) : State :=
  match s.fab.srcFlow? cls peer with
  | none => s
  | some f => (f.unacked.filter (fun u => u.sentAt + 4000000 ≤ s.now)).foldl (fun s u => retransmit s cls peer u) s

def execRetransmitTimeout (peer cls : Nat) (s : State) : Host.Outcome State Fault Refusal := .next (retransmitTimeout peer cls s)

/-! ## Destination flows (R362, R363, R366, R367) -/

/-- The destination flow of a class from a device. -/
def Fabric.dstFlow? (f : Fabric) (cls peer : Nat) : Option DstFlow := f.dst.find? (fun c => c.cls = cls && c.peer = peer)

/-- A destination flow changed. -/
def Fabric.updDst (f : Fabric) (cls peer : Nat) (g : DstFlow → DstFlow) : Fabric :=
  { f with dst := f.dst.map (fun c => if c.cls = cls && c.peer = peer then g c else c) }

/-- The operations of R359. -/
def defined (cls op : Nat) : Bool :=
  op = 0x1F && cls < 4 || (cls = 0 && 1 ≤ op && op ≤ 0x0D) || (cls = 1 && 1 ≤ op && op ≤ 4) ||
    (cls = 2 && 1 ≤ op && op ≤ 3) || (cls = 3 && op = 1)

/-- A transport acknowledgement, or with `op` 0x0D a negative one: class, FlowEpoch and SeqNum (R362, R363; layout of log
entry 21). -/
def sendAck (s : State) (op peer cls epoch seq : Nat) : State :=
  send s (ctlPkt op peer (toBytes 8 (cls + place (epoch % 256) 8) ++ toBytes 8 (seq % 2 ^ 32)))

/-- A T_ACK with the highest SeqNum delivered in order. -/
def ackFlow (s : State) (cls peer : Nat) : State :=
  match s.fab.dstFlow? cls peer with
  | none => s
  | some f =>
    let s := { s with fab := s.fab.updDst cls peer (fun f => { f with unackedN := 0 }) }
    sendAck s 0x0C peer cls f.epoch (f.expect - 1)

/-- T_ACK_TIMER (R362): 1 µs after the first delivery not yet acknowledged. -/
def tAckTimer (peer cls : Nat) (s : State) : State :=
  match s.fab.dstFlow? cls peer with
  | none => s
  | some f => if f.unackedN = 0 || s.now < f.ackSince + 1000 then s else ackFlow s cls peer

def execTAckTimer (peer cls : Nat) (s : State) : Host.Outcome State Fault Refusal := .next (tAckTimer peer cls s)

/-- A packet is delivered (R368): requests, responses, writes and drain markers wait to be performed. -/
def handUp (s : State) (p : Port) (k : Pkt) : State :=
  let s := logPkt s p 1 k
  if k.cls = 0 && k.op != 0x1F then s else { s with fab := { s.fab with delivered := s.fab.delivered ++ [k] } }

/-- Packets now in order are delivered: held ones, and past Relaxed ones delivered before (R363, R367). The number bounds how
many. -/
def catchUp (p : Port) (cls peer : Nat) : Nat → State → State
  | 0, s => s
  | n + 1, s =>
    match s.fab.dstFlow? cls peer with
    | none => s
    | some f =>
      if f.early.contains f.expect then
        catchUp p cls peer n { s with fab := s.fab.updDst cls peer (fun f => { f with
          expect := f.expect + 1, early := f.early.filter (· != f.expect) }) }
      else
        match f.held.find? (fun k => k.seq = f.expect) with
        | none => s
        | some k =>
          let s := { s with fab := s.fab.updDst cls peer (fun f => { f with
            expect := f.expect + 1, held := f.held.filter (fun o => o.seq != f.expect), unackedN := f.unackedN + 1 }) }
          catchUp p cls peer n (handUp s p k)

/-- Bytes in the reorder store (R363). -/
def Fabric.reorderBytes (f : Fabric) : Nat := (f.dst.map (fun c => (c.held.map Pkt.bytes).sum)).sum

/-- A delivery starts the acknowledgement's 1 µs, and the 32nd sends it (R362). -/
def noteDelivery (s : State) (cls peer : Nat) : State :=
  match s.fab.dstFlow? cls peer with
  | none => s
  | some f => if 32 ≤ f.unackedN then ackFlow s cls peer else s

/-- An arriving packet under an open context of its own FlowEpoch (R363, R367). -/
def arrive (s : State) (p : Port) (k : Pkt) (f : DstFlow) : State :=
  let s := { s with fab := s.fab.updDst k.cls k.src (fun f => { f with lastUse := s.now }) }
  if k.seq < f.expect || f.early.contains k.seq || f.held.any (fun o => o.seq = k.seq) then
    ackFlow (bump s { code := Cnt.T_DUP, unit := p.val }) k.cls k.src
  else
    let first (s : State) : State := { s with fab := s.fab.updDst k.cls k.src (fun f => { f with
      unackedN := f.unackedN + 1, ackSince := if f.unackedN = 0 then s.now else f.ackSince }) }
    if k.seq = f.expect then
      let s := first { s with fab := s.fab.updDst k.cls k.src (fun f => { f with expect := f.expect + 1 }) }
      noteDelivery (catchUp p k.cls k.src (f.held.length + f.early.length + 1) (handUp s p k)) k.cls k.src
    else if k.relaxed then
      noteDelivery (handUp (first { s with fab := s.fab.updDst k.cls k.src (fun f => { f with early := k.seq :: f.early }) }) p k) k.cls k.src
    else if s.fab.reorderBytes + k.bytes ≤ 8388608 then
      { s with fab := s.fab.updDst k.cls k.src (fun f => { f with held := f.held ++ [k] }) }
    else
      bump (sendAck s 0x0D k.src k.cls f.epoch f.expect) { code := Cnt.REORDER_FULL, unit := p.val }

/-- A FlowEpoch is newer than another (R366). -/
def epochNewer (e c : Nat) : Bool := let d := (e + 256 - c % 256) % 256; 1 ≤ d && d ≤ 127

/-- A new destination context for a packet of SeqNum 1 or of a newer FlowEpoch. -/
def openDst (s : State) (k : Pkt) : State × DstFlow :=
  let f : DstFlow := { cls := k.cls, peer := k.src, epoch := k.flowEpoch, lastUse := s.now }
  ({ s with fab := { s.fab with dst := s.fab.dst.filter (fun g => !(g.cls = k.cls && g.peer = k.src)) ++ [f] } }, f)

/-- A sequenced packet whose E2eCrc is good meets its flow's context (R363, R366). -/
def sequenced (s : State) (p : Port) (k : Pkt) : State :=
  match s.fab.dstFlow? k.cls k.src with
  | some f =>
    if k.flowEpoch = f.epoch then arrive s p k f
    else if epochNewer k.flowEpoch f.epoch then
      let (s, f) := openDst s k
      arrive s p k f
    else bump s { code := Cnt.T_STALE, unit := p.val }
  | none =>
    if k.seq != 1 then sendAck s 0x0D k.src k.cls k.flowEpoch 0
    else if 8192 ≤ s.fab.dst.length then
      { s with fab := { s.fab with dstWait := s.fab.dstWait ++ [(s.now, p.val, k)] } }
    else
      let (s, f) := openDst s k
      arrive s p k f

/-- PACKET_RECEIVE (R363): a packet for this device arrives: unsequenced, undefined, damaged, or for its flow. -/
def packetReceive (p : Port) (k : Pkt) (s : State) : State :=
  if k.dst != s.ident.devNum then s
  else
    let s := oweCredits s p k
    if !defined k.cls k.op then bump s { code := Cnt.FAB_BADOP, unit := p.val }
    else if k.crc != k.e2e then
      let s := bump s { code := Cnt.E2E_CRC, unit := p.val }
      if k.seq = 0 then s
      else
        match s.fab.dstFlow? k.cls k.src with
        | some f => sendAck s 0x0D k.src k.cls f.epoch f.expect
        | none => sendAck s 0x0D k.src k.cls k.flowEpoch 1
    else if k.seq = 0 then s
    else sequenced s p k

def execPacketReceive (p : Port) (k : Pkt) (s : State) : Host.Outcome State Fault Refusal := .next (packetReceive p k s)

/-- Arrivals that waited for a destination context are taken up while there is room. The number bounds how many. -/
def admitDst (s : State) : Nat → State
  | 0 => s
  | n + 1 =>
    match s.fab.dstWait with
    | [] => s
    | (t, p, k) :: rest =>
      if 8192 ≤ s.fab.dst.length then s
      else
        let s := bump { s with fab := { s.fab with dstWait := rest } } { code := Cnt.T_CTX_WAIT, unit := p } (s.now - t)
        admitDst (if h : p < 12 then sequenced s ⟨p, h⟩ k else s) n

/-- FLOW_CONTEXT_CLOSE (R366): a source context with nothing unacknowledged for 10 ms, or a destination context without
arrivals for 100 ms. -/
def flowContextClose (isSource : Bool) (peer cls : Nat) (s : State) : State :=
  if isSource then
    match s.fab.srcFlow? cls peer with
    | none => s
    | some f => if f.unacked.isEmpty && f.waiting.isEmpty && f.lastUse + 10000000 ≤ s.now then closeSrc s f else s
  else
    match s.fab.dstFlow? cls peer with
    | none => s
    | some f =>
      if s.now < f.lastUse + 100000000 then s
      else
        let s := { s with fab := { s.fab with dst := s.fab.dst.filter (fun g => !(g.cls = cls && g.peer = peer)) } }
        admitDst s s.fab.dstWait.length

def execFlowContextClose (isSource : Bool) (peer cls : Nat) (s : State) : Host.Outcome State Fault Refusal :=
  .next (flowContextClose isSource peer cls s)

/-! ## Drain markers (R379) -/

/-- DRAIN (R379): a marker delivered in flow order is answered with its class. -/
def drainStep (k : Pkt) (s : State) : State :=
  if !(k.op = 0x1F && k.dst = s.ident.devNum) then s
  else send { s with fab := { s.fab with delivered := s.fab.delivered.erase k } }
    (ctlPkt 0x07 k.src (toBytes 8 (k.cls + place (k.routeEpoch % 256) 8)))

def execDrain (k : Pkt) (s : State) : Host.Outcome State Fault Refusal := .next (drainStep k s)

/-- DRAIN_RET (R379): the marker of a flow is back; with the last one the swap completes and the old bank is EMPTY. -/
def drainRet (k : Pkt) (s : State) : State :=
  let cls := bits (ofBytes (slice k.payload 0 8)) 7 0
  let hit : Bool := s.fab.drains.contains (cls, k.src)
  if !(k.cls = 0 && k.op = 0x07) || !hit then s
  else
    checkSwap { s with fab := { s.fab with drains := s.fab.drains.filter (fun d => d != (cls, k.src)) } }

def execDrainRet (k : Pkt) (s : State) : Host.Outcome State Fault Refusal := .next (drainRet k s)

end Sys2Proof.Machine
end

