-- ==== Sys2Proof/Machine/FabCmds.lean ====
section
/-! DEFINITION. The fabric commands of the mailbox (R344, R351, R375, R379, R572). -/

namespace Sys2Proof.Machine

/-! ## Ports -/

/-- The role a code names (R572). -/
def Role.ofCode : Nat → Role
  | 0 => .torus
  | 1 => .uplink
  | 2 => .f2
  | _ => .unused

/-- The role a port has, or will have when it next trains. -/
def FPort.roleNext (q : FPort) : Role := (q.nextRole.map (·.1)).getD q.role

/-- R344 holds with a port in a role: at most two Uplink ports, which are the two ports of one axis. -/
def State.roleOk (s : State) (p : Port) (r : Role) : Bool :=
  let ups := (List.finRange 12).filter (fun o => o != p && (s.fab.ports.get o).roleNext = .uplink)
  r != .uplink || ups.all (fun o => o = otherPort p)

/-- A port that is disabled: its link carries nothing and keeps no packet (R351). -/
def FPort.disable (q : FPort) : FPort :=
  { q with link := .disabled, ff2 := false, lanes := 0, peer := none, peerSame := 0, sent := 0, sentRec := none, replay := [],
           onWire := [], txq := [], credits := Vector.replicate 8 0, waitSince := Vector.replicate 8 none,
           crOwed := Vector.replicate 8 0, congested := false, trainAt := none, attempting := false }

/-- A disabled port that is enabled again enters TRAINING, due at once (R351). -/
def FPort.reenable (q : FPort) (now : Nat) : FPort :=
  if q.link = .disabled then { q with link := .training, outOfService := false, trainAt := some now, peer := none, peerSame := 0 } else q

def specPortConfig : CmdSpec := {
  code := CmdCode.fabPortConfig, lenOk := lenIs 8, foal := fun _ _ => false, bad := fun p => firstBit p [(0, 11, 7), (0, 63, 32)] }

/-- FAB_PORT_CONFIG (R344, R351, R572): the settings apply when the port next trains; a disable ends its link at once. -/
def fabPortConfig (m : MCmd) (s : State) : State :=
  startCmd specPortConfig m s (fun s =>
    let w := u64At m.payload 0
    if h : bits w 3 0 < 12 then
      let p : Port := ⟨bits w 3 0, h⟩
      let r := Role.ofCode (bits w 5 4)
      let en : Bool := bit w 6
      let lim := if bits w 31 12 = 0 then 100000 else 1000 * bits w 31 12
      if !s.roleOk p r then answer s specPortConfig.code m Code.PORT_ROLE
      else
        let s := s.updPort p (fun q =>
          if en then { q.reenable s.now with nextRole := some (r, en, lim) }
          else { q.disable with role := r, enable := en, congestNs := lim, nextRole := none })
        answer s specPortConfig.code m Code.OK
    else badField s specPortConfig.code m 0)

def execFabPortConfig (m : MCmd) (s : State) : Host.Outcome State Fault Refusal := .next (fabPortConfig m s)

/-! ## Route banks (R375, R379) -/

/-- The 8-byte entries of a payload. -/
def entriesAt (p : List Byte) (off n : Nat) : List (BitVec 64) := (List.range n).map (fun i => BitVec.ofNat 64 (u64At p (off + 8 * i)))

/-- First reserved bit that is set in the entries of a bank: pod entries, then hall entries. -/
def routeBad (p : List Byte) : Option Nat :=
  let pod (i : Nat) : List (Nat × Nat × Nat) := [(8 + 8 * i, 7, 4), (8 + 8 * i, 63, 44)]
  let hall (i : Nat) : List (Nat × Nat × Nat) := [(4104 + 8 * i, 7, 4), (4104 + 8 * i, 63, 14)]
  firstBit p ([(0, 7, 1), (0, 63, 16)] ++ (List.range 512).flatMap pod ++ (List.range 64).flatMap hall)

def specRouteLoad : CmdSpec := { code := CmdCode.fabRouteLoad, lenOk := lenIs 4616, foal := fun _ _ => false, bad := routeBad }

/-- A bank in force, if there is one. -/
def Fabric.active? (f : Fabric) : Option RouteBank := f.banks.toList.find? (fun b => b.st = .active)

/-- FAB_ROUTE_LOAD (R379). With no bank in force there is no Epoch to follow, and any is taken; a bank in force is not
written, answered ROUTE_STATE (DEDUCED, log entry 49). -/
def fabRouteLoad (m : MCmd) (s : State) : State :=
  startCmd specRouteLoad m s (fun s =>
    let p := m.payload
    let i : Fin 2 := if bit (fld p 0 0 0) 0 then 1 else 0
    let e := fld p 0 15 8
    let b := s.fab.banks.get i
    if b.st = .draining then answer s specRouteLoad.code m Code.ROUTE_DRAINING
    else if b.st = .active then answer s specRouteLoad.code m Code.ROUTE_STATE
    else if (match s.fab.active? with | some a => e != (a.epoch + 1) % 256 | none => false) then
      answer s specRouteLoad.code m Code.ROUTE_EPOCH
    else
      let b : RouteBank := { epoch := e, st := .standby, pod := entriesAt p 8 512, hall := entriesAt p 4104 64 }
      answer { s with fab := { s.fab with banks := upd s.fab.banks i (fun _ => b) } } specRouteLoad.code m Code.OK)

def execFabRouteLoad (m : MCmd) (s : State) : Host.Outcome State Fault Refusal := .next (fabRouteLoad m s)

def specRouteSwap : CmdSpec := { code := CmdCode.fabRouteSwap, foal := fun _ _ => false }

/-- The drain marker of a flow (R379). -/
def drainMarker (cls peer epoch : Nat) : Pkt := { cls := cls, op := 0x1F, dst := peer, src := 0, routeEpoch := epoch }

/-- The standby bank takes force, the first where no bank is in force and both stand by (DESIGN CHOICE, log entry 65); the one that was in
force drains, and each flow that injected under it sends its marker. -/
def swapBanks (s : State) : State :=
  let old := s.fab.active?.map (·.epoch)
  let first := s.fab.banks.toList.findIdx (fun b => b.st = .standby)
  let turn (i : Nat) (b : RouteBank) : RouteBank :=
    if i = first then { b with st := .active } else if b.st = .active then { b with st := .draining } else b
  let s := { s with fab := { s.fab with banks := s.fab.banks.mapIdx turn } }
  match old with
  | none => s
  | some e =>
    let owed := (s.fab.src.filter (fun f => f.routeEpochs.contains e)).map (fun f => (f.cls, f.peer))
    let settle (f : SrcFlow) : SrcFlow := { f with routeEpochs := f.routeEpochs.filter (· != e) }
    let s := { s with fab := { s.fab with drains := owed, src := s.fab.src.map settle } }
    owed.foldl (fun s d => send s (drainMarker d.1 d.2 e)) s

/-- FAB_ROUTE_SWAP (R379): it completes when the old bank is EMPTY. -/
def fabRouteSwap (m : MCmd) (s : State) : State :=
  startCmd specRouteSwap m s (fun s =>
    if !s.fab.banks.toList.any (fun b => b.st = .standby) then answer s specRouteSwap.code m Code.ROUTE_STATE
    else
      let s := swapBanks s
      if s.fab.banks.toList.any (fun b => b.st = .draining) then checkSwap (startLater s specRouteSwap.code m 0)
      else answer s specRouteSwap.code m Code.OK)

def execFabRouteSwap (m : MCmd) (s : State) : Host.Outcome State Fault Refusal := .next (fabRouteSwap m s)

/-! ## Status (R572) -/

/-- Number of a link state, in the order of R351. -/
def LinkSt.code : LinkSt → Nat
  | .disabled => 0
  | .training => 1
  | .notReady => 2
  | .up => 3
  | .retrain => 4
  | .failed => 5

/-- Status word of a port. -/
def FPort.status (q : FPort) : Nat :=
  q.link.code + place (b2n q.ff2) 3 + place (q.lanes % 16) 4 + place ((q.peer.map (·.devNum)).getD 0 % 65536) 16 +
    place ((q.peer.map (·.port)).getD 0 % 16) 32

def specFabStatus : CmdSpec := { code := CmdCode.fabStatus }

/-- FAB_STATUS (R572). -/
def execFabStatus (m : MCmd) (s : State) : Host.Outcome State Fault Refusal :=
  .next (startCmd specFabStatus m s (fun s =>
    answerOut s specFabStatus.code m (s.fab.ports.toList.flatMap (fun q => toBytes 8 q.status))))

end Sys2Proof.Machine
end

