-- ==== Sys2Proof/Machine/Ring.lean ====
section
/-! DEFINITION. The circulation of key/value and gradient shards around the sequence ring (R229 to R234). -/

namespace Sys2Proof.Machine

/-- A ring of a context. -/
def State.ring (s : State) (x : Ctx) (id : Nat) : Option KvRing := (s.mem.rings.get x).find? (·.id = id)

/-- A ring changed. -/
def State.updRing (s : State) (x : Ctx) (id : Nat) (f : KvRing → KvRing) : State :=
  { s with mem := { s.mem with rings := s.mem.rings.set x ((s.mem.rings.get x).map (fun g => if g.id = id then f g else g)) } }

/-- The next device in the direction of travel. -/
def State.ringNext (s : State) (x : Ctx) (g : KvRing) : Nat :=
  let len := (s.jobs.get x).lenOf g.axis
  s.along g.axis (if g.minus then len - 1 else 1)

/-- The position whose shard the device holds in the ring's step (R229, DEDUCED, log entry 29). -/
def State.ringShard (s : State) (g : KvRing) : Nat :=
  let i := s.pos g.axis
  let n := max 1 g.n
  if g.minus then (i + g.step) % n else (i + (n - g.step % n)) % n

/-- Address of the buffer that holds the shard of the step, and of the free one. -/
def KvRing.heldBuf (g : KvRing) : Nat := if g.cur then g.buf.2 else g.buf.1
def KvRing.freeBuf (g : KvRing) : Nat := if g.cur then g.buf.1 else g.buf.2

/-- Addresses of the leaf entries of a range of a sequence (R205), with each page's offset in the range. -/
def State.leaves (s : State) (r : SeqRec) (va len : Nat) : List (Nat × Nat) :=
  let pg := 2 ^ r.pgShift
  (List.range (cdiv len pg)).filterMap (fun i =>
    let vpn := va / pg + i
    let dir := ofBytes (s.rd (r.root + 8 * (vpn / 512)) 8)
    if bit dir 0 then some (bits dir 47 12 * 4096 + 8 * (vpn % 512), i * pg) else none)

/-- Look-aside entries of the pages of a range are dropped, as kv.inval drops them (R208). -/
def dropLab (s : State) (x : Ctx) (seq pgShift va len : Nat) : State :=
  let lo := va / 2 ^ pgShift
  let hi := (va + (len - 1)) / 2 ^ pgShift
  { s with mem := { s.mem with labs := s.mem.labs.map (fun l => l.filter (fun e =>
      !(e.ctx = x && e.seq = seq && lo ≤ e.vpn && e.vpn ≤ hi))) } }

/-- The leaf entries of a shard lose V, and kv.inval completes for them (R230). -/
def unmapShard (s : State) (x : Ctx) (g : KvRing) (p : Nat) : State :=
  match s.seqRec x g.seq with
  | none => s
  | some r =>
    (g.rangesOf p).foldl (fun s v =>
      let s := (s.leaves r v.1 v.2).foldl (fun s l =>
        let e := ofBytes (s.rd l.1 8)
        s.wr l.1 (toBytes 8 (e / 2 * 2))) s
      dropLab s x g.seq r.pgShift v.1 v.2) s

/-- The leaf entries of a shard name a buffer and become valid, W only for a gradient shard; held faults are retried
(R231). -/
def mapShard (s : State) (x : Ctx) (g : KvRing) (p buf : Nat) (w : Bool) : State :=
  match s.seqRec x g.seq with
  | none => s
  | some r =>
    let (s, _) := (g.rangesOf p).foldl (fun (acc : State × Nat) v =>
      let s := (acc.1.leaves r v.1 v.2).foldl (fun s l =>
        s.wr l.1 (toBytes 8 (1 + place (b2n w) 1 + place (ctxNo x) 2 + (buf + acc.2 + l.2) / 4096 * 4096))) acc.1
      (s, acc.2 + v.2)) (s, 0)
    retryKv s x g.seq

/-- The held shard's bytes are sent to the next device's free buffer (R230, DEDUCED, log entry 29). -/
def sendShard (s : State) (x : Ctx) (id : Nat) : State :=
  match s.ring x id with
  | none => s
  | some g =>
    if g.sent || !g.held then s
    else
      let bs := s.rd g.heldBuf g.shardBytes
      let s := s.updRing x id (fun g => { g with sent := true })
      (writePkts (ctxNo x) (s.ringNext x g * 2 ^ 48 + g.freeBuf) bs).foldl send s

/-- Every byte sent to the next device has been acknowledged by it. -/
def State.shardLanded (s : State) (x : Ctx) (g : KvRing) : Bool :=
  let nx := s.ringNext x g
  let lo := nx * 2 ^ 48 + g.freeBuf
  let mine (k : Pkt) : Bool := k.cls = 3 && k.dst = nx && lo ≤ k.addr && k.addr < lo + g.shardBytes
  g.sent && !s.fab.src.any (fun f => f.unacked.any (fun u => mine u.pkt) || f.waiting.any mine) && !s.fab.ctxWait.any (fun w => mine w.2)

/-- The next step begins once the old shard has left and the new one is this device's: its bytes leave at once, but for a
gradient shard (R230, R233, R234). -/
def ringAdvance (s : State) (x : Ctx) (id : Nat) : State :=
  match s.ring x id with
  | none => s
  | some g =>
    if g.held || !g.passed then s
    else
      let s := s.updRing x id (fun g => { g with
        step := (g.step + 1) % max 1 g.n, cur := !g.cur, releases := 0, held := true, sent := false, gotBytes := 0, passed := false,
        homing := g.homing && (g.step + 1) % max 1 g.n != 0 })
      let s := if g.homing && !(s.mem.rings.get x).any (·.homing) then completeAll s CmdCode.jobRewind (ctxNo x) Code.OK else s
      if s.ringGrad x g then s else sendShard s x id

/-- Ownership of the arriving shard passes to this device (R231): it is mapped. -/
def ringPassed (s : State) (x : Ctx) (id : Nat) : State :=
  match s.ring x id with
  | none => s
  | some g =>
    if g.passed then s
    else
      let p := s.ringShard { g with step := g.step + 1 }
      let s := mapShard s x g p g.freeBuf (s.ringGrad x g)
      ringAdvance (s.updRing x id (fun g => { g with passed := true })) x id

/-- Bytes of a ring's arriving shard land in its free buffer (R231); a gradient shard passes with its last byte (R233). -/
def ringLand (s : State) (x : Ctx) (g : KvRing) (a : Nat) (bs : List Byte) : State :=
  let s := s.wr a bs
  let s := s.updRing x g.id (fun g => { g with gotBytes := g.gotBytes + bs.length })
  if s.ringGrad x g && g.shardBytes ≤ g.gotBytes + bs.length then ringPassed s x g.id else s

/-- RING_STEP_END (R230, R233): the shard leaves this device. -/
def ringStepEnd (x : Ctx) (id : Nat) (s : State) : State :=
  match s.ring x id with
  | none => s
  | some g =>
    if !g.held || (g.releases < g.releaseCount && !g.homing) then s
    else if s.ringGrad x g && !g.sent then sendShard s x id
    else if !s.shardLanded x g then s
    else
      let s := unmapShard s x g (s.ringShard g)
      let s := s.updRing x id (fun g => { g with held := false })
      let s := if s.ringGrad x g then s else send s (muleMsg (s.ringNext x g) 5 [ctxNo x, id])
      ringAdvance s x id

def execRingStepEnd (x : Ctx) (ring : Nat) (s : State) : Host.Outcome State Fault Refusal := .next (ringStepEnd x ring s)

end Sys2Proof.Machine
end

