-- ==== Sys2Proof/Machine/FabMem.lean ====
section
/-! DEFINITION. The memory layer of the fabric: requests performed here, and responses to this device's own (R292, R315,
R317, R359 to R361, R369 to R374). -/

namespace Sys2Proof.Machine

/-! ## Requests at their destination -/

/-- The check of a packet's access (R374): the party is named by SrcDev and Ctx; Mule is exempt (R315). -/
def State.pktAccess (s : State) (k : Pkt) (len : Nat) (write : Bool) : Access :=
  let a := localOff k.addr
  if k.ctx = 3 then (if len = 0 || (s.mapped a && s.mapped (a + len - 1)) then .ok else .fail Code.ADDR_UNMAPPED)
  else if write then s.accessW ⟨k.src, k.ctx⟩ a len else s.access ⟨k.src, k.ctx⟩ a len

/-- A response to a request (R359, R361). -/
def respond (s : State) (k : Pkt) (op status : Nat) (payload : List Byte) (last : Bool) : State :=
  send s { cls := 2, op := op, dst := k.src, src := 0, ctx := k.ctx, status := status, tag := k.tag, payload := payload,
           len := payload.length, last := last }

/-- LOAD performed: its answer, with the data even where they are poisoned. -/
def serveLoad (s : State) (k : Pkt) (e : Nat) : State :=
  let a := localOff k.addr
  if e != 0 then respond s k 0x01 (respStatus e) [] false
  else respond s k 0x01 (if s.poisoned a k.len then 2 else 0) (s.rd a k.len) false

/-- STORE performed. -/
def serveStore (s : State) (k : Pkt) (e : Nat) : State :=
  if e != 0 then respond s k 0x02 (respStatus e) [] false
  else respond (s.wr (localOff k.addr) k.payload) k 0x02 0 [] false

/-- The element type a packet's code names (R358). -/
def addTypeOf (c : Nat) : AddType := if c = 0 then .fp32 else if c = 1 then .bf16 else if c = 2 then .int32 else .int64

/-- ADD performed by the near-memory adder (R292, R296); with Return its prior contents go back. -/
def serveAdd (s : State) (k : Pkt) (e : Nat) : State :=
  if e != 0 then respond s k 0x02 (respStatus e) [] false
  else
    let (s, st, old) := nmAdd s (localOff k.addr) (addTypeOf k.elemType) k.payload .ok
    respond s k 0x02 (respStatus st) (if k.ret && st = 0 then old else []) false

/-- READ_BULK performed: READ_DATA packets of at most 1,024 bytes in ascending order, the final one with Last; an error is
answered once. -/
def serveBulk (s : State) (k : Pkt) (e : Nat) : State :=
  let a := localOff k.addr
  if e != 0 then respond s k 0x03 (respStatus e) [] true
  else
    let ps := piecesOf 1024 (k.len + 1) (s.rd a k.len)
    ps.zipIdx.foldl (fun s (b, i) =>
      respond s k 0x03 (if s.poisoned (a + 1024 * i) b.length then 2 else 0) b (i + 1 = ps.length)) s

/-- BULK WRITE performed: no response is defined for it, so one that fails is not performed and nothing is sent. -/
def serveWrite (s : State) (k : Pkt) (e : Nat) : State := if e = 0 then s.wr (localOff k.addr) k.payload else s

/-- A request performed, with the error its check met (0 for none). -/
def serve (s : State) (k : Pkt) (e : Nat) : State :=
  if k.cls = 3 then serveWrite s k e
  else if k.op = 0x01 then serveLoad s k e
  else if k.op = 0x02 then serveStore s k e
  else if k.op = 0x03 then serveAdd s k e
  else serveBulk s k e

/-- Bytes a request touches. -/
def Pkt.span (k : Pkt) : Nat := if k.cls = 1 && (k.op = 0x01 || k.op = 0x04) then k.len else k.payload.length

/-- A request meets the level rule of R370 and its check; on a Moving page it is held (R317). `err` is what R370 leaves to
this end. -/
def meet (s : State) (k : Pkt) : State :=
  let level : Bool := k.cls = 1 && (k.op = 0x01 || k.op = 0x02) && podOf k.src != podOf s.ident.devNum
  let write : Bool := k.cls = 3 || k.op = 0x02 || k.op = 0x03
  if level then serve s k Code.LEVEL_ILLEGAL
  else
    match s.pktAccess k k.span write with
    | .ok => serve s k 0
    | .hold => { s with fab := { s.fab with heldReqs := s.fab.heldReqs ++ [{ pkt := k, since := s.now }] } }
    | .fail e => serve s k e

/-- A request row: the packet is for this device and is that operation; it is no longer waiting to be performed. -/
def requestRow (cls op : Nat) (k : Pkt) (s : State) : State :=
  if !(k.cls = cls && k.op = op && k.dst = s.ident.devNum) then s
  else meet { s with fab := { s.fab with delivered := s.fab.delivered.erase k } } k

/-- LOAD (R371). -/
def execLoad (k : Pkt) (s : State) : Host.Outcome State Fault Refusal := .next (requestRow 1 0x01 k s)
/-- STORE (R371). -/
def execStore (k : Pkt) (s : State) : Host.Outcome State Fault Refusal := .next (requestRow 1 0x02 k s)
/-- ADD (R292). -/
def execAdd (k : Pkt) (s : State) : Host.Outcome State Fault Refusal := .next (requestRow 1 0x03 k s)
/-- READ_BULK (R359). -/
def execReadBulk (k : Pkt) (s : State) : Host.Outcome State Fault Refusal := .next (requestRow 1 0x04 k s)

/-- FABRIC_HOLD_EXPIRY (R317): requests held for 1 ms are checked again; a page still Moving fails the check. -/
def holdExpiry (s : State) : State :=
  let due := s.fab.heldReqs.filter (fun h => h.since + 1000000 ≤ s.now)
  let s := { s with fab := { s.fab with heldReqs := s.fab.heldReqs.filter (fun h => !(h.since + 1000000 ≤ s.now)) } }
  due.foldl (fun s h =>
    let k := h.pkt
    match s.pktAccess k k.span (k.cls = 3 || k.op = 0x02 || k.op = 0x03) with
    | .ok => serve s k 0
    | .hold => serve s k Code.OWN_FAULT
    | .fail e => serve s k e) s

def execFabricHoldExpiry (s : State) : Host.Outcome State Fault Refusal := .next (holdExpiry s)

/-! ## BULK WRITE (R148, R231, R359, R401) -/

/-- The hand-over slot an offset names (DESIGN CHOICE, log entry 26): cluster, context, input, slot and byte. -/
def hoSlot (off : Nat) : Option (Cl × Ctx × Fin 2 × Fin 3 × Nat) :=
  let c := bits off 31 24
  let sl := bits off 21 20
  if h : bits off 47 32 = 0xE000 ∧ c < 40 ∧ sl < 3 then
    some (⟨c, h.2.1⟩, (if bit off 23 then .j1 else .j0), (if bit off 22 then 1 else 0), ⟨sl, h.2.2⟩, bits off 19 0)
  else none

/-- Bytes of a hand-over land in a slot that is FREE or filling, from its producer (R150). -/
def landSlot (s : State) (k : Pkt) (c : Cl) (x : Ctx) (i : Fin 2) (sl : Fin 3) (off : Nat) : State :=
  let q := s.inp c x i
  let fresh : Bool := match q.slots.get sl with | .free => true | .filling => true | _ => false
  if !q.used || !fresh || q.prodDev != k.src || q.slotBytes < off + k.payload.length then s
  else
    let s := s.updCluster c (fun v => { v with store := Mem.write 0 v.store (q.at_ sl.val + off) k.payload })
    s.updIn c x i (fun q => { q with slots := upd q.slots sl (fun _ => InSt.filling) })

/-- The ring whose free buffer holds a range, filled by the device before this one (R231). -/
def State.ringAt (s : State) (k : Pkt) : Option (Ctx × KvRing) :=
  let a := localOff k.addr
  [Ctx.j0, Ctx.j1].findSome? (fun x =>
    if ctxNo x != k.ctx then none
    else ((s.mem.rings.get x).find? (fun g => g.freeBuf ≤ a && a + k.payload.length ≤ g.freeBuf + g.shardBytes)).map (fun g => (x, g)))

/-- WRITE (R359): bytes of a hand-over, of a ring's shard, or of a move or save; those of the collective engine's window are
COLL_PACKET's (R401). -/
def writeRow (k : Pkt) (s : State) : State :=
  if !(k.cls = 3 && k.op = 0x01 && k.dst = s.ident.devNum) || 0xF00000000000 ≤ localOff k.addr then s
  else
    let s := { s with fab := { s.fab with delivered := s.fab.delivered.erase k } }
    match hoSlot (localOff k.addr) with
    | some (c, x, i, sl, off) => landSlot s k c x i sl off
    | none =>
      match s.ringAt k with
      | some (x, g) => ringLand s x g (localOff k.addr) k.payload
      | none => meet s k

def execWrite (k : Pkt) (s : State) : Host.Outcome State Fault Refusal := .next (writeRow k s)

/-! ## Responses at their requester (R361, R372, R373) -/

/-- The request a response answers. -/
def State.reqFor (s : State) (k : Pkt) : Option OutReq := s.fab.reqs.find? (fun r => r.tag = k.tag && r.dst = k.src)

/-- A read's data go to their requester, and to nothing else (R373). -/
def giveData (s : State) (r : OutReq) (data : List Byte) : State :=
  let s := { s with fab := { s.fab with reqs := s.fab.reqs.filter (fun q => q.tag != r.tag) } }
  match r.who with
  | .thread c t =>
    if h : c < 40 ∧ t < 8 then
      s.updThread ⟨c, h.1⟩ ⟨t, h.2⟩ (fun v => { v with
        waitRemote := v.waitRemote - 1, remoteData := v.remoteData ++ data.zipIdx.map (fun (b, i) => (r.addr + i, b)) })
    else s
  | .transfer c x d i =>
    if h : c < 40 ∧ d < 64 then
      let c : Cl := ⟨c, h.1⟩
      match ((s.cmd c x ⟨d, h.2⟩).bind (·.xfer)).bind (fun t => t.reqs[i]?) with
      | some q => if q.st = 1 then returned s c x ⟨d, h.2⟩ i q data 0 else s
      | none => s
    else s
  | .ckpt key => ckptData s key r.addr data
  | _ => s

/-- A response row: for the request it answers. -/
def responseRow (op : Nat) (k : Pkt) (act : State → OutReq → State) (s : State) : State :=
  if !(k.cls = 2 && k.op = op && k.dst = s.ident.devNum) then s
  else
    let s := { s with fab := { s.fab with delivered := s.fab.delivered.erase k } }
    match s.reqFor k with
    | none => s
    | some r => if k.status != 0 then failReq s r (statusOf k.status) else act s r

/-- LOAD_DATA (R373). -/
def execLoadData (k : Pkt) (s : State) : Host.Outcome State Fault Refusal :=
  .next (responseRow 0x01 k (fun s r => giveData s r k.payload) s)

/-- DONE (R372): the store or add is visible at its destination. -/
def execDone (k : Pkt) (s : State) : Host.Outcome State Fault Refusal :=
  .next (responseRow 0x02 k (fun s r => ckptAll { s with fab := { s.fab with reqs := s.fab.reqs.filter (fun q => q.tag != r.tag) } }) s)

/-- READ_DATA (R359): the packets of a bulk read join in ascending order; the last one completes it. -/
def execReadData (k : Pkt) (s : State) : Host.Outcome State Fault Refusal :=
  .next (responseRow 0x03 k (fun s r =>
    if k.last then giveData s r (r.got ++ k.payload)
    else { s with fab := { s.fab with reqs := s.fab.reqs.map (fun q => if q.tag = r.tag then { q with got := q.got ++ k.payload } else q) } }) s)

end Sys2Proof.Machine
end

