-- ==== Sys2Proof/Machine/Media.lean ====
section
/-! DEFINITION. The media front end (R490 to R515, R575). The decoding processes are other documents' (R491): a row brings
what they find in a frame, and a decoded sample is a free value (DESIGN CHOICE, log entry 6). -/

namespace Sys2Proof.Machine

/-! ## Shared by the commands -/

/-- Payload offset of the first condition of a list that holds. -/
def badIf (cs : List (Bool × Nat)) : Option Nat := (cs.find? (·.1)).map (·.2)

/-- The first of two answers. -/
def orBad (a b : Option Nat) : Option Nat := match a with | some x => some x | none => b

/-- BUSY with the activity of R552 and how many are in progress. -/
def answerBusy (s : State) (code : Nat) (m : MCmd) (by_ n : Nat) : State := answer s code m Code.BUSY by_ n

/-- The media unit (R514). -/
def mediaUnit : UnitId := { cls := 0xB, unit := 1 }

/-- A media counter of a stream (R517). -/
def mediaKey (code : Nat) (i : Fin 64) : CntKey := { code := code, unit := i.val }

/-- A media event: its Detail names the stream, and further words where the manual says what it reports (DESIGN CHOICE, log entry 43). -/
def mediaEv (s : State) (code : Nat) (x : Ctx) (i : Fin 64) (words : List Nat) : State :=
  raise s { code := code, ctx := some x, unit := mediaUnit, detail := toBytes 8 0 ++ toBytes 8 i.val ++ words.flatMap (toBytes 8) }

/-- A stream changed. -/
def State.updStream (s : State) (i : Fin 64) (f : MStream → MStream) : State :=
  { s with media := { s.media with streams := upd s.media.streams i (fun o => o.map f) } }

/-! ## The stream record (R493, R494, R504) -/

/-- Patch side of a code. -/
def patchSide (code : Nat) : Nat := if code = 0 then 8 else if code = 1 then 14 else if code = 2 then 16 else 32

/-- Patch columns and rows. -/
def MStream.cols (t : MStream) : Nat := t.cropW / t.patch
def MStream.rows (t : MStream) : Nat := t.cropH / t.patch
def MStream.patches (t : MStream) : Nat := t.cols * t.rows

/-- Channels of a sample. -/
def MStream.chans (t : MStream) : Nat := if t.lumaOnly then 1 else 3

/-- Output format of a stream. -/
def MStream.fmt (t : MStream) : Fmt := (Fmt.ofCode t.outFmt).getD .fp32

/-- Bytes rounded up to a multiple. -/
def roundUp (n k : Nat) : Nat := cdiv n k * k

/-- TensorOff and EntryBytes. -/
def MStream.tensorOff (t : MStream) : Nat := roundUp (64 + cdiv t.patches 8) 4096
def MStream.patchBytes (t : MStream) : Nat := t.patch * t.patch * t.chans * (t.fmt.width / 8)
def MStream.entryBytes (t : MStream) : Nat := roundUp (t.tensorOff + t.patches * t.tube * t.patchBytes) 4096

/-- The stream a record describes. -/
def MStream.of (p : List Byte) : MStream :=
  { ctx := if fld p 0 6 6 = 0 then .j0 else .j1, codec := fld p 0 9 7, outFmt := fld p 0 14 10, patch := patchSide (fld p 0 16 15),
    tube := fld p 0 19 17, frameStep := fld p 0 25 20, lumaOnly := bit (fld p 0 26 26) 0, notify := bit (fld p 0 27 27) 0,
    cropX := fld p 8 15 0, cropY := fld p 8 31 16, cropW := fld p 8 47 32, cropH := fld p 8 63 48,
    dpbAddr := fld p 0x10 47 0, dpbBytes := fld p 0x18 39 0, ringAddr := fld p 0x20 47 0, ringEntries := fld p 0x28 10 0,
    coeffs := (List.range 12).map (fun i => BitVec.ofNat 32 (u32At p (0x30 + 4 * i))) }

/-- Reserved fields and codes of a record. -/
def streamBad (p : List Byte) : Option Nat :=
  let t := MStream.of p
  orBad (firstBit p [(0, 63, 28), (0x10, 63, 48), (0x18, 63, 40), (0x20, 63, 48), (0x28, 63, 11), (0x60, 63, 0), (0x68, 63, 0),
      (0x70, 63, 0), (0x78, 63, 0)])
    (badIf [(t.codec = 0 || 3 < t.codec, 7), (3 < t.outFmt, 10), (t.tube = 0 || 4 < t.tube, 17), (t.frameStep = 0, 20),
      (t.cropX % 2 = 1, 64), (t.cropY % 2 = 1, 80), (t.cropW = 0 || t.cropW % t.patch != 0, 96),
      (t.cropH = 0 || t.cropH % t.patch != 0, 112), (t.ringEntries < 2 || 1024 < t.ringEntries, 320)])

/-- The status a range of a stream meets: it lies in tier 2 objects that its context owns, none compressed or in F2
mode. -/
def State.mediaRange (s : State) (x : Ctx) (a len : Nat) : Nat :=
  let os := (pagesOf a len).map s.objAt
  let held (o : Option Obj) : Bool := match o with | some o => o.tier = 2 && o.owner = ctxNo x | none => false
  let plain (o : Option Obj) : Bool := match o with | some o => !o.comp && !o.f2 | none => false
  if len = 0 || !os.all held || s.own (s.party x) a len != .ok then Code.OWN_FAULT
  else if !os.all plain then Code.COMP_ACCESS else 0

/-- An object holds part of an open stream's buffer or ring: it is media-pinned (R495). -/
def State.mediaPinned (s : State) (o : Obj) : Bool :=
  s.media.streams.toList.any (fun t => match t with
    | some t =>
      let hit (a len : Nat) : Bool := (o.tier = 1 || o.tier = 2) && o.home < a + len && a < o.home + o.size
      hit t.dpbAddr t.dpbBytes || hit t.ringAddr (t.ringEntries * t.entryBytes)
    | none => false)

def specMediaOpen : CmdSpec :=
  { code := CmdCode.mediaOpen, lenOk := lenIs 128, bad := streamBad, foal := fun _ _ => false, feature := some 0, v3 := true }

/-- MEDIA_OPEN (R494). -/
def mediaOpen (m : MCmd) (s : State) : State :=
  startCmd specMediaOpen m s (fun s =>
    let t := MStream.of m.payload
    let i : Fin 64 := ⟨fld m.payload 0 5 0 % 64, Nat.mod_lt _ (by decide)⟩
    let e1 := s.mediaRange t.ctx t.dpbAddr t.dpbBytes
    let e2 := s.mediaRange t.ctx t.ringAddr (t.ringEntries * t.entryBytes)
    if (s.media.streams.get i).isSome then answer s specMediaOpen.code m Code.STREAM_BUSY
    else if !(s.jobs.get t.ctx).isOpen then answer s specMediaOpen.code m Code.NO_JOB
    else if e1 != 0 then answer s specMediaOpen.code m e1 (if e1 = Code.OWN_FAULT then t.dpbAddr else 0)
    else if e2 != 0 then answer s specMediaOpen.code m e2 (if e2 = Code.OWN_FAULT then t.ringAddr else 0)
    else
      let s := { s with media := { s.media with streams := upd s.media.streams i (fun _ => some t) } }
      answer s specMediaOpen.code m Code.OK t.entryBytes t.tensorOff)

def execMediaOpen (m : MCmd) (s : State) : Host.Outcome State Fault Refusal := .next (mediaOpen m s)

/-! ## Input (R497 to R499) -/

/-- The stream a payload's StreamId names, open and not stopped. -/
def State.liveStream (s : State) (i : Fin 64) : Option MStream :=
  (s.media.streams.get i).bind (fun t => if t.stopped.isSome then none else some t)

/-- A stream number from a field. -/
def streamNo (v : Nat) : Fin 64 := ⟨v % 64, Nat.mod_lt _ (by decide)⟩

def specMediaFeed : CmdSpec :=
  { code := CmdCode.mediaFeed, lenOk := lenIs 16, foal := fun _ _ => false, feature := some 0, v3 := true,
    bad := fun p => orBad (firstBit p [(8, 31, 28), (8, 63, 38)]) (badIf [(fld p 8 24 0 = 0 || 16777216 < fld p 8 24 0, 64)]) }

/-- MEDIA_FEED (R497, R498). -/
def mediaFeed (m : MCmd) (s : State) : State :=
  startCmd specMediaFeed m s (fun s =>
    let p := m.payload
    let i := streamNo (fld p 8 37 32)
    match s.liveStream i with
    | none => answer s specMediaFeed.code m Code.NO_STREAM
    | some t =>
      if 32 ≤ t.chunks.length then
        let s := bump (s.updStream i (fun t => { t with busySince := some (t.busySince.getD s.now) })) (mediaKey Cnt.MEDIA_FEED_BUSY i)
        answerBusy s specMediaFeed.code m CmdCode.mediaFeed 32
      else
        let ch : Chunk := { ord := t.nextOrd, addr := u64At p 0, len := fld p 8 24 0, hostSpace := bit (fld p 8 25 25) 0,
                            eos := bit (fld p 8 26 26) 0, disc := bit (fld p 8 27 27) 0 }
        let s := s.updStream i (fun t => { t with chunks := t.chunks ++ [ch], nextOrd := t.nextOrd + 1, busySince := none, overloaded := false })
        answer s specMediaFeed.code m Code.OK ch.ord)

def execMediaFeed (m : MCmd) (s : State) : Host.Outcome State Fault Refusal := .next (mediaFeed m s)

/-- MEDIA_OVERLOAD (R498): once for a stream whose feeds have met BUSY for longer than FeedPersist. -/
def mediaOverload (i : Fin 64) (s : State) : State :=
  match s.media.streams.get i with
  | none => s
  | some t =>
    match t.busySince with
    | none => s
    | some b =>
      if t.overloaded || s.now ≤ b + s.media.feedPersistMs * 1000000 then s
      else mediaEv (s.updStream i (fun t => { t with overloaded := true })) Code.MEDIA_OVERLOAD t.ctx i []

def execMediaOverload (stream : Fin 64) (s : State) : Host.Outcome State Fault Refusal := .next (mediaOverload stream s)

def specMediaConfig : CmdSpec :=
  { code := CmdCode.mediaConfig, lenOk := lenIs 8, foal := fun _ _ => false, feature := some 0, v3 := true,
    bad := fun p => orBad (firstBit p [(0, 63, 14)]) (badIf [(10000 < fld p 0 13 0, 0)]) }

/-- MEDIA_CONFIG (R498). -/
def mediaConfig (m : MCmd) (s : State) : State :=
  startCmd specMediaConfig m s (fun s =>
    let v := fld m.payload 0 13 0
    answer { s with media := { s.media with feedPersistMs := if v = 0 then 100 else v } } specMediaConfig.code m Code.OK)

def execMediaConfig (m : MCmd) (s : State) : Host.Outcome State Fault Refusal := .next (mediaConfig m s)

/-! ## The ring (R507, R508) -/

/-- The time a stream has waited for a ring entry is counted, and the wait ends. -/
def endRingWait (s : State) (i : Fin 64) : State :=
  match s.media.streams.get i with
  | none => s
  | some t =>
    match t.waitRingSince with
    | none => s
    | some w => bump (s.updStream i (fun t => { t with waitRingSince := none })) (mediaKey Cnt.MEDIA_RING_WAIT_NS i) (s.now - w)

def specMediaRelease : CmdSpec :=
  { code := CmdCode.mediaRelease, lenOk := lenIs 8, foal := fun _ _ => false, feature := some 0, v3 := true,
    bad := fun p => firstBit p [(0, 63, 17)] }

/-- MEDIA_RELEASE (R508). A count above the entries written and not released is a value the field cannot have (DEDUCED, log entry 44). -/
def mediaRelease (m : MCmd) (s : State) : State :=
  startCmd specMediaRelease m s (fun s =>
    let i := streamNo (fld m.payload 0 5 0)
    let n := fld m.payload 0 16 6
    match s.liveStream i with
    | none => answer s specMediaRelease.code m Code.NO_STREAM
    | some t =>
      if t.ringHeld < n then badField s specMediaRelease.code m 6
      else
        let s := (if n = 0 then s else endRingWait s i).updStream i (fun t => { t with ringHeld := t.ringHeld - n })
        answer s specMediaRelease.code m Code.OK)

def execMediaRelease (m : MCmd) (s : State) : Host.Outcome State Fault Refusal := .next (mediaRelease m s)

def specMediaClose : CmdSpec :=
  { code := CmdCode.mediaClose, lenOk := lenIs 8, foal := fun _ _ => false, feature := some 0, v3 := true,
    bad := fun p => firstBit p [(0, 63, 6)] }

/-- MEDIA_CLOSE (R509): a frame is decoded within one step, so the close takes effect between frames. -/
def mediaClose (m : MCmd) (s : State) : State :=
  startCmd specMediaClose m s (fun s =>
    let i := streamNo (fld m.payload 0 5 0)
    if (s.media.streams.get i).isNone then answer s specMediaClose.code m Code.NO_STREAM
    else
      let s := endRingWait s i
      answer { s with media := { s.media with streams := upd s.media.streams i (fun _ => none) } } specMediaClose.code m Code.OK)

def execMediaClose (m : MCmd) (s : State) : Host.Outcome State Fault Refusal := .next (mediaClose m s)

/-! ## Samples (R491, R505, R511) -/

/-- Width in 16 × 16 blocks, and number of blocks of a frame. -/
def MOut.blockCols (o : MOut) : Nat := cdiv o.width 16
def MOut.blockCount (o : MOut) : Nat := o.blockCols * cdiv o.height 16

/-- Concealed and tainted blocks of a frame; an internal error conceals every one (R514). -/
def MOut.concealedAll (o : MOut) : List Nat := if o.fault then List.range o.blockCount else o.concealed
def MOut.marks (o : MOut) : List Nat := (o.concealedAll ++ o.tainted).eraseDups

/-- A sample of a frame: in a concealed block the co-located sample of the frame it is copied from, or the middle value where
there is none; elsewhere the standard's own. `(x, y)` is the luma position. The fuel bounds the chain of copies. -/
def sampleOf (codec : Nat) (fed : List Byte) (dpb : List DpbFrame) : Nat → DpbFrame → Nat → Nat → Nat → Nat
  | 0, d, _, _, _ => 2 ^ (d.pic.bitDepth - 1)
  | n + 1, d, plane, x, y =>
    if plane != 0 && d.pic.mono then 2 ^ (d.pic.bitDepth - 1)
    else if d.pic.concealedAll.contains (y / 16 * d.pic.blockCols + x / 16) then
      match d.pic.source.bind (fun o => dpb.find? (fun e => e.order = o)) with
      | some e => sampleOf codec fed dpb n e plane x y
      | none => 2 ^ (d.pic.bitDepth - 1)
    else
      let k := if plane = 0 then 1 else 2
      Config.mediaSample codec (fed.take d.fed) d.order plane (x / k) (y / k)

/-- An element of a patch tensor (R505). -/
def MStream.elem (t : MStream) (d : DpbFrame) (c x y : Nat) : Nat :=
  let m (k : Nat) : Nat := (t.coeffs.getD (4 * c + k) 0).toNat
  let v (plane : Nat) : Nat := FF.fp32.rne (FVal.ofInt (sampleOf t.codec t.fed t.dpb 20 d plane x y))
  let r := f32Fma (m 2) (v 2) (f32Fma (m 1) (v 1) (f32Fma (m 0) (v 0) (m 3)))
  (convF32 t.fmt .rne true r).1

/-- A patch's elements of one frame, in the order [y][x][c]. -/
def MStream.patchOf (t : MStream) (d : DpbFrame) (n : Nat) : List Byte :=
  let x0 := t.cropX + n % t.cols * t.patch
  let y0 := t.cropY + n / t.cols * t.patch
  packCodes t.fmt.width ((List.range t.patch).flatMap (fun y => (List.range t.patch).flatMap (fun x =>
    (List.range t.chans).map (fun c => t.elem d c (x0 + x) (y0 + y)))))

/-- A patch has a sample in a marked block (R512). -/
def MStream.patchMarked (t : MStream) (o : MOut) (n : Nat) : Bool :=
  let x0 := t.cropX + n % t.cols * t.patch
  let y0 := t.cropY + n / t.cols * t.patch
  o.marks.any (fun b =>
    let bx := 16 * (b % o.blockCols)
    let by_ := 16 * (b / o.blockCols)
    decide (bx < x0 + t.patch) && decide (x0 < bx + 16) && decide (by_ < y0 + t.patch) && decide (y0 < by_ + 16))

/-! ## Output (R504 to R507) -/

/-- The 64 bytes of an entry's header (R506). -/
def MStream.header (t : MStream) (g : List GroupFrame) (marked : List Nat) (eos : Bool) : List Byte :=
  let b := toBytes 8 (t.groupSeq % 2 ^ 32 + place (b2n eos) 32 + place (b2n t.disc) 33 + place (b2n (g.any (·.fault))) 34 + place g.length 35) ++
    toBytes 8 (((g.head?.map (·.order)).getD 0) % 2 ^ 48) ++
    toBytes 8 (t.cols + place t.rows 16 + place marked.length 32) ++
    toBytes 8 ((g.map (·.blocks)).sum % 2 ^ 32 + place (t.skipped % 2 ^ 32) 32) ++
    toBytes 8 t.tensorOff ++ List.replicate 20 0
  b ++ toBytes 4 (crc32 b)

/-- The group under assembly is written to the next ring entry: tensor, mask, header. -/
def writeEntry (s : State) (i : Fin 64) (eos : Bool) : State :=
  match s.media.streams.get i with
  | none => s
  | some t =>
    let g := t.group
    let a := t.ringAddr + t.ringNext * t.entryBytes
    let marked := (List.range t.patches).filter (fun n => g.any (fun f => f.marked.contains n))
    let tensor := (List.range t.patches).flatMap (fun n => (List.range t.tube).flatMap (fun k =>
      match g[k]? with
      | some f => f.patches.getD n []
      | none => List.replicate t.patchBytes 0))
    let mask := (List.range (cdiv t.patches 8)).map (fun k =>
      BitVec.ofNat 8 (((List.range 8).map (fun n => if marked.contains (8 * k + n) then 2 ^ n else 0)).sum))
    let s := ((s.wr (a + t.tensorOff) tensor).wr (a + 64) mask).wr a (t.header g marked eos)
    let next := (t.ringNext + 1) % t.ringEntries
    let s := s.updStream i (fun t => { t with
      group := [], groupSeq := t.groupSeq + 1, ringNext := next, ringHeld := t.ringHeld + 1, skipped := 0, disc := false,
      waitRingSince := if t.ringHeld + 1 = t.ringEntries then some s.now else none })
    if t.notify then mediaEv s Code.MEDIA_ENTRY t.ctx i [t.groupSeq] else s

/-- One frame comes out in output order: its marks are counted, and a sampled frame joins the group. -/
def outFrame (s : State) (i : Fin 64) (o : MOut) (eos : Bool) : State :=
  match s.media.streams.get i with
  | none => s
  | some t =>
    let d : DpbFrame := { order := t.outOrder, fed := t.fed.length, pic := o }
    let t' : MStream := { t with dpb := (d :: t.dpb).take 18 }
    let con := o.concealedAll.eraseDups.length
    let f : GroupFrame := { order := t.outOrder, marked := (List.range t.patches).filter (t.patchMarked o), blocks := o.marks.length,
                            fault := o.fault, patches := (List.range t.patches).map (t'.patchOf d) }
    let sampled : Bool := t.outOrder % t.frameStep = 0
    let s := s.updStream i (fun t => { t with
      dpb := t'.dpb, outOrder := t.outOrder + 1, concealed := t.concealed + con, tainted := t.tainted + (o.marks.length - con),
      group := if sampled then t.group ++ [f] else t.group })
    if sampled && t.group.length + 1 = t.tube then writeEntry s i eos else s

/-- Ring entries that a turn's frames fill. -/
def MStream.entriesFor (t : MStream) (f : MFrame) : Nat :=
  let k := ((List.range f.outs.length).filter (fun j => (t.outOrder + j) % t.frameStep = 0)).length + t.group.length
  if f.final then cdiv k t.tube else k / t.tube

/-! ## Decoding (R496, R499 to R502, R510 to R514) -/

/-- What the reading of a frame's bytes gives: the bytes, the chunks left, the ordinals of chunks read to their end, the read
errors met, whether a Discontinuity chunk began, and the host's bytes left. -/
structure MRead where
  got : List Byte := []
  left : List Chunk := []
  doneOrds : List Nat := []
  errs : Nat := 0
  disc : Bool := false
  host : List Byte := []

/-- The next `n` bytes of a queue, chunk by chunk (R497, R499): a read that fails loses the rest of its chunk. -/
def readChunks (s : State) (x : Ctx) (f : MFrame) : List Chunk → Nat → MRead → MRead
  | [], _, r => r
  | c :: cs, n, r =>
    if n = 0 then { r with left := c :: cs }
    else
      let k := min n (c.len - c.read)
      let bad : Bool := if c.hostSpace then f.pcieErr
        else f.hbmUe || s.own (s.party x) (c.addr + c.read) k != .ok || !s.mapped (c.addr + c.read) || s.poisoned (c.addr + c.read) k
      let bs := if c.hostSpace then slice r.host 0 k else s.rd (c.addr + c.read) k
      let d : Bool := r.disc || (c.disc && c.read = 0)
      if bad then
        readChunks s x { f with pcieErr := f.pcieErr && !c.hostSpace, hbmUe := f.hbmUe && c.hostSpace } cs (n - k)
          { r with doneOrds := r.doneOrds ++ [c.ord], errs := r.errs + 1, disc := d }
      else
        let r := { r with got := r.got ++ bs, disc := d, host := if c.hostSpace then r.host.drop k else r.host }
        if c.read + k = c.len then readChunks s x f cs (n - k) { r with doneOrds := r.doneOrds ++ [c.ord] }
        else { r with left := { c with read := c.read + k } :: cs }

/-- Bytes a queue still holds. -/
def MStream.unread (t : MStream) : Nat := (t.chunks.map (fun c => c.len - c.read)).sum

/-- A stream whose readiness needs nothing but its queue and its ring: it holds an EndOfStream chunk (R501). -/
def MStream.surelyReady (t : MStream) : Bool := t.stopped.isNone && t.chunks.any (·.eos) && t.ringHeld < t.ringEntries

/-- Place of a stream in its context's round (R501). -/
def roundPlace (last i : Nat) : Nat := (i + 63 - last) % 64

/-- A stream known to be ready has its turn before another (R501). Whether a stream that holds no EndOfStream chunk is ready
depends on how long its next frame is, which only its standard's parse tells: the row's frame says that its own is. -/
def State.turnTaken (s : State) (i : Fin 64) (t : MStream) : Bool :=
  (List.finRange 64).any (fun j => match s.media.streams.get j with
    | some u => decide (j ≠ i) && u.surelyReady &&
        (if u.ctx = t.ctx then
          let last := match t.ctx with | .j0 => s.media.lastJ0 | .j1 => s.media.lastJ1
          decide (roundPlace last j.val < roundPlace last i.val)
        else decide (u.ctx = .j0))
    | none => false)

/-- A stream stops with a status (R496, R513). -/
def stopStream (s : State) (i : Fin 64) (x : Ctx) (status : Nat) (words : List Nat) : State :=
  mediaEv (s.updStream i (fun t => { t with stopped := some status })) status x i words

/-- The need of R496 in bytes. -/
def dpbNeed (w h depth d : Nat) : Nat :=
  let a := roundUp w 64 * roundUp h 64
  (d + 2) * (a * 3 * (if depth = 8 then 1 else 2) / 2 + a / 16)

/-- What a sequence header makes of a stream: the status that stops it, with what it reports, or none. -/
def MStream.headerErr (t : MStream) (h : Nat × Nat × Nat × Nat) : Option (Nat × List Nat) :=
  let (w, hh, depth, d) := h
  if 8192 < w || 8192 < hh || 9437184 < w * hh then some (Code.MEDIA_UNSUPPORTED, [])
  else if t.dpbBytes < dpbNeed w hh depth d then some (Code.MEDIA_DPB_SHORT, [dpbNeed w hh depth d - t.dpbBytes, 2])
  else if w < t.cropX + t.cropW || hh < t.cropY + t.cropH then some (Code.MEDIA_GEOMETRY, [])
  else none

/-- The frames of a turn come out, and the last group of an ended stream is written (R507). -/
def outFrames (s : State) (i : Fin 64) (final : Bool) : List MOut → State
  | [] =>
    match s.media.streams.get i with
    | some t => if final && !t.group.isEmpty then writeEntry s i true else s
    | none => s
  | o :: os => outFrames (outFrame s i o (final && os.isEmpty)) i final os

/-- MEDIA_FRAME_DECODE (R501): a pipeline takes the next ready stream and decodes one frame. -/
def mediaFrame (f : MFrame) (s : State) : State :=
  let i := f.stream
  match s.media.streams.get i with
  | none => s
  | some t =>
    let eos := t.chunks.any (·.eos)
    if t.stopped.isSome || (t.unread < f.consumed && !eos) || (f.consumed = 0 && !eos) || s.turnTaken i t then s
    else if t.ringEntries ≤ t.ringHeld || t.ringEntries < t.ringHeld + t.entriesFor f then
      s.updStream i (fun t => { t with waitRingSince := some (t.waitRingSince.getD s.now) })
    else
      let s := endRingWait s i
      let s := { s with media := (match t.ctx with
        | .j0 => { s.media with lastJ0 := i.val }
        | .j1 => { s.media with lastJ1 := i.val }) }
      let r := readChunks s t.ctx f t.chunks f.consumed { host := f.bytes }
      let s := s.updStream i (fun t => { t with
        chunks := r.left, fed := t.fed ++ r.got, disc := t.disc || r.disc || f.discarded != 0, skipped := t.skipped + f.discarded,
        dpb := if r.disc then [] else t.dpb })
      let s := r.doneOrds.foldl (fun s o => mediaEv s Code.MEDIA_CHUNK_DONE t.ctx i [o]) s
      let s := bump s (mediaKey Cnt.MEDIA_SYNTAX i) (f.syntaxErrors + r.errs)
      let s := bump s (mediaKey Cnt.MEDIA_GRAIN_SKIPPED i) (b2n f.grain)
      let s := if f.internalUe then
          raiseRec s { code := Code.MEDIA_FAULT, ctx := some t.ctx, unit := mediaUnit } 0 i.val
            { severity := 0, eventCode := 0x0201, unitClass := 0xB }
        else s
      match f.header.bind t.headerErr with
      | some e => stopStream s i t.ctx e.1 e.2
      | none =>
        let s := outFrames s i f.final f.outs
        match f.unsupported with
        | some e => stopStream s i t.ctx Code.MEDIA_UNSUPPORTED [e]
        | none => s

def execMediaFrameDecode (f : MFrame) (s : State) : Host.Outcome State Fault Refusal := .next (mediaFrame f s)

/-- MEDIA_CONCEAL (R515): at most once a second, the blocks concealed and tainted since the last. -/
def mediaConceal (i : Fin 64) (s : State) : State :=
  match s.media.streams.get i with
  | none => s
  | some t =>
    if (t.concealed = 0 && t.tainted = 0) || (match t.concealAt with | some a => decide (s.now < a + 1000000000) | none => false) then s
    else
      let s := s.updStream i (fun t => { t with concealed := 0, tainted := 0, concealAt := some s.now })
      mediaEv s Code.MEDIA_CONCEAL t.ctx i [t.concealed, t.tainted]

def execMediaConceal (stream : Fin 64) (s : State) : Host.Outcome State Fault Refusal := .next (mediaConceal stream s)

end Sys2Proof.Machine
end

