-- ==== Sys2Proof/Machine/Jobs.lean ====
section
/-! DEFINITION. The job commands and beat.period (R138 to R144, R161, R388, R389, R441 to R443, R465 to R468, R563, R567,
R568). -/

namespace Sys2Proof.Machine

/-! ## The job record (R568, R388, R389) -/

/-- The mapping record of a job record. -/
def Mapping.of (p : List Byte) : Mapping :=
  { axesD := fld p 0x20 6 0, axesP := fld p 0x20 14 8, axesT := fld p 0x20 22 16, axesS := fld p 0x20 30 24, axesX := fld p 0x20 38 32,
    lens := (List.range 6).map (fun a => fld p 0x28 (8 * a + 7) (8 * a)), lenH := fld p 0x28 55 48, buddyAxis := fld p 0x30 2 0,
    buddyOff := fld p 0x30 8 3 }

/-- The ports of an axis have the role it needs: Torus, or a pair of Uplinks for H. -/
def State.axisPorts (s : State) (axis : Nat) : Bool :=
  let role (p : Nat) : Role := (s.fab.ports.toList.getD p {}).role
  if axis = 6 then (List.range 6).any (fun a => role (2 * a) = .uplink && role (2 * a + 1) = .uplink)
  else role (2 * axis) = .torus && role (2 * axis + 1) = .torus

/-- The mapping record is refused (R389). -/
def State.mapInvalid (s : State) (k : Mapping) : Bool :=
  let masks := [k.axesD, k.axesP, k.axesT, k.axesS, k.axesX]
  let named (a : Nat) : Nat := (masks.filter (fun m => bit m a)).length
  let lens := k.lens ++ [k.lenH]
  (List.range 7).any (fun a => 1 < named a || (named a != 0 && !s.axisPorts a)) ||
    1 < ((List.range 7).filter (bit k.axesP)).length ||
    lens.any (fun n => n = 0 || 64 < n) || 512 < k.lens.foldl (· * ·) 1 ||
    !(k.buddyAxis < 6 && bit k.axesD k.buddyAxis) || k.buddyOff = 0 || k.lens.getD k.buddyAxis 0 ≤ k.buddyOff

/-- Reserved fields and codes of a job record. -/
def jobBad (p : List Byte) : Option Nat :=
  let diag := bit (fld p 0x10 18 18) 0
  let depth := fld p 0x10 23 20
  let parent := fld p 0x18 35 32
  orBad (firstBit p [(0x10, 63, 35), (0x18, 63, 48), (0x38, 63, 48)])
    (orBad (if diag then none else firstBit p [(0x20, 7, 7), (0x20, 15, 15), (0x20, 23, 23), (0x20, 31, 31), (0x20, 63, 39),
        (0x28, 63, 56), (0x30, 63, 9)])
      (badIf [(!periodOk (fld p 0x10 17 0), 128), (8 < depth && depth != 0xF, 148), (1024 < fld p 0x10 34 24, 152),
        (11 < parent && parent != 0xF, 224)]))

/-- Pairs of a list. -/
def pairsOf : List Nat → List (Nat × Nat)
  | a :: b :: l => (a, b) :: pairsOf l
  | _ => []

/-- The devices of the distribution tree with their latencies as firmware measured them (R139): the answers of the command,
device and nanoseconds in turn. A tree of one device needs no answer. -/
def State.measured (s : State) (p : List Byte) (answers : List Nat) : Option (List (Nat × Nat)) :=
  let me := s.ident.devNum
  let l := pairsOf answers
  if l.isEmpty && fld p 0x18 47 36 = 0 && fld p 0x18 35 32 = 0xF then some [(me, 0)]
  else if l.any (fun q => q.1 = me) then some l else none

def specJobOpen : CmdSpec :=
  { code := CmdCode.jobOpen, lenOk := lenIs 64, bad := jobBad, foal := fun _ p => bit (fld p 0x10 18 18) 0 }

/-- The context a job record opens. -/
def openJob (s : State) (x : Ctx) (p : List Byte) (ms : List (Nat × Nat)) : State :=
  let me := s.ident.devNum
  let diag := bit (fld p 0x10 18 18) 0
  let join := bit (fld p 0x10 19 19) 0
  let ms := if diag then [(me, 0)] else ms
  let lmax := (ms.map (·.2)).foldl max 0
  let mine := ((ms.find? (fun q => q.1 = me)).map (·.2)).getD 0
  let master := if diag then me else fld p 0x18 15 0
  let dep := fld p 0x18 31 16
  let deputy : Option Nat := if diag || dep = 0 then none else some dep
  let taken : Bool := join && master = me
  let depth := fld p 0x10 23 20
  let s := if s.jobs.j0.isOpen || s.jobs.j1.isOpen then s
    else { s with fab := { s.fab with places := (match s.fab.bank? s.fab.activeEpoch with | some b => b.pod | none => []) } }
  let s := (s.updJob .j0 (fun j => { j with lost := false })).updJob .j1 (fun j => { j with lost := false })
  let s := s.updJob x (fun _ =>
    { isOpen := true, jobId := u64At p 0, seed := BitVec.ofNat 64 (u64At p 8), period := fld p 0x10 17 0, diag := diag, join := join,
      pfDepth := if depth = 0 then 4 else if depth = 0xF then 0 else depth,
      overrunLimit := if fld p 0x10 34 24 = 0 then 8 else fld p 0x10 34 24,
      master := master, deputy := if taken then none else deputy, sender := if taken then deputy.getD master else master,
      parent := if diag then 0xF else fld p 0x18 35 32, children := if diag then 0 else fld p 0x18 47 36,
      map := if diag then {} else Mapping.of p, members := ms, beatDelay := lmax - mine, lmax := lmax,
      startStep := fld p 0x38 47 0, step := fld p 0x38 47 0, waitStep := if join then some s.ident.assumeStep else none })
  if join then ((ms.map (·.1)).filter (· != me)).foldl (fun s d => send s (muleMsg d 4 [ctxNo x, me])) s else s

/-- JOB_OPEN (R139, R442, R563, R567, R568). -/
def jobOpen (m : MCmd) (s : State) : State :=
  startCmd specJobOpen m s (fun s =>
    let p := m.payload
    let diag := bit (fld p 0x10 18 18) 0
    let join := bit (fld p 0x10 19 19) 0
    let code := specJobOpen.code
    match m.ctxt with
    | none => badField s code m 0
    | some x =>
      if s.sys.service = .foal && x = .j1 then notReady s code m
      else if diag && s.sys.service = .full then badField s code m 146
      else if (s.jobs.get x).isOpen then answer s code m Code.JOB_OPEN
      else if !diag && s.mapInvalid (Mapping.of p) then answer s code m Code.MAP_INVALID
      else
        match s.measured p m.answers with
        | none => if diag then answer (openJob s x p []) code m Code.OK else answer s code m Code.DEV_UNREACHABLE
        | some ms =>
          let mine := ((ms.find? (fun q => q.1 = s.ident.devNum)).map (·.2)).getD 0
          let lmax := ((ms.filter (fun q => q.1 != s.ident.devNum)).map (·.2)).foldl max 0
          if join && lmax < mine then answer s code m Code.BEAT_SKEW
          else answer (openJob s x p ms) code m Code.OK)

def execJobOpen (m : MCmd) (s : State) : Host.Outcome State Fault Refusal := .next (jobOpen m s)

def specJobStart : CmdSpec := { code := CmdCode.jobStart, ctx := true }

/-- JOB_START (R567): the master learns of it, and the command completes at this device's first boundary. -/
def jobStart (m : MCmd) (s : State) : State :=
  startCmd specJobStart m s (fun s =>
    let x := m.jobCtx
    let j := s.jobs.get x
    let me := s.ident.devNum
    if j.begun then answer s specJobStart.code m Code.OK
    else
      let s := startLater (s.updJob x (fun j => { j with startIssued := true })) specJobStart.code m (ctxNo x)
      if j.sender = me then s.updJob x (fun j => { j with startedBy := if j.startedBy.contains me then j.startedBy else me :: j.startedBy })
      else send s (muleMsg j.sender 2 [ctxNo x, me]))

def execJobStart (m : MCmd) (s : State) : Host.Outcome State Fault Refusal := .next (jobStart m s)

/-! ## Closing (R557, R564, R567) -/

/-- The activity of R557 that keeps a context open: its command's code and how many there are. -/
def State.closeBlocker (s : State) (x : Ctx) : Option (Nat × Nat) :=
  let mv := (s.mem.moves.filter (fun k => (s.obj? k.handle).any (fun o => o.owner = ctxNo x))).length
  let sv := (s.mem.ckptJobs.filter (fun j => j.save && j.ctx = x)).length
  let rs := (s.mem.ckptJobs.filter (fun j => !j.save && j.ctx = x)).length
  let ox := (s.mem.oxRuns.filter (fun r => r.ctx = x)).length
  let ci := (s.coll.insts.filter (fun i => i.ctx = x && !i.completed)).length
  [(CmdCode.memMove, mv), (CmdCode.ckptSave, sv), (CmdCode.ckptRestore, rs), (CmdCode.oxRun, ox), (CmdCode.collArm, ci)].find? (fun a => a.2 != 0)

/-- A stage leaves its cluster with its uncommitted beat and its pins (DEDUCED, log entry 45). -/
def dropStage (s : State) (c : Cl) (x : Ctx) : State :=
  match s.stage c x with
  | none => s
  | some g =>
    let s := discardBeat s c x
    let s := g.outbound.foldl (fun s t => pinObjs s t.objs (· - 1)) s
    s.updSeq c x (fun q => { q with stage := none })

/-- A context closes: its beat, stages, groups, rings, watches and streams go, and its objects stay. -/
def closeJob (s : State) (x : Ctx) : State :=
  let s := (List.finRange 40).foldl (fun s c => dropStage s c x) s
  let s := (List.finRange 64).foldl (fun s i => match s.media.streams.get i with
    | some t => if t.ctx = x then endRingWait s i else s
    | none => s) s
  let mineW (w : Watch) : Option Watch := if w.ctx = x then none else some w
  let mineT (t : MStream) : Option MStream := if t.ctx = x then none else some t
  let s := { s with
    coll := { s.coll with groups := s.coll.groups.set x [], fuses := s.coll.fuses.set x [], insts := s.coll.insts.filter (fun i => i.ctx != x),
                          early := s.coll.early.filter (fun e => e.2.1 != x) },
    mem := { s.mem with rings := s.mem.rings.set x [], kvHeld := s.mem.kvHeld.filter (fun k => k.ctx != x) },
    goose := { s.goose with items := s.goose.items.filter (fun w => w.ctx != x) },
    obs := { s.obs with watches := s.obs.watches.map (fun (w : Option Watch) => w.bind mineW) },
    media := { s.media with streams := s.media.streams.map (fun (t : Option MStream) => t.bind mineT) } }
  let s := s.updJob x (fun _ => {})
  let s := if s.jobs.j0.isOpen || s.jobs.j1.isOpen then s else { s with fab := { s.fab with places := [] } }
  completeAll (completeAll (completeAll s CmdCode.jobStart (ctxNo x) Code.ABORTED) CmdCode.beatPeriod (ctxNo x) Code.ABORTED)
    CmdCode.jobRewind (ctxNo x) Code.ABORTED

def specJobClose : CmdSpec := { code := CmdCode.jobClose, ctx := true }

/-- JOB_CLOSE (R567). -/
def jobClose (m : MCmd) (s : State) : State :=
  startCmd specJobClose m s (fun s =>
    match s.closeBlocker m.jobCtx with
    | some (c, n) => answerBusy s specJobClose.code m c n
    | none => answer (closeJob s m.jobCtx) specJobClose.code m Code.OK)

def execJobClose (m : MCmd) (s : State) : Host.Outcome State Fault Refusal := .next (jobClose m s)

/-! ## Halting, rewinding, reading (R465 to R468) -/

def specJobHalt : CmdSpec := { code := CmdCode.jobHalt, foal := fun _ _ => false, ctx := true }

/-- JOB_HALT (R465). -/
def execJobHalt (m : MCmd) (s : State) : Host.Outcome State Fault Refusal :=
  .next (startCmd specJobHalt m s (fun s => answer (haltAll s m.jobCtx) specJobHalt.code m Code.OK))

/-- A stage after a rewind: schedule at entry 0, every slot FREE, three credits for each consumer (R467). -/
def Stage.rewound (g : Stage) : Stage :=
  let g := g.restart
  { g with
    run := none, idle := .stepWait, committed := none, overranBeat := none,
    outbound := g.outbound.filter (fun t => t.held.isNone),
    ins := g.ins.map (fun q => { q with slots := Vector.replicate 3 .free, bad := false }),
    outs := g.outs.map (fun q => { q with slots := Vector.replicate 2 .free, credits := q.consumers.map (fun _ => 3) }) }

/-- One cluster's part of a rewind. -/
def rewindStage (s : State) (c : Cl) (x : Ctx) : State :=
  match s.stage c x with
  | none => s.updSeq c x (fun q => { q with bnd := Vector.replicate 32 0, remoteWrites := [] })
  | some g =>
    let s := discardBeat s c x
    let s := (g.outbound.filter (fun t => t.held.isSome)).foldl (fun s t => pinObjs s t.objs (· - 1)) s
    let s := s.updStage c x Stage.rewound
    s.updSeq c x (fun q => { q with bnd := Vector.replicate 32 0, remoteWrites := [] })

def specJobRewind : CmdSpec :=
  { code := CmdCode.jobRewind, lenOk := lenIs 8, bad := fun p => firstBit p [(0, 63, 48)], foal := fun _ _ => false, ctx := true }

/-- JOB_REWIND (R467, R468). Other devices answer whether they have written a Master plane in the step. The context runs again
from the boundary that starts the named step. -/
def jobRewind (m : MCmd) (s : State) : State :=
  startCmd specJobRewind m s (fun s =>
    let x := m.jobCtx
    let j := s.jobs.get x
    let n := fld m.payload 0 47 0
    let code := specJobRewind.code
    if !j.halted then answer s code m Code.NOT_HALTED
    else if (j.updateStarted && n = j.step) || m.answers.any (· != 0) then answer s code m Code.UPDATE_STARTED
    else
      let s := (List.finRange 40).foldl (fun s c => rewindStage s c x) s
      let home (g : KvRing) : KvRing := { g with releases := 0, homing := g.step != 0 }
      let s := { s with mem := { s.mem with rings := s.mem.rings.set x ((s.mem.rings.get x).map home) } }
      let s := s.updJob x (fun j => { j with
        halted := false, failedBeat := none, rewindTo := some n, waitStep := some n, stepDone := [], stepDoneSent := false,
        proposals := [], neg := none, stepStartReady := false, overruns := 0 })
      if (s.mem.rings.get x).any (·.homing) then startLater s code m (ctxNo x) else answer s code m Code.OK)

def execJobRewind (m : MCmd) (s : State) : Host.Outcome State Fault Refusal := .next (jobRewind m s)

def specJobQuery : CmdSpec := { code := CmdCode.jobQuery, ctx := true }

/-- JOB_QUERY (R567). -/
def jobQuery (m : MCmd) (s : State) : State :=
  startCmd specJobQuery m s (fun s =>
    let j := s.jobs.get m.jobCtx
    answer s specJobQuery.code m Code.OK (j.beat % 2 ^ 48 + place (b2n j.halted) 48) (j.step % 2 ^ 48 + place (j.treeGen % 65536) 48))

def execJobQuery (m : MCmd) (s : State) : Host.Outcome State Fault Refusal := .next (jobQuery m s)

def specBeatPeriod : CmdSpec :=
  { code := CmdCode.beatPeriod, lenOk := lenIs 8, foal := fun _ _ => false, ctx := true,
    bad := fun p => orBad (firstBit p [(0, 63, 18)]) (badIf [(!periodOk (fld p 0 17 0), 0)]) }

/-- BEAT_PERIOD (R161): a request to the master, which its own device's Mule takes at the step's end. -/
def beatPeriod (m : MCmd) (s : State) : State :=
  startCmd specBeatPeriod m s (fun s =>
    let x := m.jobCtx
    let s := s.updJob x (fun j => { j with requested := some (fld m.payload 0 17 0) })
    startLater s specBeatPeriod.code m (ctxNo x))

def execBeatPeriod (m : MCmd) (s : State) : Host.Outcome State Fault Refusal := .next (beatPeriod m s)

end Sys2Proof.Machine
end

