-- ==== Sys2Proof/Machine/KvCmds.lean ====
section
/-! DEFINITION. The key/value commands of the mailbox (R203, R204, R208, R211, R229, R571). -/

namespace Sys2Proof.Machine

/-- A command of a running beat, or a ring, of a context names a sequence (R203). -/
def State.seqNamed (s : State) (x : Ctx) (seq : Nat) : Bool :=
  (s.mem.rings.get x).any (fun g => g.seq = seq) ||
  (List.finRange 40).any (fun c => (s.beatCmds c x).any (fun k =>
    let d := s.desc c x k.desc
    k.st == .running && ((d.kind = 4 && d.xfer.kv && d.xfer.seq = seq) || (d.kind = 3 && d.att.seq = seq))))

def specSeqDefine : CmdSpec := {
  code := CmdCode.kvSeqDefine, lenOk := lenIs 24, ctx := true, foal := fun _ _ => false,
  bad := fun p => firstBit p [(0, 63, 12), (8, 15, 7), (16, 63, 48)] }

/-- First field of a sequence record that R204 forbids. -/
def seqRecBad (p : List Byte) : Option Nat :=
  let pg := fld p 8 6 2
  if !bit (fld p 8 0 0) 0 then none
  else if pg < 12 || 21 < pg then some 66
  else if fld p 8 63 16 % 4096 != 0 then some 80
  else if 2 ^ (pg + 18) < fld p 16 47 0 then some 128
  else none

/-- KV_SEQ_DEFINE (R203, R204): a record with Valid = 0 removes the sequence. -/
def kvSeqDefine (m : MCmd) (s : State) : State :=
  startCmd specSeqDefine m s (fun s =>
    let p := m.payload
    let x := m.jobCtx
    let seq := fld p 0 11 0
    match seqRecBad p with
    | some b => badField s specSeqDefine.code m b
    | none =>
      if s.seqNamed x seq then answer s specSeqDefine.code m Code.SEQ_BUSY
      else
        let r : SeqRec := { ctx := if bit (fld p 8 1 1) 0 then .j1 else .j0, pgShift := fld p 8 6 2, root := fld p 8 63 16,
                            limit := fld p 16 47 0 }
        let others := (s.mem.seqs.get x).filter (fun e => e.1 != seq)
        let labs := s.mem.labs.map (fun l => l.filter (fun (e : LabEntry) => !(e.ctx = x && e.seq = seq)))
        answer { s with mem := { s.mem with
            seqs := s.mem.seqs.set x (if bit (fld p 8 0 0) 0 then (seq, r) :: others else others), labs := labs } }
          specSeqDefine.code m Code.OK)

def execKvSeqDefine (m : MCmd) (s : State) : Host.Outcome State Fault Refusal := .next (kvSeqDefine m s)

def specInval : CmdSpec := {
  code := CmdCode.kvInval, lenOk := lenIs 24, ctx := true, foal := fun _ _ => false, bad := fun p => firstBit p [(0, 63, 12)] }

/-- KV_INVAL (R208): the matching entries leave every look-aside buffer at once. -/
def kvInval (m : MCmd) (s : State) : State :=
  startCmd specInval m s (fun s =>
    let p := m.payload
    let x := m.jobCtx
    let seq := fld p 0 11 0
    let va := u64At p 8
    let len := u64At p 16
    let s := match s.seqRec x seq with
      | some r => if len = 0 then s else dropLab s x seq r.pgShift va len
      | none => s
    if s.kvInUse x seq va (va + len) then startLater s specInval.code m (seq + 4096 * ctxNo x)
    else answer s specInval.code m Code.OK)

def execKvInval (m : MCmd) (s : State) : Host.Outcome State Fault Refusal := .next (kvInval m s)

def specRetry : CmdSpec := {
  code := CmdCode.kvRetry, lenOk := lenIs 8, ctx := true, foal := fun _ _ => false, bad := fun p => firstBit p [(0, 63, 12)] }

/-- KV_RETRY (R211). -/
def execKvRetry (m : MCmd) (s : State) : Host.Outcome State Fault Refusal :=
  .next (startCmd specRetry m s (fun s => answer (retryKv s m.jobCtx (fld m.payload 0 11 0)) specRetry.code m Code.OK))

def specRingDefine : CmdSpec := {
  code := CmdCode.kvRingDefine, lenOk := fun p => p.length = 32 + 32 * fld p 0 26 20, ctx := true, foal := fun _ _ => false,
  bad := fun p => firstBit p [(0, 63, 43)] }

/-- The ring a payload defines (R229). -/
def ringOf (p : List Byte) : KvRing :=
  let pair (o : Nat) : Nat × Nat := (u64At p o, u64At p (o + 8))
  { id := fld p 0 3 0, seq := fld p 0 15 4, axis := fld p 0 18 16, minus := bit (fld p 0 19 19) 0, n := fld p 0 26 20,
    releaseCount := fld p 0 42 27, shardBytes := u64At p 8, buf := (u64At p 16, u64At p 24),
    ranges := (List.range (fld p 0 26 20)).map (fun i => (pair (32 + 32 * i), pair (48 + 32 * i))) }

/-- KV_RING_DEFINE (R229, R230): the device holds its own shard in the first buffer, and a KV shard leaves at once. -/
def kvRingDefine (m : MCmd) (s : State) : State :=
  startCmd specRingDefine m s (fun s =>
    let x := m.jobCtx
    let g := ringOf m.payload
    if 5 < g.axis then badField s specRingDefine.code m 16
    else if g.n < 2 || 64 < g.n then badField s specRingDefine.code m 20
    else
      let s := { s with mem := { s.mem with rings := s.mem.rings.set x ((s.mem.rings.get x).filter (fun o => o.id != g.id) ++ [g]) } }
      let s := if s.ringGrad x g then s else sendShard s x g.id
      answer s specRingDefine.code m Code.OK)

def execKvRingDefine (m : MCmd) (s : State) : Host.Outcome State Fault Refusal := .next (kvRingDefine m s)

end Sys2Proof.Machine
end

