-- ==== Sys2Proof/Machine/Memory.lean ====
section
/-! DEFINITION. The memory commands: placement, moves, the pool, the last-level memory's settings, objects of F2 pools,
estimates of streams and the fixed-rate codec (R300 to R341, R571). -/

namespace Sys2Proof.Machine

/-! ## MEM_PLACE (R311, R312, R571) -/

/-- A size an object may have (R309). -/
def sizeOk (n : Nat) : Bool := n % 65536 = 0 && 65536 ≤ n && n ≤ 2 ^ 40

/-- A party's device for a pool range can lend: it is another device of the pod for tier 3 and of another pod for tier 4, and
no link to it runs FF2 (R308, R312). -/
def State.mayLend (s : State) (tier dev : Nat) : Bool :=
  dev != s.ident.devNum && 1 ≤ dev && dev ≤ 32768 && decide ((podOf dev = podOf s.ident.devNum) = (tier = 3)) &&
    !s.fab.ports.toList.any (fun p => p.ff2 && (p.peer.map (·.devNum)) = some dev)

/-- Where an object's bytes, with its tag plane, can go: an address, or the status with its two results. Ranges in a lender's
pool are what its Mule has answered (DESIGN CHOICE, log entry 21). -/
def State.findHome (s : State) (tier owner bytes : Nat) (addr : Option Nat) (lender : Nat) (answers : List Nat) : Except (Nat × Nat × Nat) Nat :=
  if tier = 1 || tier = 2 then
    match s.fitTier tier owner bytes addr with
    | (.at_ a, false) => .ok a
    | (.at_ _, true) => .error (Code.LLM_PROT, 0, 0)
    | (.short n, true) => .error (Code.NO_SPACE, n, tier)
    | (.short n, false) => .error (Code.NO_SPACE, n, tier)
  else if tier = 5 then (match addr with | some a => .ok a | none => .error (Code.DESC_INVALID, 0xFFFF, 10))
  else if !s.mayLend tier lender then .error (Code.NOT_LENDER, 0, 0)
  else if s.fab.failed.contains lender then .error (Code.DEV_UNREACHABLE, 0, 0)
  else
    match grants 1 answers with
    | (a :: _, _) => .ok (lender * 2 ^ 48 + a % 2 ^ 48)
    | ([], some (st, short)) => .error (st, short, if st = Code.NO_SPACE then tier else 0)
    | ([], none) => .error (Code.DEV_UNREACHABLE, 0, 0)

/-- The message that asks a lender for pages. -/
def askLender (s : State) (tier owner lender bytes : Nat) : State :=
  if (tier = 3 || tier = 4) && s.mayLend tier lender && !s.fab.failed.contains lender then send s (muleMsg lender 6 [owner, bytes]) else s

/-- The tags of an object whose every slot is zero (R332). -/
def zeroTags (size : Nat) : List Byte := (List.range (size / 4096)).flatMap (fun _ => toBytes 2 512)

/-- A new object's range reads as zero (R311): here by clearing it, in host memory by writing it; a lender has cleared its
own. -/
def zeroHome (s : State) (owner tier home size : Nat) (comp : Bool) : State :=
  let s := if tier = 1 || tier = 2 then zeroRange s home size
    else if tier = 5 && !comp then { s with mbx := { s.mbx with hostMem := Mem.clear s.mbx.hostMem home size } } else s
  if !comp then s
  else if tier = 5 then writeHost s (home + size) (zeroTags size)
  else (writePkts owner (home + size) (zeroTags size)).foldl send s

def specMemPlace : CmdSpec :=
  { code := CmdCode.memPlace, lenOk := lenIs 32,
    foal := fun _ p => fld p 0 4 2 = 1 || fld p 0 4 2 = 2,
    bad := fun p => orBad (firstBit p [(0, 63, 11), (0x18, 63, 16)])
      (badIf [(fld p 0 1 0 = 3, 0), (fld p 0 4 2 = 7, 2), (fld p 0 7 6 = 3, 6), (fld p 0 9 8 = 3, 8)]) }

/-- MEM_PLACE (R311, R312). -/
def memPlace (m : MCmd) (s : State) : State :=
  startCmd specMemPlace m s (fun s =>
    let p := m.payload
    let code := specMemPlace.code
    let owner := fld p 0 1 0
    let tier := fld p 0 4 2
    let size := u64At p 8
    let at_ := bit (fld p 0 10 10) 0
    let addr : Option Nat := if at_ then some (u64At p 0x10) else none
    let comp : Bool := (tier = 3 || tier = 4 || tier = 5) && !bit (fld p 0 5 5) 0
    let bytes := size + if comp then tagBytes size else 0
    let lender := fld p 0x18 15 0
    if tier = 0 || tier = 6 then answer s code m Code.TIER_ILLEGAL
    else if !sizeOk size then badField s code m 64
    else if at_ && u64At p 0x10 % 65536 != 0 then badField s code m 128
    else if 65536 ≤ s.mem.objs.length then answer s code m Code.OBJ_FULL
    else
      let found := s.findHome tier owner bytes addr lender m.answers
      let s := askLender s tier owner lender bytes
      match found, s.freeIndex with
      | .error (st, r0, r1), _ => answer s code m st r0 r1
      | .ok _, none => answer s code m Code.OBJ_FULL
      | .ok home, some (i, gen) =>
        let o : Obj := { index := i, gen := gen, owner := owner, tier := tier, comp := comp, alloc := fld p 0 7 6, elemW := fld p 0 9 8,
                         size := size, home := home, tagAddr := if comp then home + size else 0, compBytes := if comp then 0 else size }
        let s := if tier = 1 || tier = 2 then setPages s home size (s.ownerParty owner) .owned else s
        let s := zeroHome (addObj s o) owner tier home size comp
        answer s code m Code.OK o.handle home)

def execMemPlace (m : MCmd) (s : State) : Host.Outcome State Fault Refusal := .next (memPlace m s)

/-! ## MEM_FREE, MEM_QUERY -/

def specMemFree : CmdSpec := { code := CmdCode.memFree, lenOk := lenIs 8, bad := fun p => firstBit p [(0, 63, 32)] }

/-- MEM_FREE (R571). An object in F2 mode goes by mem.f2.close alone (DEDUCED, log entry 48). -/
def memFree (m : MCmd) (s : State) : State :=
  startCmd specMemFree m s (fun s =>
    let code := specMemFree.code
    match s.obj? (fld m.payload 0 31 0) with
    | none => answer s code m Code.BAD_HANDLE
    | some o =>
      if o.moving || o.pins != 0 then answer s code m Code.MOVE_BUSY
      else if s.mediaPinned o then answer s code m Code.MEDIA_PINNED
      else if o.f2 then answer s code m Code.F2_MODE
      else answer (removeObj s o) code m Code.OK)

def execMemFree (m : MCmd) (s : State) : Host.Outcome State Fault Refusal := .next (memFree m s)

def specMemQuery : CmdSpec := { code := CmdCode.memQuery, lenOk := lenIs 8, bad := fun p => firstBit p [(0, 63, 32)] }

/-- MEM_QUERY (R310). -/
def memQuery (m : MCmd) (s : State) : State :=
  startCmd specMemQuery m s (fun s =>
    match s.obj? (fld m.payload 0 31 0) with
    | none => answer s specMemQuery.code m Code.BAD_HANDLE
    | some o => answerOut s specMemQuery.code m o.bytes)

def execMemQuery (m : MCmd) (s : State) : Host.Outcome State Fault Refusal := .next (memQuery m s)

/-! ## MEM_MOVE (R318, R319, R322, R323) -/

def specMemMove : CmdSpec :=
  { code := CmdCode.memMove, lenOk := lenIs 32,
    foal := fun s p => (fld p 8 2 0 = 1 || fld p 8 2 0 = 2) &&
      (match s.obj? (fld p 0 31 0) with | some o => o.tier = 1 || o.tier = 2 | none => true),
    bad := fun p => orBad (firstBit p [(0, 63, 32), (8, 63, 9), (0x18, 63, 16)])
      (badIf [(fld p 8 2 0 = 7, 64), (bit (fld p 8 4 4) 0 && fld p 8 6 5 = 3, 69)]) }

/-- A move is accepted: its object shows Moving and its destination is reserved. -/
def acceptMove (s : State) (m : MCmd) (o : Obj) (k : Move) : State :=
  let s := if k.ownerOnly || k.recalled then s
    else if k.dstTier = 1 || k.dstTier = 2 then setPages s k.dstAddr o.size (s.ownerParty (k.newOwner.getD o.owner)) .free else s
  let s := s.updObj o.handle (fun o => { o with moving := true })
  startLater { s with mem := { s.mem with moves := s.mem.moves ++ [k] } } CmdCode.memMove m o.handle

/-- MEM_MOVE (R318 to R323): accepted, it begins with MOVE_START. -/
def memMove (m : MCmd) (s : State) : State :=
  startCmd specMemMove m s (fun s =>
    let p := m.payload
    let code := specMemMove.code
    let tier := fld p 8 2 0
    let anchor := bit (fld p 8 3 3) 0
    let at_ := bit (fld p 8 8 8) 0
    let addr : Option Nat := if at_ then some (u64At p 0x10) else none
    let lender := fld p 0x18 15 0
    let newOwner : Option Nat := if bit (fld p 8 4 4) 0 then some (fld p 8 6 5) else none
    match s.obj? (fld p 0 31 0) with
    | none => answer s code m Code.BAD_HANDLE
    | some o =>
      let owner := newOwner.getD o.owner
      let ownerOnly : Bool := newOwner.isSome && tier = o.tier && !anchor && (addr.getD o.home) = o.home
      let home_ : Bool := match o.anchor with
        | some a => tier = (if s.inScratch a then 1 else 2) && (addr.getD a) = a
        | none => false
      let comp : Bool := (tier = 3 || tier = 4 || tier = 5) && !bit (fld p 8 7 7) 0
      let bytes := o.size + if comp then tagBytes o.size else 0
      if tier = 0 || tier = 6 then answer s code m Code.TIER_ILLEGAL
      else if at_ && u64At p 0x10 % 65536 != 0 then badField s code m 128
      else if o.moving then answer s code m Code.MOVE_BUSY
      else if o.f2 then answer s code m Code.F2_MODE
      else if s.mediaPinned o then answer s code m Code.MEDIA_PINNED
      else if anchor && !((o.tier = 1 || o.tier = 2) && 3 ≤ tier && o.anchor.isNone) then badField s code m 67
      else if 32 ≤ (s.mem.moves.filter (fun k => !k.recalled || s.mbx.started.any (fun c => c.code = code && c.key = k.handle))).length then
        answerBusy s code m CmdCode.memMove 32
      else if ownerOnly then acceptMove s m o { handle := o.handle, dstTier := tier, dstAddr := o.home, newOwner := newOwner, ownerOnly := true }
      else if home_ then
        acceptMove s m o { handle := o.handle, dstTier := tier, dstAddr := o.anchor.getD 0, newOwner := newOwner, recalled := true }
      else if tier = 5 && !at_ then badField s code m 72
      else
        let found := s.findHome tier owner bytes addr lender m.answers
        let s := askLender s tier owner lender bytes
        match found with
        | .error (st, r0, r1) => answer s code m st r0 r1
        | .ok a =>
          let s := { s with free := s.free + 2 }
          acceptMove s m o { handle := o.handle, dstTier := tier, dstAddr := a, lender := lender, keepAnchor := anchor, newOwner := newOwner, comp := comp })

def execMemMove (m : MCmd) (s : State) : Host.Outcome State Fault Refusal := .next (memMove m s)

/-! ## MEM_POOL_CONFIG, MEM_LLM_CONFIG (R306, R313) -/

def specPoolConfig : CmdSpec := { code := CmdCode.memPoolConfig, lenOk := lenIs 8, foal := fun _ _ => false }

/-- MEM_POOL_CONFIG (R313). A pool that would take in pages of this device's own objects does not fit (DEDUCED, log entry 47). -/
def poolConfig (m : MCmd) (s : State) : State :=
  startCmd specPoolConfig m s (fun s =>
    let n := u64At m.payload 0
    let code := specPoolConfig.code
    if n % 65536 != 0 || s.placeable / 2 < n then badField s code m 0
    else
      let lo := s.placeable - n
      let own := (s.mem.pages.filter (fun r => lo < r.base + r.size && r.base < s.poolBase && !s.inScratch r.base)).map (·.size)
      if s.mem.poolRanges.any (fun r => r.base < lo) then answer s code m Code.POOL_IN_USE
      else if !own.isEmpty then answer s code m Code.NO_SPACE own.sum 2
      else answer { s with mem := { s.mem with poolBytes := n } } code m Code.OK)

def execMemPoolConfig (m : MCmd) (s : State) : Host.Outcome State Fault Refusal := .next (poolConfig m s)

/-- A setting's code. -/
def eighthOfCode (v : Nat) : EighthCtx := if v = 0 then .j0 else if v = 1 then .j1 else .both

/-- Settings of a mem.llm.config payload. -/
def llmSettings (p : List Byte) : List Nat := (List.range 8).map (fun i => fld p 0 (5 + 2 * i) (4 + 2 * i))

def specLlmConfig : CmdSpec :=
  { code := CmdCode.memLlmConfig, lenOk := lenIs 8, foal := fun _ _ => false,
    bad := fun p => orBad (firstBit p [(0, 63, 20)])
      (badIf ((8 < fld p 0 3 0, 0) :: (List.range 8).map (fun i =>
        let v := (llmSettings p).getD i 0
        (v = 3 || (v = 2 && i < fld p 0 3 0), 4 + 2 * i)))) }

/-- An object lies in a scratchpad eighth that new settings remove or give to the other context (R306). -/
def State.llmInUse (s : State) (es : Nat) (set_ : List Nat) : Bool :=
  s.mem.objs.any (fun o =>
    let hits (a : Nat) : Bool := s.inScratch a && (List.range s.mem.llm.es).any (fun e =>
      a < scratchBase + (e + 1) * slabUnit && scratchBase + e * slabUnit < a + o.size &&
        (es ≤ e || (o.owner < 2 && set_.getD e 2 != o.owner)))
    (o.tier = 1 && hits o.home) || (match o.anchor with | some a => hits a | none => false))

/-- New settings take effect: dirty lines of eighths that become scratchpad are written back, and scratchpad that becomes
cache loses its contents. -/
def setLlm (s : State) (es : Nat) (set_ : List Nat) : State :=
  let old := s.mem.llm.es
  let s := (List.finRange 64).foldl (fun s sl =>
    ((s.mem.llm.slices.get sl).filter (fun l => l.eighth < es)).foldl (fun s l => evict s sl l) s) s
  let s := if es < old then
      let a := scratchBase + es * slabUnit
      let n := (old - es) * slabUnit
      let s := dropLines s a n
      { s with mem := { s.mem with mem := Mem.clear s.mem.mem a n,
                                   llm := { s.mem.llm with poison := s.mem.llm.poison.filter (fun w => !(a ≤ 8 * w && 8 * w < a + n)) } } }
    else s
  { s with mem := { s.mem with llm := { s.mem.llm with es := es, eighths := Vector.ofFn (fun i => eighthOfCode (set_.getD i.val 2)) } } }

/-- MEM_LLM_CONFIG (R306). -/
def llmConfig (m : MCmd) (s : State) : State :=
  startCmd specLlmConfig m s (fun s =>
    let code := specLlmConfig.code
    let es := fld m.payload 0 3 0
    let set_ := llmSettings m.payload
    if s.jobs.j0.isOpen || s.jobs.j1.isOpen then answer s code m Code.JOB_OPEN
    else if s.llmInUse es set_ then answer s code m Code.LLM_IN_USE
    else answer (setLlm s es set_) code m Code.OK)

def execMemLlmConfig (m : MCmd) (s : State) : Host.Outcome State Fault Refusal := .next (llmConfig m s)

/-! ## Objects of F2 pools (R325 to R329, R357) -/

/-- The port whose FF2 link leads to a pool controller. -/
def State.f2Port (s : State) (dev : Nat) : Option Port :=
  (List.finRange 12).find? (fun p => let q := s.fab.ports.get p; q.role = .f2 && q.ff2 && q.link = .up && (q.peer.map (·.devNum)) = some dev)

/-- A message to a pool controller: 1 asks for a lease, 2 reads and 3 writes at an address, 4 gives the lease back. The
layouts are the controller's documentation's (R357). -/
def sendFf2 (s : State) (pool code arg : Nat) : State :=
  match s.f2Port (devOf pool) with
  | some p => { s with fab := { s.fab with ff2Sent := s.fab.ff2Sent ++ [(p.val, code, arg)] } }
  | none => s

/-- An object in F2 mode changed, by its pool range. -/
def State.updF2 (s : State) (pool : Nat) (f : F2Obj → F2Obj) : State :=
  { s with mem := { s.mem with f2 := s.mem.f2.map (fun k => if k.pool = pool then f k else k) } }

def specF2Open : CmdSpec :=
  { code := CmdCode.memF2Open, lenOk := lenIs 32, foal := fun _ _ => false, feature := some 2,
    bad := fun p => orBad (firstBit p [(0x10, 63, 2)]) (badIf [(fld p 0x10 1 0 = 3, 128)]) }

/-- MEM_F2_OPEN (R325, R329): the working range is reserved and the lease asked for. -/
def f2Open (m : MCmd) (s : State) : State :=
  startCmd specF2Open m s (fun s =>
    let p := m.payload
    let code := specF2Open.code
    let pool := u64At p 0
    let size := u64At p 8
    let work := u64At p 0x18
    if !sizeOk size then badField s code m 64
    else if work % 65536 != 0 then badField s code m 192
    else if 32 ≤ s.mem.f2.length || 65536 ≤ s.mem.objs.length then answer s code m Code.OBJ_FULL
    else if (s.f2Port (devOf pool)).isNone then answer s code m Code.DEV_UNREACHABLE
    else
      match s.fit 0 s.poolBase size (some work) with
      | .short n => answer s code m Code.NO_SPACE n 2
      | .at_ _ =>
        let s := setPages s work size (s.ownerParty (fld p 0x10 1 0)) .free
        let s := { s with mem := { s.mem with f2 := s.mem.f2 ++
          [{ handle := 0, pool := pool, work := work, size := size, owner := fld p 0x10 1 0 }] } }
        startLater (sendFf2 s pool 1 pool) code m pool)

def execMemF2Open (m : MCmd) (s : State) : Host.Outcome State Fault Refusal := .next (f2Open m s)

/-- The dirty frames of a working range are read and written to the pool, in ascending order (R327). -/
def flushF2 (s : State) (k : F2Obj) : State :=
  let fr := k.dirty.mergeSort (fun a b => decide (a ≤ b))
  let s := s.updF2 k.pool (fun k => { k with dirty := [], flushing := true, unacked := k.unacked ++ fr })
  fr.foldl (fun s f => sendFf2 s k.pool 3 (k.pool + 4096 * f)) s

/-- A flush whose frames are all acknowledged completes; a close goes on to give the lease back. -/
def f2Settle (s : State) (pool : Nat) : State :=
  match s.mem.f2.find? (fun k => k.pool = pool) with
  | none => s
  | some k =>
    if !k.flushing || !k.unacked.isEmpty then s
    else
      let s := completeAll (s.updF2 pool (fun k => { k with flushing := false })) CmdCode.memF2Flush k.handle Code.OK
      if k.closing then sendFf2 s pool 4 pool else s

/-- The F2 object of a handle. -/
def State.f2Of (s : State) (h : Nat) : Option F2Obj := if (s.obj? h).isSome then s.mem.f2.find? (fun k => k.handle = h && k.leased) else none

def specF2Flush : CmdSpec :=
  { code := CmdCode.memF2Flush, lenOk := lenIs 8, foal := fun _ _ => false, feature := some 2, bad := fun p => firstBit p [(0, 63, 32)] }

/-- MEM_F2_FLUSH (R327). -/
def f2Flush (m : MCmd) (s : State) : State :=
  startCmd specF2Flush m s (fun s =>
    match s.f2Of (fld m.payload 0 31 0) with
    | none => answer s specF2Flush.code m Code.BAD_HANDLE
    | some k => f2Settle (flushF2 (startLater s specF2Flush.code m k.handle) k) k.pool)

def execMemF2Flush (m : MCmd) (s : State) : Host.Outcome State Fault Refusal := .next (f2Flush m s)

def specF2Close : CmdSpec :=
  { code := CmdCode.memF2Close, lenOk := lenIs 8, foal := fun _ _ => false, feature := some 2, bad := fun p => firstBit p [(0, 63, 32)] }

/-- What pins an object (R557, R552): a save, a collective, or a stage's transfer. -/
def State.pinnedBy (s : State) (o : Obj) : Option (Nat × Nat) :=
  let sv := (s.mem.ckptJobs.filter (fun j => j.pins.contains o.index)).length
  let ci := (s.coll.insts.filter (fun i => i.objs.contains o.index)).length
  if sv != 0 then some (CmdCode.ckptSave, sv) else if ci != 0 then some (CmdCode.collArm, ci)
  else if o.pins != 0 then some (0xFFFF, 0) else none

/-- MEM_F2_CLOSE (R328): a flush, then the lease goes back. -/
def f2Close (m : MCmd) (s : State) : State :=
  startCmd specF2Close m s (fun s =>
    let h := fld m.payload 0 31 0
    match s.f2Of h, s.obj? h with
    | some k, some o =>
      match s.pinnedBy o with
      | some (c, n) => answerBusy s specF2Close.code m c n
      | none =>
        let s := startLater (s.updF2 k.pool (fun k => { k with closing := true })) specF2Close.code m h
        f2Settle (flushF2 s k) k.pool
    | _, _ => answer s specF2Close.code m Code.BAD_HANDLE)

def execMemF2Close (m : MCmd) (s : State) : Host.Outcome State Fault Refusal := .next (f2Close m s)

/-- The record of an F2 object is made once every byte has been copied (R325). -/
def f2Copied (s : State) (k : F2Obj) : State :=
  match s.freeIndex with
  | none => completeLater s CmdCode.memF2Open k.pool Code.OBJ_FULL
  | some (i, gen) =>
    let o : Obj := { index := i, gen := gen, owner := k.owner, tier := 6, f2 := true, size := k.size, home := k.pool, compBytes := k.size }
    let s := setPages (addObj s o) k.work k.size (s.ownerParty k.owner) .owned
    let s := s.updF2 k.pool (fun q => { q with handle := o.handle, leased := true, dirty := [] })
    completeLater s CmdCode.memF2Open k.pool Code.OK (some o.handle)

/-- FF2_RESPONSE (R325, R327, R328). -/
def ff2Response (p : Port) (r : Ff2Msg) (s : State) : State :=
  let ofPool (pool : Nat) : Option F2Obj := if s.f2Port (devOf pool) = some p then s.mem.f2.find? (fun k => k.pool = pool) else none
  match r with
  | .leaseGrant pool =>
    match ofPool pool with
    | some k => if k.leased then s else (List.range (cdiv k.size 8192)).foldl (fun s i => sendFf2 s pool 2 (pool + 8192 * i)) s
    | none => s
  | .leaseRefuse pool =>
    match ofPool pool with
    | some k =>
      if k.leased then s
      else
        let s := { s with mem := { s.mem with f2 := s.mem.f2.filter (fun q => q.pool != pool) } }
        completeLater (clearPages s k.work k.size) CmdCode.memF2Open pool Code.F2_BUSY
    | none => s
  | .data pool off bytes =>
    match ofPool pool with
    | some k =>
      if k.leased || k.size < off + bytes.length then s
      else
        let s := (s.wr (k.work + off) bytes).updF2 pool (fun k => { k with copied := k.copied + bytes.length })
        if k.size ≤ k.copied + bytes.length then f2Copied s k else s
    | none => s
  | .ack pool frame =>
    match ofPool pool with
    | some _ => f2Settle (s.updF2 pool (fun k => { k with unacked := k.unacked.erase frame })) pool
    | none => s
  | .released pool =>
    match ofPool pool with
    | some k =>
      if !k.closing then s
      else
        let s := clearPages s k.work k.size
        let s := { s with mem := { s.mem with f2 := s.mem.f2.filter (fun q => q.pool != pool), objs := s.mem.objs.filter (fun o => o.handle != k.handle) } }
        completeLater s CmdCode.memF2Close k.handle Code.OK
    | none => s

def execFf2Response (p : Port) (r : Ff2Msg) (s : State) : Host.Outcome State Fault Refusal := .next (ff2Response p r s)

/-! ## MEM_STREAM_EST (R331) -/

/-- Planning rate of a path in GB/s, which is bytes in a nanosecond; 0 where the port carries nothing. -/
def State.planRate (s : State) (path : Nat) : Nat :=
  if path = 12 then 110
  else
    let w := (s.fab.ports.toList.getD path {}).lanes
    if w = 8 then 180 else if w = 4 then 90 else if w = 2 then 45 else 0

/-- Bytes per beat that each path carries. -/
def pathLoad (es : List (Obj × Nat × Nat)) (path : Nat) : Nat :=
  (es.map (fun e =>
    let w := if e.1.comp then cdiv (e.2.1 * e.1.compBytes) e.1.size else e.2.1
    let k := ((List.range 13).filter (bit e.2.2)).length
    if bit e.2.2 path then cdiv w k else 0)).sum

/-- The busiest path: the lowest-numbered of those with the longest time. -/
def State.busiest (s : State) (es : List (Obj × Nat × Nat)) : Nat :=
  ((List.range 13).filter (fun p => es.any (fun e => bit e.2.2 p))).foldl (fun (b : Option Nat) p =>
    match b with
    | none => some p
    | some q => if pathLoad es q * s.planRate p < pathLoad es p * s.planRate q then some p else b) none |>.getD 0

def specStreamEst : CmdSpec :=
  { code := CmdCode.memStreamEst, lenOk := fun p => p.length % 16 = 0 && p.length != 0 && p.length ≤ 1024, foal := fun _ _ => false, v3 := true,
    bad := fun p => orBad (firstBit p ((List.range (p.length / 16)).flatMap (fun i => [(16 * i, 63, 32), (16 * i + 8, 63, 45)])))
      (badIf ((List.range (p.length / 16)).map (fun i => (fld p (16 * i + 8) 44 32 = 0, 128 * i + 96)))) }

/-- MEM_STREAM_EST (R331). -/
def streamEst (m : MCmd) (s : State) : State :=
  startCmd specStreamEst m s (fun s =>
    let p := m.payload
    let code := specStreamEst.code
    let raw := (List.range (p.length / 16)).map (fun i => (fld p (16 * i) 31 0, fld p (16 * i + 8) 31 0, fld p (16 * i + 8) 44 32))
    if raw.any (fun e => (s.obj? e.1).isNone) then answer s code m Code.BAD_HANDLE
    else
      let es := raw.filterMap (fun e => (s.obj? e.1).map (fun o => (o, e.2)))
      if (List.range 12).any (fun q => es.any (fun e => bit e.2.2 q) && s.planRate q = 0) then badField s code m 96
      else
        let b := s.busiest es
        let load := pathLoad es b
        let cur := match m.ctxt with | some x => if (s.jobs.get x).isOpen then (s.jobs.get x).period else 0 | none => 0
        let est := max (cdiv (100 * load) (92 * 250 * s.planRate b) * 250) cur
        answer s code m (if 256000 < est then Code.STREAM_SLOW else Code.OK) est (b + place load 8))

def execMemStreamEst (m : MCmd) (s : State) : Host.Outcome State Fault Refusal := .next (streamEst m s)

/-! ## MEM_ENCODE (R339 to R341; the payload's offsets and the planes' places by DESIGN CHOICE, log entry 46) -/

/-- Values of a source matrix: FP32 or BF16, row by row. -/
def srcVal (fmt : Nat) (bs : List Byte) (i : Nat) : FVal :=
  if fmt = 0 then FF.fp32.decode (u32At bs (4 * i)) else FF.bf16.decode (ofBytes (slice bs (2 * i) 2))

/-- Square blocks of a matrix in the order of R39: element bytes, then scale bytes. -/
def encodeSquare (f : Fmt) (v : Nat → Nat → FVal) (rows cols : Nat) : List Byte × List Byte :=
  let blks := (List.range (rows / 32)).flatMap (fun i => (List.range (cols / 32)).map (fun j =>
    blockConvert f (fun _ => .rne) ((List.range 1024).map (fun e => v (32 * i + e / 32) (32 * j + e % 32)))))
  (blks.flatMap (fun b => packCodes f.width b.2), blks.map (fun b => BitVec.ofNat 8 b.1))

/-- A KV tile (R201) of 64 tokens of one head: keys with their scales, then values with theirs. -/
def encodeKvTile (f : Fmt) (key val : Nat → Nat → FVal) (hd : Nat) : List Byte :=
  let kb := (List.range (hd / 32)).map (fun j => (List.range 64).map (fun t =>
    blockConvert f (fun _ => .rne) ((List.range 32).map (fun d => key t (32 * j + d)))))
  let vb := (List.range 2).map (fun j => (List.range hd).map (fun d =>
    blockConvert f (fun _ => .rne) ((List.range 32).map (fun t => val (32 * j + t) d))))
  let code (b : List (List (Nat × List Nat))) (j i e : Nat) : Nat := (((b.getD j []).getD i (0, [])).2).getD e 0
  let scales (b : List (List (Nat × List Nat))) : List Byte := b.flatMap (fun r => r.map (fun q => BitVec.ofNat 8 q.1))
  (List.range hd).flatMap (fun d => packCodes f.width ((List.range 64).map (fun t => code kb (d / 32) t (d % 32)))) ++ scales kb ++
  (List.range 64).flatMap (fun t => packCodes f.width ((List.range hd).map (fun d => code vb (t / 32) d (t % 32)))) ++ scales vb

/-- What an encode's payload names. -/
structure EncReq where
  src : Nat
  srcOff : Nat
  dst : Nat
  dstOff : Nat
  fmt : Nat
  mode : Nat
  rows : Nat
  cols : Nat
  headDim : Nat
  headsKv : Nat
  deriving DecidableEq, Repr

def EncReq.of (p : List Byte) : EncReq :=
  { src := fld p 0 31 0, srcOff := u64At p 8, dst := fld p 0x10 31 0, dstOff := u64At p 0x18, fmt := fld p 0x20 4 0, mode := fld p 0x20 7 5,
    rows := fld p 0x20 39 8, cols := fld p 0x28 31 0, headDim := 64 * 2 ^ fld p 0x28 33 32, headsKv := fld p 0x28 41 34 }

/-- Bytes of the source, and the encoded bytes. -/
def EncReq.srcLen (r : EncReq) : Nat := r.rows * r.cols * if r.fmt = 0 then 4 else 2
def EncReq.output (r : EncReq) (bs : List Byte) : List Byte :=
  let v (i j : Nat) : FVal := srcVal r.fmt bs (i * r.cols + j)
  if r.mode < 2 then
    let b := encodeSquare (if r.mode = 0 then .sq4 else .sq6) v r.rows r.cols
    b.1 ++ b.2
  else
    let f : Fmt := if r.mode = 2 then .mxfp8e4 else .mxfp4
    (List.range (r.rows / 64)).flatMap (fun t => (List.range r.headsKv).flatMap (fun h =>
      encodeKvTile f (fun k d => v (64 * t + k) (h * r.headDim + d)) (fun k d => v (64 * t + k) ((r.headsKv + h) * r.headDim + d)) r.headDim))

def EncReq.dstLen (r : EncReq) : Nat :=
  if r.mode < 2 then r.rows / 32 * (r.cols / 32) * (if r.mode = 0 then 513 else 769)
  else r.rows / 64 * r.headsKv * (if r.mode = 2 then 132 else 68) * r.headDim

/-- Reserved fields, codes and shapes. -/
def encBad (p : List Byte) : Option Nat :=
  let r := EncReq.of p
  orBad (firstBit p [(0, 63, 32), (0x10, 63, 32), (0x20, 63, 40), (0x28, 63, 42)])
    (badIf [(1 < r.fmt, 256), (3 < r.mode, 261),
      (r.rows = 0 || r.rows % (if r.mode < 2 then 32 else 64) != 0, 264),
      (r.cols = 0 || (if r.mode < 2 then r.cols % 32 != 0 else r.cols != 2 * r.headsKv * r.headDim), 320),
      (1 < r.mode && 256 < r.headDim, 352)])

def specEncode : CmdSpec := { code := CmdCode.memEncode, lenOk := lenIs 48, foal := fun _ _ => false, bad := encBad }

/-- The status an object named by a command of a party meets for a range of it: plain bytes of this device that the party
owns. -/
def State.plainRange (s : State) (owner : Nat) (o : Obj) (off len : Nat) : Nat :=
  if o.comp then Code.COMP_ACCESS
  else if !(o.tier = 1 || o.tier = 2) then Code.TIER_ILLEGAL
  else if o.moving then Code.MOVE_BUSY
  else if o.size < off + len then Code.DESC_INVALID
  else s.accessErr (s.ownerParty owner) (o.home + off) len

/-- MEM_ENCODE (R339). -/
def memEncode (m : MCmd) (s : State) : State :=
  startCmd specEncode m s (fun s =>
    let r := EncReq.of m.payload
    let code := specEncode.code
    match s.obj? r.src, s.obj? r.dst with
    | some o, some d =>
      let e1 := s.plainRange m.ctx.toNat o r.srcOff r.srcLen
      let e2 := s.plainRange m.ctx.toNat d r.dstOff r.dstLen
      if e1 = Code.DESC_INVALID then badField s code m 64
      else if e1 != 0 then answer s code m e1 (if e1 = Code.OWN_FAULT then o.home + r.srcOff else 0) (if e1 = Code.OWN_FAULT then r.src else 0)
      else if e2 = Code.DESC_INVALID then badField s code m 192
      else if e2 != 0 then answer s code m e2 (if e2 = Code.OWN_FAULT then d.home + r.dstOff else 0) (if e2 = Code.OWN_FAULT then r.dst else 0)
      else if s.poisoned (o.home + r.srcOff) r.srcLen then answer s code m Code.HBM_POISON
      else
        let out := r.output (s.rd (o.home + r.srcOff) r.srcLen)
        let e := s.writeErr (d.home + r.dstOff) r.dstLen
        if e != 0 then answer s code m e else answer (s.wr (d.home + r.dstOff) out) code m Code.OK
    | _, _ => answer s code m Code.BAD_HANDLE)

def execMemEncode (m : MCmd) (s : State) : Host.Outcome State Fault Refusal := .next (memEncode m s)

end Sys2Proof.Machine
end

