-- ==== Sys2Proof/Machine/ObsCmds.lean ====
section
/-! DEFINITION. The counter, freeze, log and tensor-watch commands of the mailbox (R516 to R537, R574). -/

namespace Sys2Proof.Machine

/-! ## Programmable counters (R520 to R522) -/

/-- Selects of a cnt.config payload. -/
def cfgCount (p : List Byte) : Nat := fld p 0 20 10

/-- First field of a cnt.config payload that is reserved, or holds a reserved code. -/
def cfgBad (p : List Byte) : Option Nat :=
  let n := cfgCount p
  match firstBit p ((0, 63, 32) :: (List.range n).flatMap (fun i => [(8 + 16 * i, 47, 44), (16 + 16 * i, 63, 32)])) with
  | some b => some b
  | none =>
    if 1024 < fld p 0 9 0 + n then some 10
    else if fld p 0 26 25 = 3 then some 25
    else if 16 < fld p 0 31 27 then some 27
    else (List.range n).findSome? (fun i =>
      if fld p (8 + 16 * i) 41 40 = 0 then some (64 + 128 * i + 40)
      else if fld p (8 + 16 * i) 43 42 = 3 then some (64 + 128 * i + 42) else none)

/-- The counter a select sets up, at 0 (R520, R521). -/
def selectOf (p : List Byte) (i : Nat) : ProgCnt :=
  let w := u64At p (8 + 16 * i)
  { code := bits w 15 0, unit := bits w 31 16, sub := bits w 39 32, ctxMask := bits w 41 40, mode := bits w 43 42,
    threshold := bits w 63 48 + place (fld p (16 + 16 * i) 31 0) 16, used := true }

def specCntConfig : CmdSpec := { code := CmdCode.cntConfig, lenOk := fun p => p.length = 8 + 16 * cfgCount p, bad := cfgBad }

/-- CNT_CONFIG (R520 to R523, R537). -/
def cntConfig (m : MCmd) (s : State) : State :=
  startCmd specCntConfig m s (fun s =>
    let p := m.payload
    if s.obs.frozen then answer s specCntConfig.code m Code.CNT_FROZEN
    else
      let lo := fld p 0 9 0
      let pcs : Vector ProgCnt 1024 := Vector.ofFn (fun i =>
        if lo ≤ i.val && i.val < lo + cfgCount p then selectOf p (i.val - lo) else s.obs.pcs.get i)
      answer { s with obs := { s.obs with pcs := pcs, freezeOn := fld p 0 24 21, scope := fld p 0 26 25, logShift := fld p 0 31 27 } }
        specCntConfig.code m Code.OK)

def execCntConfig (m : MCmd) (s : State) : Host.Outcome State Fault Refusal := .next (cntConfig m s)

def specCntCatalog : CmdSpec := { code := CmdCode.cntCatalog }

/-- CNT_CATALOG (R517, R574): the codes are the implementation's (DESIGN CHOICE, log entry 9). -/
def execCntCatalog (m : MCmd) (s : State) : Host.Outcome State Fault Refusal :=
  .next (startCmd specCntCatalog m s (fun s => answerOut s specCntCatalog.code m Config.eventCatalog))

/-! ## Freeze and snapshot (R523 to R529) -/

def specCntFreeze : CmdSpec := { code := CmdCode.cntFreeze }

/-- CNT_FREEZE (R523, R524). -/
def execCntFreeze (m : MCmd) (s : State) : Host.Outcome State Fault Refusal :=
  .next (startCmd specCntFreeze m s (fun s => answer (localFreeze s 0) specCntFreeze.code m Code.OK))

def specCntRelease : CmdSpec := { code := CmdCode.cntRelease }

/-- CNT_RELEASE (R528). -/
def execCntRelease (m : MCmd) (s : State) : Host.Outcome State Fault Refusal :=
  .next (startCmd specCntRelease m s (fun s =>
    answer { s with obs := { s.obs with frozen := false } } specCntRelease.code m Code.OK))

/-- Codes from one to another. -/
def codeSpan (lo hi : Nat) : List Nat := (List.range (hi + 1 - lo)).map (lo + ·)

/-- What a counter of R517 is kept for. -/
inductive CntPer where
  | engine
  | cluster
  | clusterCtx
  | slice
  | channel
  | port
  | half
  | hub
  | stream
  | device
  deriving DecidableEq, Repr

/-- The always-on counters of R517, in ascending code, with what each is kept for. -/
def alwaysOn : List (Nat × CntPer) :=
  (codeSpan 0x0100 0x010E).map (·, .engine) ++ (codeSpan 0x0200 0x0203).map (·, .cluster) ++
  (codeSpan 0x0204 0x020B).map (·, .clusterCtx) ++ (codeSpan 0x0300 0x0308).map (·, .clusterCtx) ++
  (codeSpan 0x0310 0x0316).map (·, .clusterCtx) ++ [(0x0317, .cluster)] ++ (codeSpan 0x0318 0x031A).map (·, .clusterCtx) ++
  (codeSpan 0x0320 0x0324).map (·, .cluster) ++ (codeSpan 0x0328 0x032C).map (·, .cluster) ++
  (codeSpan 0x0400 0x0407).map (·, .cluster) ++ (codeSpan 0x0500 0x0502).map (·, .cluster) ++
  (codeSpan 0x0600 0x0603).map (·, .slice) ++ (codeSpan 0x0700 0x070A).map (·, .channel) ++
  (codeSpan 0x0800 0x0802).map (·, .port) ++ (codeSpan 0x0808 0x081A).map (·, .port) ++
  (codeSpan 0x0900 0x0902).map (·, .half) ++ (codeSpan 0x0A00 0x0A01).map (·, .channel) ++
  (codeSpan 0x0B00 0x0B03).map (·, .hub) ++ (codeSpan 0x0B10 0x0B13).map (·, .stream) ++
  (codeSpan 0x0C00 0x0C09).map (·, .device)

/-- Clusters and channels the part carries: those not absent by fuse (R529). -/
def State.clustersHere (s : State) : List Nat := ((List.finRange 40).filter (fun c => !(s.clusters.get c).absent)).map (·.val)
def State.chansHere (s : State) : List Nat := ((List.finRange 256).filter (fun c => !(s.mem.chans.get c).absent)).map (·.val)

/-- The counters of one code, by unit, then engine, then context (R529). -/
def State.keysOf (s : State) (code : Nat) : CntPer → List CntKey
  | .engine => s.clustersHere.flatMap (fun c => (List.range 16).map (fun e => ({ code := code, unit := c, sub := e } : CntKey)))
  | .cluster => s.clustersHere.map (fun c => { code := code, unit := c })
  | .clusterCtx => s.clustersHere.flatMap (fun c =>
      [({ code := code, unit := c, ctx := some Ctx.j0 } : CntKey), { code := code, unit := c, ctx := some Ctx.j1 }])
  | .slice => (List.range 64).map (fun u => { code := code, unit := u })
  | .channel => s.chansHere.map (fun u => { code := code, unit := u })
  | .port => (List.range 12).map (fun u => { code := code, unit := u })
  | .half => (List.range 2).map (fun u => { code := code, unit := u })
  | .hub => (List.range 2).map (fun u => { code := code, unit := u })
  | .stream => (List.range 64).map (fun u => { code := code, unit := u })
  | .device => [{ code := code }]

/-- Every always-on counter of the part, in the order of R529. -/
def State.counterKeys (s : State) : List CntKey := alwaysOn.flatMap (fun c => s.keysOf c.1 c.2)

/-- The values of a snapshot in that order. -/
def State.snapValues (s : State) (p : Snapshot) : List (BitVec 64) := s.counterKeys.map (getCount p.counters)

/-- Word 0x00 of a snapshot's header (R529). -/
def Snapshot.word0 (p : Snapshot) : Nat :=
  p.freezeId % 2 ^ 32 + place (p.origin % 65536) 32 + place (p.cause % 8) 48 + place (b2n p.frozen) 51

/-- A snapshot as cnt.snapshot returns it (R529). -/
def State.snapBytes (s : State) (p : Snapshot) : List Byte :=
  let vs := s.snapValues p
  toBytes 8 p.word0 ++ toBytes 8 p.latchTs ++ toBytes 8 (p.beatJ0 % 2 ^ 48) ++ toBytes 8 (p.beatJ1 % 2 ^ 48) ++
    toBytes 8 (vs.length % 2 ^ 32) ++ List.replicate 24 0 ++ vs.flatMap (fun v => toBytes 8 v.toNat)

def specCntSnapshot : CmdSpec := { code := CmdCode.cntSnapshot }

/-- CNT_SNAPSHOT (R529): the snapshot of the freeze, or a new one outside a freeze. -/
def cntSnapshot (m : MCmd) (s : State) : State :=
  startCmd specCntSnapshot m s (fun s =>
    let fresh := latch s 0 s.ident.devNum 0 false
    let p := if s.obs.frozen then s.obs.snap.getD fresh else fresh
    answerOut { s with obs := { s.obs with snap := some p } } specCntSnapshot.code m (s.snapBytes p))

def execCntSnapshot (m : MCmd) (s : State) : Host.Outcome State Fault Refusal := .next (cntSnapshot m s)

/-! ## Event logs (R537) -/

/-- The 32 bytes of a log entry (R537). -/
def LogEntry.bytes (e : LogEntry) : List Byte :=
  toBytes 8 e.ts ++ toBytes 8 (e.srcDev % 65536 + place (e.dstDev % 65536) 16 + place (e.cls % 8) 32 + place (e.port % 16) 35 +
    place (e.kind % 4) 39) ++ toBytes 8 (e.flowEpoch % 256 + place (e.seqNum % 2 ^ 32) 8) ++ toBytes 8 0

def specCntLogRead : CmdSpec := { code := CmdCode.cntLogRead, lenOk := lenIs 8, bad := fun p => firstBit p [(0, 63, 1)] }

/-- CNT_LOG_READ (R537): oldest entry first. -/
def cntLogRead (m : MCmd) (s : State) : State :=
  startCmd specCntLogRead m s (fun s =>
    let die : Fin 2 := if bit (fld m.payload 0 0 0) 0 then 1 else 0
    answerOut s specCntLogRead.code m ((s.obs.logs.get die).reverse.flatMap LogEntry.bytes))

def execCntLogRead (m : MCmd) (s : State) : Host.Outcome State Fault Refusal := .next (cntLogRead m s)

/-! ## Tensor watches (R530 to R532, R574) -/

/-- The watch a record defines (R530). -/
def watchOf (p : List Byte) : Watch :=
  let w := u64At p 0
  { ctx := if bit w 6 then .j1 else .j0, stats := bit w 7, digest := bit w 8, fmt := bits w 13 9, cluster := bits w 19 14,
    descIdx := bits w 25 20, every := bits w 33 26, allDesc := bit w 34, base := fld p 8 21 0, len := 8 * fld p 8 43 22,
    ringAddr := fld p 16 47 0, ringEntries := fld p 16 58 48 }

/-- First field of a watch record that R530 forbids. -/
def watchBad (p : List Byte) : Option Nat :=
  let w := watchOf p
  match firstBit p [(0, 63, 35), (8, 63, 44), (16, 63, 59), (24, 63, 0)] with
  | some b => some b
  | none =>
    if !w.stats && !w.digest then some 7
    else if w.stats && 4 < w.fmt then some 9
    else if 39 < w.cluster then some 14
    else if w.every = 0 then some 26
    else if w.len = 0 || 0x400000 < w.len then some 86
    else if w.ringEntries < 2 then some 176
    else none

/-- What a watch's ring breaks of R530: it lies in a tier 2 object that the context owns. -/
def State.ringErr (s : State) (w : Watch) : Nat :=
  let n := 128 * w.ringEntries
  match s.objAt w.ringAddr with
  | none => Code.OWN_FAULT
  | some o =>
    if o.tier != 2 || o.home + o.size < w.ringAddr + n then Code.OWN_FAULT
    else if o.comp then Code.COMP_ACCESS
    else s.accessErr (s.party w.ctx) w.ringAddr n

/-- One watch changed. -/
def State.setWatch (s : State) (id : Nat) (w : Option Watch) : State :=
  if h : id < 64 then { s with obs := { s.obs with watches := upd s.obs.watches ⟨id, h⟩ (fun _ => w) } } else s

/-- A watch, when it is defined. -/
def State.watch? (s : State) (id : Nat) : Option Watch := s.obs.watches.toList.getD id none

def specHenWatch : CmdSpec := { code := CmdCode.henWatch, lenOk := lenIs 32, foal := fun _ _ => false, v3 := true, bad := watchBad }

/-- HEN_WATCH (R530). -/
def henWatch (m : MCmd) (s : State) : State :=
  startCmd specHenWatch m s (fun s =>
    let w := watchOf m.payload
    let id := fld m.payload 0 5 0
    if !(s.jobs.get w.ctx).isOpen then answer s specHenWatch.code m Code.NO_JOB
    else if (s.watch? id).isSome then answer s specHenWatch.code m Code.WATCH_BUSY
    else if s.ringErr w != 0 then answer s specHenWatch.code m (s.ringErr w)
    else answer (s.setWatch id (some w)) specHenWatch.code m Code.OK)

def execHenWatch (m : MCmd) (s : State) : Host.Outcome State Fault Refusal := .next (henWatch m s)

def specHenRelease : CmdSpec := {
  code := CmdCode.henRelease, lenOk := lenIs 8, foal := fun _ _ => false, v3 := true, bad := fun p => firstBit p [(0, 63, 17)] }

/-- HEN_RELEASE (R532): no more records than the ring holds can be returned (DEDUCED, log entry 44). -/
def henRelease (m : MCmd) (s : State) : State :=
  startCmd specHenRelease m s (fun s =>
    let id := fld m.payload 0 5 0
    let n := fld m.payload 0 16 6
    match s.watch? id with
    | none => badField s specHenRelease.code m 0
    | some w =>
      if w.held < n then badField s specHenRelease.code m 6
      else answer (s.setWatch id (some { w with held := w.held - n })) specHenRelease.code m Code.OK)

def execHenRelease (m : MCmd) (s : State) : Host.Outcome State Fault Refusal := .next (henRelease m s)

def specHenUnwatch : CmdSpec := {
  code := CmdCode.henUnwatch, lenOk := lenIs 8, foal := fun _ _ => false, v3 := true, bad := fun p => firstBit p [(0, 63, 6)] }

/-- HEN_UNWATCH (R574). -/
def henUnwatch (m : MCmd) (s : State) : State :=
  startCmd specHenUnwatch m s (fun s =>
    let id := fld m.payload 0 5 0
    match s.watch? id with
    | none => badField s specHenUnwatch.code m 0
    | some _ => answer (s.setWatch id none) specHenUnwatch.code m Code.OK)

def execHenUnwatch (m : MCmd) (s : State) : Host.Outcome State Fault Refusal := .next (henUnwatch m s)

end Sys2Proof.Machine
end

