-- ==== Sys2Proof/Machine/Ox.lean ====
section
/-! DEFINITION. The Ox units: the update of one element, an update's layout, its record and its progress by granules
(R418 to R431). -/

namespace Sys2Proof.Machine

/-! ## One element (R421) -/

/-- Constants of an update in the record's order: B1, A1, B2, A2, C1, C2, Eps, Wd, Lr, GradScale. -/
def oxConst (cs : List Nat) (i : Nat) : Nat := cs.getD i 0

/-- A NaN in an FP32 code. -/
def isNan32 (c : Nat) : Bool := (FF.fp32.decode c).isNan

/-- The new p, m and v of an element with gradient g. A NaN in any of the four makes all three NaN (R60, DEDUCED, log entry 37). -/
def oxElem (cs : List Nat) (g p m v : Nat) : Nat × Nat × Nat :=
  if isNan32 g || isNan32 p || isNan32 m || isNan32 v then (FF.fp32.nanCode, FF.fp32.nanCode, FF.fp32.nanCode)
  else
    let k := oxConst cs
    let g1 := f32Mul g (k 9)
    let m := f32Fma (k 0) m (f32Mul g1 (k 1))
    let v := f32Fma (k 2) v (f32Mul (f32Mul g1 g1) (k 3))
    let mh := f32Mul m (k 4)
    let vh := f32Mul v (k 5)
    let sq := if vh = 0 then 0 else f32Mul vh (sfuRsqrt vh)
    let u := f32Mul mh (sfuRecip (f32Add sq (k 6)))
    let u2 := f32Fma (k 7) p u
    (f32Fma (k 8 ^^^ 0x80000000) u2 p, m, v)

/-- Byte offset of element i in the Work plane of a half of n channels (R424). -/
def workOffset (n i : Nat) : Nat :=
  let f := i / 64
  let t := f / (2 * n)
  let r := f % (2 * n)
  256 * (t * n + r % n) + 128 * (r / n) + 2 * (i % 64)

/-! ## Planes (R423) -/

/-- Interleave index, half, and offset within the slab of a device-local HBM address (R275). -/
def State.slabOf (s : State) (a : Nat) : Option (Nat × Nat × Nat) :=
  let s0 := s.slabSize 0
  let pair := s0 + s.slabSize 1
  if pair = 0 || 32 * pair ≤ a then none
  else if a % pair < s0 then some (a / pair, 0, a % pair) else some (a / pair, 1, a % pair - s0)

/-- Planes of a run with their lengths. -/
def OxRun.planes (r : OxRun) : List (Nat × Nat) :=
  [(r.master, 4 * r.elems), (r.m1, 4 * r.elems), (r.m2, 4 * r.elems), (r.grad, 4 * r.elems)] ++
    (if r.workEn then [(r.work, 2 * r.elems)] else [])

/-- No two ranges of a list overlap. -/
def disjointRanges : List (Nat × Nat) → Bool
  | [] => true
  | r :: rs => rs.all (fun q => r.1 + r.2 ≤ q.1 || q.1 + q.2 ≤ r.1) && disjointRanges rs

/-- The layout rules of R423 but for the objects' owner and Comp, which R426 reports under names of their own. -/
def State.oxLayout (s : State) (r : OxRun) : Bool :=
  let n := (s.listOf r.half).length
  let off (a : Nat) : Nat := match s.slabOf a with | some q => q.2.2 % (n * 256) | none => 0
  n != 0 && r.elems % (128 * n) = 0 && disjointRanges r.planes &&
    r.planes.all (fun p =>
      (match s.slabOf p.1 with
       | some (_, h, o) => h = r.half && o + p.2 ≤ s.slabSize h && o % (n * 256) = off r.master
       | none => false) &&
      (s.objsAt p.1 p.2).all (fun o => o.tier = 2 && !o.f2) && !(s.objsAt p.1 (max 1 p.2)).isEmpty)

/-- Channels of a half whose Ox units take part: privileged and in service (R422, R426). -/
def State.oxChans (s : State) (h : Nat) : List Chan :=
  (s.listOf h).filter (fun ch => let k := s.mem.chans.get ch; k.privileged && !k.fenced && !k.oxFenced)

/-- The first status and address that the planes' owner check gives (R426): 0 for none. -/
def State.oxOwn (s : State) (r : OxRun) : Nat × Nat :=
  let bad (p : Nat × Nat) : Nat :=
    let o := (s.objsAt p.1 p.2).find? (fun o => o.owner != ctxNo r.ctx)
    if o.isSome || s.access (s.party r.ctx) p.1 p.2 != .ok then Code.OWN_FAULT
    else if (s.objsAt p.1 p.2).any (·.comp) then Code.COMP_ACCESS else 0
  match r.planes.find? (fun p => bad p != 0) with
  | some p => (bad p, p.1)
  | none => (0, 0)

/-! ## A run's turns -/

/-- An Ox record of a channel changed. -/
def updOx (s : State) (ch : Chan) (x : Ctx) (f : OxRec → OxRec) : State := s.updChan ch (fun k => { k with ox := k.ox.set x (f (k.ox.get x)) })

/-- A run with a step number other than that of a failed run that is incomplete (R429). -/
def State.oxBlocked (s : State) (x : Ctx) (step : Nat) : Bool :=
  s.mem.chans.toList.any (fun k => let r := k.ox.get x; r.incomplete && r.step != step)

/-- Granules of each channel. -/
def State.oxTotal (s : State) (r : OxRun) : Nat := r.elems / 64 / max 1 (s.listOf r.half).length

/-- A run ends: its record is cleared when every channel completed, and its command completes. -/
def endOx (s : State) (r : OxRun) : State :=
  let s := { s with mem := { s.mem with oxRuns := s.mem.oxRuns.filter (fun q => q.key != r.key) } }
  let s := if r.failed.isSome then s
    else (List.finRange 256).foldl (fun s ch =>
      if ch.val / 128 = r.half then updOx s ch r.ctx (fun o => if o.step = r.step then { o with incomplete := false } else o) else s) s
  completeLater s CmdCode.oxRun r.key (r.failed.getD Code.OK)

/-- A run takes up its units: each channel resumes where a failed run of the same step left it, or begins at granule 0. -/
def beginOx (s : State) (r : OxRun) : State :=
  if s.oxBlocked r.ctx r.step then endOx s { r with failed := some Code.OX_INCOMPLETE }
  else
    let chs := s.oxChans r.half
    let s := chs.foldl (fun s ch => updOx s ch r.ctx (fun o =>
      if o.incomplete then o else { step := r.step, next := 0, incomplete := true })) s
    let left := (chs.filter (fun ch => ((s.mem.chans.get ch).ox.get r.ctx).next < s.oxTotal r)).map (·.val)
    let r := { r with begun := true, chans := left }
    let s := { s with mem := { s.mem with oxRuns := s.mem.oxRuns.map (fun q => if q.key = r.key then r else q) } }
    if left.isEmpty then endOx s r else s

/-- The next run of a context whose turn has come begins. The fuel bounds the runs that wait. -/
def nextOx (x : Ctx) : Nat → State → State
  | 0, s => s
  | n + 1, s =>
    match s.mem.oxRuns.find? (fun r => r.ctx = x) with
    | none => s
    | some r => if r.begun then s else nextOx x n (beginOx s r)

/-- A unit has nothing more to do in a run; the run ends with its last unit. -/
def leaveOx (s : State) (r : OxRun) (ch : Chan) (fail : Option Nat) : State :=
  let r := { r with chans := r.chans.filter (· != ch.val), failed := if r.failed.isSome then r.failed else fail }
  let s := { s with mem := { s.mem with oxRuns := s.mem.oxRuns.map (fun q => if q.key = r.key then r else q) } }
  if r.chans.isEmpty then nextOx r.ctx (s.mem.oxRuns.length + 1) (endOx s r) else s

/-! ## OX_GRANULE (R427, R428, R431) -/

/-- First granule of a channel's set: the position of the channel after that of the planes' start (R423). -/
def State.oxFirst (s : State) (r : OxRun) (ch : Chan) : Nat :=
  let l := s.listOf r.half
  let n := max 1 l.length
  let start := match s.slabOf r.master with | some q => q.2.2 / 256 % n | none => 0
  (l.findIdx (· = ch) + n - start) % n

/-- The elements of one 64-element run updated and written: the planes' new bytes, and the elements counted as NaN. -/
def oxWrite (s : State) (r : OxRun) (ch : Chan) (f : Nat) : State :=
  let n := max 1 (s.listOf r.half).length
  let word (p i : Nat) : Nat := ofBytes (s.rd (p + 4 * (64 * f + i)) 4)
  let el := (List.range 64).map (fun i => oxElem r.consts (word r.grad i) (word r.master i) (word r.m1 i) (word r.m2 i))
  let nans := ((List.range 64).filter (fun i =>
    isNan32 (word r.grad i) || isNan32 (word r.master i) || isNan32 (word r.m1 i) || isNan32 (word r.m2 i))).length
  let md (i : Nat) : Rnd :=
    if r.rnd = 1 then .sr (srRnd (s.jobs.get r.ctx).seed (srW1 r.step 0xFFFF r.ctx 0) (srW2Ox (r.idxBase + (64 * f + i)))) else .rne
  let work := (el.zipIdx).flatMap (fun (e, i) => toBytes 2 (convF32 .bf16 (md i) r.sat e.1).1)
  let s := s.wr (r.master + 256 * f) (el.flatMap (fun e => toBytes 4 e.1))
  let s := s.wr (r.m1 + 256 * f) (el.flatMap (fun e => toBytes 4 e.2.1))
  let s := s.wr (r.m2 + 256 * f) (el.flatMap (fun e => toBytes 4 e.2.2))
  let s := if r.workEn then s.wr (r.work + workOffset n (64 * f)) work else s
  s.updJob r.ctx (fun j => { j with updateStarted := true }) |> (fun s => bump s { code := Cnt.OXU_NAN, unit := ch.val } nans)

/-- An object that holds a byte of a plane is pinned (R428). -/
def State.oxPinned (s : State) (r : OxRun) : Bool := r.planes.any (fun p => (s.objsAt p.1 p.2).any (fun o => o.pins != 0))

/-- Ranges a granule reads. -/
def OxRun.reads (r : OxRun) (f : Nat) : List (Nat × Nat) := [r.master, r.m1, r.m2, r.grad].map (fun p => (p + 256 * f, 256))

/-- Ranges a granule writes. -/
def OxRun.writes (r : OxRun) (n f : Nat) : List (Nat × Nat) :=
  [r.master, r.m1, r.m2].map (fun p => (p + 256 * f, 256)) ++ (if r.workEn then [(r.work + workOffset n (64 * f), 128)] else [])

/-- An Ox unit as a unit (R483). -/
def oxUnit (ch : Chan) : UnitId := { cls := 0xA, unit := ch.val }

/-- A granule of a run whose turn has come. -/
def oxStep (s : State) (r : OxRun) (ch : Chan) (fails : Nat) : State :=
  let k := s.mem.chans.get ch
  let n := max 1 (s.listOf r.half).length
  let g := (k.ox.get r.ctx).next
  let f := s.oxFirst r ch + g * n
  let acc := (r.reads f ++ r.writes n f).foldl (fun a p => a.and (s.access (s.party r.ctx) p.1 p.2)) Access.ok
  if k.fenced then leaveOx s r ch (some Code.HBM_FENCED)
  else if k.oxFenced then leaveOx s r ch (some Code.CHECK_FAIL)
  else if s.oxPinned r then s
  else
    match acc with
    | .hold => s
    | .fail st => leaveOx s r ch (some st)
    | .ok =>
      match (r.reads f).find? (fun p => s.poisoned p.1 p.2) with
      | some p =>
        let bad := ((wordsOf p.1 p.2).filter s.badWord).length
        leaveOx (bump s { code := Cnt.HBM_POISON_READ, unit := ch.val } bad) r ch (some Code.HBM_UE)
      | none =>
        if 2 ≤ fails then
          let s := raiseCtx s Code.CHECK_FAIL (some r.ctx) (oxUnit ch) (s.jobs.get r.ctx).beat (r.master + 256 * f)
          let s := charge s (oxUnit ch) { severity := 0, eventCode := 0x0105, unitClass := 0xA, beatNum := (s.jobs.get r.ctx).beat,
                                          stepNum := r.step, detail := workDetail 0 0 0 f 0 0 0 0 }
          leaveOx s r ch (some Code.CHECK_FAIL)
        else
          let s := oxWrite s r ch f
          let s := touchChan (bump (bump s { code := Cnt.OXU_GRANULES, unit := ch.val }) { code := Cnt.OX_GRANULES, unit := ch.val }) ch
          let s := updOx s ch r.ctx (fun o => { o with next := g + 1 })
          if s.oxTotal r ≤ g + 1 then leaveOx s r ch none else s

/-- OX_GRANULE: the oldest run that has work on the channel. `fails` is how many times its residue checks fail. -/
def oxGranule (ch : Chan) (fails : Nat) (s : State) : State :=
  match s.mem.oxRuns.find? (fun r => r.begun && r.trig.isNone && r.chans.contains ch.val) with
  | none => s
  | some r => oxStep s r ch fails

def execOxGranule (ch : Chan) (fails : Nat) (s : State) : Host.Outcome State Fault Refusal := .next (oxGranule ch fails s)

/-! ## Commands (R422, R425, R426, R429) -/

def specOxDesignate : CmdSpec := { code := CmdCode.oxDesignate, lenOk := lenIs 32, foal := fun _ _ => false, feature := some 1 }

/-- OX_DESIGNATE (R422): lines of newly privileged channels leave the last-level memory, dirty ones written back. -/
def oxDesignate (m : MCmd) (s : State) : State :=
  startCmd specOxDesignate m s (fun s =>
    let mask := ofBytes (slice m.payload 0 32)
    let named := (List.finRange 256).filter (fun ch => bit mask ch.val)
    if s.jobs.j0.isOpen || s.jobs.j1.isOpen then answer s specOxDesignate.code m Code.JOB_OPEN
    else if 32 < named.length then answer s specOxDesignate.code m Code.OX_TOO_MANY
    else if named.any (fun ch => (s.mem.chans.get ch).fenced || (s.mem.chans.get ch).absent) then answer s specOxDesignate.code m Code.HBM_FENCED
    else
      let fresh (l : LlmLine) : Bool := match s.locate (256 * l.gran) with
        | some q => bit mask q.ch.val && !(s.mem.chans.get q.ch).privileged
        | none => false
      let s := (List.finRange 64).foldl (fun s sl =>
        bump s { code := Cnt.LLM_WRITEBACK, unit := sl.val } ((s.mem.llm.slices.get sl).filter (fun l => fresh l && l.dirty)).length) s
      let slices := s.mem.llm.slices.map (fun v => v.filter (fun l => !fresh l))
      let chans := Vector.ofFn (fun ch : Chan => { s.mem.chans.get ch with privileged := bit mask ch.val })
      answer { s with mem := { s.mem with llm := { s.mem.llm with slices := slices }, chans := chans } } specOxDesignate.code m Code.OK)

def execOxDesignate (m : MCmd) (s : State) : Host.Outcome State Fault Refusal := .next (oxDesignate m s)

/-- Reserved fields and codes of the record of R425. -/
def oxBad (p : List Byte) : Option Nat :=
  let rnd := fld p 0x20 50 49
  let trig := fld p 0x38 49 48
  match firstBit p [(0x00, 63, 48), (0x08, 63, 48), (0x10, 63, 48), (0x18, 63, 48)] with
  | some b => some b
  | none =>
    if !bit (fld p 0x20 48 48) 0 && fld p 0x20 47 0 != 0 then some (8 * 0x20)
    else if 2 ≤ rnd then some (8 * 0x20 + 49)
    else
      match firstBit p [(0x20, 63, 52), (0x28, 63, 40)] with
      | some b => some b
      | none =>
        if 2 ≤ trig then some (8 * 0x38 + 48)
        else firstBit p [(0x38, 63, 56), (0x40, 63, 32), (0x70, 63, 0), (0x78, 63, 0)]

def specOxRun : CmdSpec :=
  { code := CmdCode.oxRun, lenOk := lenIs 128, bad := oxBad, foal := fun _ _ => false, feature := some 1, ctx := true }

/-- The run a record describes. -/
def oxRunOf (s : State) (m : MCmd) : OxRun :=
  let p := m.payload
  let x := m.jobCtx
  let tg := fld p 0x38 55 50
  let ti := fld p 0x40 31 0
  let done : Bool := match (s.coll.groups.get x).find? (fun g => g.id = tg) with | some g => g.doneInsts.contains ti | none => false
  { ctx := x, key := (s.mem.oxRuns.map (·.key)).foldl max 0 + 1, master := fld p 0 47 0, m1 := fld p 8 47 0, m2 := fld p 0x10 47 0,
    grad := fld p 0x18 47 0, work := fld p 0x20 47 0, workEn := bit (fld p 0x20 48 48) 0, rnd := fld p 0x20 50 49, sat := bit (fld p 0x20 51 51) 0,
    elems := fld p 0x28 39 0, idxBase := u64At p 0x30, step := fld p 0x38 47 0,
    consts := (List.range 10).map (fun i => u32At p (0x48 + 4 * i)),
    trig := if fld p 0x38 49 48 = 1 && !done then some (tg, ti) else none,
    half := match s.slabOf (fld p 0 47 0) with | some q => q.2.1 | none => 0 }

/-- OX_RUN (R425, R426, R429). -/
def oxRun (m : MCmd) (s : State) : State :=
  startCmd specOxRun m s (fun s =>
    let r := oxRunOf s m
    let own := s.oxOwn r
    if !s.oxLayout r then answer s specOxRun.code m Code.OX_LAYOUT
    else if (s.oxChans r.half).isEmpty then answer s specOxRun.code m Code.OX_NONE
    else if own.1 = Code.OWN_FAULT then
      answer s specOxRun.code m Code.OWN_FAULT own.2 (((s.objAt own.2).map Obj.handle).getD 0)
    else if own.1 != 0 then answer s specOxRun.code m own.1
    else if !s.mem.oxRuns.any (fun q => q.ctx = r.ctx) && s.oxBlocked r.ctx r.step then answer s specOxRun.code m Code.OX_INCOMPLETE
    else
      let s := s.updJob r.ctx (fun j => { j with masterPlanes := (r.master, 4 * r.elems) :: j.masterPlanes.filter (· != (r.master, 4 * r.elems)) })
      let s := startLater { s with mem := { s.mem with oxRuns := s.mem.oxRuns ++ [r] } } specOxRun.code m r.key
      nextOx r.ctx (s.mem.oxRuns.length + 1) s)

def execOxRun (m : MCmd) (s : State) : Host.Outcome State Fault Refusal := .next (oxRun m s)

def specOxQuery : CmdSpec := { code := CmdCode.oxQuery, foal := fun _ _ => false, feature := some 1, ctx := true }

/-- OX_QUERY (R429): for each channel in ascending flat index its StepNum and resume granule, 8 bytes each (DESIGN CHOICE, log entry 36). -/
def oxQuery (m : MCmd) (s : State) : State :=
  startCmd specOxQuery m s (fun s =>
    answerOut s specOxQuery.code m (s.mem.chans.toList.flatMap (fun k =>
      let r := k.ox.get m.jobCtx
      toBytes 8 r.step ++ toBytes 8 r.next)))

def execOxQuery (m : MCmd) (s : State) : Host.Outcome State Fault Refusal := .next (oxQuery m s)

end Sys2Proof.Machine
end

