-- ==== Sys2Proof/Machine/Goose.lean ====
section
/-! DEFINITION. Goose: local replays, the buddy referee, device-fatal faults and in-field tests (R444 to R478). -/

namespace Sys2Proof.Machine

/-! ## Device-fatal faults (R470) -/

/-- A device-fatal fault: no commit any more, a fatal record, with the event where the fault has one, FAULT# low; heartbeats
stop, since a fatal device sends none. -/
def deviceFatal (s : State) (event : Nat) (ev : Option Nat) : State :=
  let s := { s with goose := { s.goose with stopCommits := true }, sys := { s.sys with fatal := true, service := .fatal } }
  let r : FaultRec := { severity := 1, eventCode := event, unitClass := 0xC, action := 7, flags := 2 }
  let s := match ev with
    | some code => raiseRec s { code := code, unit := { cls := 0xC } } 0 0 r
    | none => (logRec s r).1
  { s with pins := { s.pins with faultLow := true } }

/-- GOOSE_FAIL (R445). -/
def execGooseFail (s : State) : Host.Outcome State Fault Refusal := .next (deviceFatal s 0x0601 (some Code.GOOSE_FAIL))

/-- MULE_SRAM_UE (R470). -/
def execMuleSramUe (s : State) : Host.Outcome State Fault Refusal := .next (deviceFatal s 0x0601 none)

/-! ## LOCAL_REPLAY (R454, R457) -/

/-- An item of Goose. -/
def State.item? (s : State) (id : Nat) : Option WorkItem := s.goose.items.find? (·.id = id)

/-- Capture buffers in use, of two: from a replay's start until its item is resolved (R457). -/
def State.captures (s : State) : Nat :=
  (s.goose.items.filter (fun w => match w.st with
    | .replaying => true
    | .replayed => true
    | .escalated _ _ _ => true
    | _ => false)).length

/-- Nothing of an item's replay is left in the cluster. -/
def State.replayGone (s : State) (w : WorkItem) : Bool :=
  let k := s.clusters.get w.cluster
  !k.engines.toList.any (fun e => e.queue.any (fun q => q.replay = some w.id) || e.tokens.any (fun t => t.replay = some w.id)) &&
    !k.threads.toList.any (fun t => t.active && t.replay = some w.id)

/-- The original of an item has ended: its token or VEND has come, or its unit is fenced and holds nothing of it. -/
def State.originalEnded (s : State) (w : WorkItem) : Bool :=
  match w.kind with
  | .group =>
    (match s.group? w.cluster w.ctx w.desc w.ord with | some g => g.done | none => false) ||
      !(s.clusters.get w.cluster).engines.toList.any (fun e =>
        e.queue.any (fun q => q.replay.isNone && q.ctx = w.ctx && q.desc = w.desc && q.group = w.ord) ||
        e.tokens.any (fun t => t.replay.isNone && t.ctx = w.ctx && t.desc = w.desc && t.group = w.ord))
  | .launch => w.launch.isSome
  | .attStep => true

/-- An engine in service. -/
def State.engineUp (s : State) (c : Cl) (e : En) : Bool :=
  let k := (s.clusters.get c).engines.get e
  !k.fenced && k.stopped.isNone

/-- An engine stands between two groups: the group at the head of its queue has not started. -/
def State.atBoundary (s : State) (c : Cl) (e : En) : Bool :=
  match ((s.clusters.get c).engines.get e).queue with
  | [] => true
  | q :: _ => q.replay.isNone && (match s.group? c q.ctx q.desc q.group with | some g => !g.started && !g.done | none => false)

/-- The engine a group's replay goes to (R454): the lowest-numbered idle one other than the failing engine, else the one
that next stands between groups; the failing engine only where no other is in service. -/
def State.replayEngine (s : State) (w : WorkItem) : Option En :=
  let c := w.cluster
  let up := (List.finRange 16).filter (s.engineUp c)
  let others := up.filter (fun e => engineUnit c e != w.failing)
  let use := if others.isEmpty then up else others
  match use.find? (fun e => ((s.clusters.get c).engines.get e).idle && s.unstarted c e = 0) with
  | some e => some e
  | none => use.find? (s.atBoundary c)

/-- A group is placed on an engine for a replay: behind the stores and TSYNC of an idle engine, otherwise at the head, the
groups behind it issued again (R89, R117). -/
def placeReplay (s : State) (w : WorkItem) (g : Group) (e : En) : State :=
  let c := w.cluster
  match s.cmd c w.ctx w.desc with
  | none => s
  | some cm =>
    let k := (s.clusters.get c).engines.get e
    let keep := if k.idle then k.queue else []
    let back := if k.idle then [] else k.queue
    let s := dropCopies s c e ((back.filter (fun q => q.mc != 0)).map (·.mc))
    let s := s.updEngine c e (fun k => k.reissued keep)
    let s := pushGroup s c w.ctx w.desc cm.extents e g
    let mark (q : QEntry) : QEntry := if q.ctx = w.ctx && q.desc = w.desc && q.group = w.ord then { q with replay := some w.id } else q
    let s := s.updEngine c e (fun k => { k with queue := keep ++ (k.queue.drop keep.length).map mark })
    (groupKeys back).foldl (fun s (x, d, o) =>
      match s.cmd c x d with
      | none => s
      | some cm =>
        match cm.groups.find? (·.ord = o) with
        | none => s
        | some g => pushGroup s c x d cm.extents e g) s

/-- An item's replay begins: its capture is empty, its own output starts anew. -/
def beginReplay (s : State) (w : WorkItem) (orig : List Host.Cell) : State :=
  let first : Bool := w.st == .suspect
  let s := s.updItem w.id (fun w => { w with
    st := .replaying, captureInstr := 0, captureReads := [], replayPassed := true,
    out := if first then orig else w.out, digestOrig := if first then Seen.digest orig else w.digestOrig })
  bumpC s Cnt.REPLAY_LOCAL w.cluster (some w.ctx)

/-- LOCAL_REPLAY (R454): of a suspect item whose original has ended, or of one whose replay was lost with its unit. -/
def localReplay (item : Nat) (s : State) : State :=
  match s.item? item with
  | none => s
  | some w =>
    let again : Bool := w.st == .replaying && w.kind != .attStep && s.replayGone w
    if !((w.st == .suspect && s.captures < 2) || again) || !s.clusterUp w.cluster || !s.originalEnded w then s
    else
      match w.kind with
      | .group =>
        match s.group? w.cluster w.ctx w.desc w.ord, s.replayEngine w with
        | some g, some e =>
          let s := beginReplay s w g.out
          let s := s.updGroup w.cluster w.ctx w.desc w.ord (fun g => { g with out := [] })
          placeReplay s w g e
        | some _, none =>
          if (List.finRange 16).any (s.engineUp w.cluster) then s else failCmd s w.cluster w.ctx w.desc Code.NO_ENGINE
        | none, _ => s
      | .launch =>
        match w.launch, idleThread (s.clusters.get w.cluster) with
        | some l, some t => startThread (beginReplay s w w.out) w.cluster t l (some w.id)
        | _, _ => s
      | .attStep => beginReplay s w w.out

def execLocalReplay (item : Nat) (s : State) : Host.Outcome State Fault Refusal := .next (localReplay item s)

/-! ## The end of an item (R456, R462) -/

/-- A record of an item, offered without an event of its own. -/
def logItem (s : State) (w : WorkItem) (r : FaultRec) : State :=
  (logRec s { r with unitClass := w.failing.cls, unitIndex := w.failing.unit, subIndex := w.failing.sub,
                     flags := if w.ctx = .j1 then 1 else 0 }).1

/-- An item is resolved: the replay's output stands. -/
def resolveItem (s : State) (w : WorkItem) (r : FaultRec) : State :=
  logItem (s.updItem w.id (fun w => { w with st := .resolved })) w r

/-- An item fails its beat with a status, whose event carries a record. -/
def failItem (s : State) (w : WorkItem) (status event : Nat) (ref : BitVec 64) : State :=
  let s := s.updItem w.id (fun w => { w with st := .failed status })
  let r := { itemRec s w event 0 6 with buddyDev := s.buddy w.ctx, digestRef := ref.toNat }
  let s := raiseRec s { code := status, ctx := some w.ctx, unit := w.failing } w.beat w.desc.val r
  failBeat s w.cluster w.ctx status

/-- Bytes a capture holds: the original's digest, instruction bytes, and every range the replay read (R457, DESIGN CHOICE, log entry 21). -/
def packageBytes (s : State) (w : WorkItem) : List Byte :=
  toBytes 8 w.id ++ toBytes 8 w.digestOrig.toNat ++ toBytes 8 w.captureInstr ++
    w.captureReads.flatMap (fun r => toBytes 8 r.1 ++ toBytes 8 r.2 ++
      (if 2 ^ 62 ≤ r.1 then s.rd (localOff (r.1 - 2 ^ 62)) r.2 else s.csRd w.cluster r.1 r.2))

/-- Where a package goes on the buddy: an address outside every window of its map, which reaches Goose and no memory. -/
def gooseWindow : Nat := 0xE00000000000

/-- A package is offered to the buddy as BULK WRITE packets with Ctx Mule (R459). -/
def offerPackage (s : State) (w : WorkItem) : State :=
  (writePkts 3 (s.buddy w.ctx * 2 ^ 48 + gooseWindow) (packageBytes s w)).foldl send s

/-- REPLAY_COMPLETE (R456, R457, R459). -/
def replayComplete (item : Nat) (s : State) : State :=
  match s.item? item with
  | none => s
  | some w =>
    if w.st != .replayed then s
    else if w.replayPassed && w.digestReplay = w.digestOrig && w.strikes ≤ 1 then resolveItem s w (itemRec s w 0x0101 2 2)
    else if 1048576 < w.captureBytes then failItem s w Code.REFEREE_SIZE 0x0104 0
    else
      let s := s.updItem item (fun w => { w with st := .escalated s.now s.now false })
      offerPackage (bumpC s Cnt.ESCALATIONS w.cluster (some w.ctx)) w

def execReplayComplete (item : Nat) (s : State) : Host.Outcome State Fault Refusal := .next (replayComplete item s)

/-- A strike that the referee adds (R448, R462): one per unit and item (DEDUCED, log entry 39). -/
def refereeStrike (s : State) (w : WorkItem) (u : UnitId) : State :=
  if (w.checkFailed && u = w.failing) || (!w.replayPassed && some u = w.replayUnit) then s
  else charge s u (itemRec s w 0x0105 0 4)

/-- REFEREE_RESULT (R462). -/
def refereeResult (item : Nat) (r : RefResult) (s : State) : State :=
  match s.item? item with
  | none => s
  | some w =>
    match w.st with
    | .escalated _ _ _ =>
      let rep := w.replayUnit.getD w.failing
      match r with
      | .digest d =>
        if d = w.digestReplay then
          let s := resolveItem s w { itemRec s w 0x0102 2 3 with digestRef := d.toNat, buddyDev := s.buddy w.ctx }
          if d = w.digestOrig then s else refereeStrike s w w.failing
        else if d = w.digestOrig then refereeStrike (failItem s w Code.REFEREE_DISAGREE 0x0103 d) w rep
        else refereeStrike (refereeStrike (failItem s w Code.REFEREE_DISAGREE 0x0103 d) w w.failing) w rep
      | .miss => refereeStrike (refereeStrike (failItem s w Code.REFEREE_DISAGREE 0x0103 0) w w.failing) w rep
    | _ => s

def execRefereeResult (item : Nat) (r : RefResult) (s : State) : Host.Outcome State Fault Refusal := .next (refereeResult item r s)

/-- A refusal of a package by the buddy (R461). -/
def refuseOffer (item : Nat) (s : State) : State :=
  s.updItem item (fun w => match w.st with
    | .escalated f l _ => { w with st := .escalated f l true }
    | _ => w)

/-- REFEREE_REOFFER (R461): 10 µs after a refused offer. -/
def refereeReoffer (item : Nat) (s : State) : State :=
  match s.item? item with
  | none => s
  | some w =>
    match w.st with
    | .escalated f l true =>
      if s.now < l + 10000 then s else offerPackage (s.updItem item (fun w => { w with st := .escalated f s.now false })) w
    | _ => s

def execRefereeReoffer (item : Nat) (s : State) : Host.Outcome State Fault Refusal := .next (refereeReoffer item s)

/-- An escalation ends with REFEREE_LOST. -/
def loseReferee (s : State) (w : WorkItem) : State := failItem s w Code.REFEREE_LOST 0x0104 0

/-- REFEREE_LOST (R461): no digest within RefTimeout of the first offer. -/
def refereeLost (item : Nat) (s : State) : State :=
  match s.item? item with
  | none => s
  | some w =>
    match w.st with
    | .escalated f _ _ => if s.now < f + 1000 * s.goose.policy.refTimeoutUs then s else loseReferee s w
    | _ => s

def execRefereeLost (item : Nat) (s : State) : Host.Outcome State Fault Refusal := .next (refereeLost item s)

/-! ## This device as a referee (R458 to R461) -/

/-- The referee starts the oldest waiting package when it runs none. -/
def startReferee (l : List RefPkg) : List RefPkg :=
  if l.any (·.running) then l
  else match l with
    | [] => []
    | p :: ps => { p with running := true } :: ps

/-- REFEREE_PACKAGE (R461): a package arrives; the seventeenth that would wait is refused with BUSY. -/
def refereePackage (src item : Nat) (s : State) : State :=
  if 16 ≤ (s.goose.referee.filter (fun p => !p.running)).length then send s (muleMsg src 8 [item])
  else { s with goose := { s.goose with referee := startReferee (s.goose.referee ++ [{ src := src, item := item, at_ := s.now }]) } }

def execRefereePackage (src item : Nat) (s : State) : Host.Outcome State Fault Refusal := .next (refereePackage src item s)

/-- REFEREE_RUN_END (R459, R460): the running package ends with its digest, or with REFEREE_MISS, which goes to its sender. -/
def refereeRunEnd (digest : Option (BitVec 64)) (s : State) : State :=
  match s.goose.referee.find? (·.running) with
  | none => s
  | some p =>
    let s := { s with goose := { s.goose with referee := startReferee (s.goose.referee.filter (fun q => !q.running)) } }
    let s := bump s { code := Cnt.REFEREE_SERVED }
    send s (muleMsg p.src 9 (match digest with | some d => [p.item, 1, d.toNat] | none => [p.item, 0]))

def execRefereeRunEnd (digest : Option (BitVec 64)) (s : State) : Host.Outcome State Fault Refusal := .next (refereeRunEnd digest s)

/-! ## In-field tests (R472 to R477) -/

/-- The time of a context's next boundary, when one is due. -/
def State.nextBoundary (s : State) (x : Ctx) : Option Nat :=
  let j := s.jobs.get x
  if !j.isOpen || !j.begun then none
  else match j.due with
    | d :: _ => some (d.at_.getD s.now)
    | [] => some (j.boundaryAt + j.period)

/-- Longest time of a granule, in ns (R472). -/
def granuleNs (g : Nat) : Nat := if g < 168 then 1500 else 1000

/-- The unit a granule tests: engines, VE, sequencer, store and cache in the order of R472. -/
def granuleUnit (c : Cl) (g : Nat) : UnitId :=
  if g < 128 then { cls := 1, unit := c.val, sub := g / 8 }
  else if g < 160 then veUnit c
  else if g < 168 then seqUnit c
  else if g < 424 then storeUnit c
  else { cls := 5, unit := c.val }

/-- Goose may start a granule on a cluster (R473). -/
def State.mayTest (s : State) (c : Cl) : Bool :=
  s.clusterUp c && (s.run c .j0).isNone && (s.run c .j1).isNone &&
    !s.goose.items.any (fun w => w.cluster = c && w.st == .replaying) &&
    [Ctx.j0, Ctx.j1].all (fun x => match s.nextBoundary x with
      | some t => s.now + granuleNs s.goose.testGranule + 500 ≤ t
      | none => true)

/-- What a logic granule leaves behind (R475). -/
def logicLeaves (s : State) (c : Cl) (g : Nat) : State :=
  let k := s.clusters.get c
  let gone (src : Nat) : Nat := (k.cache.filter (·.pf = src)).length
  let s := bump (bump s { code := Cnt.PF_UNUSED, unit := c.val } (gone 1)) { code := Cnt.PF_UNUSED + 8, unit := c.val } (gone 2)
  let s := s.updCluster c (fun k => { k with cache := [] })
  if h : g / 8 < 16 then
    s.updEngine c ⟨g / 8, h⟩ (fun e => { e with
      halfA := e.halfA.map (fun v => { v with record := none }), halfB := e.halfB.map (fun v => { v with record := none }),
      acc := e.acc.map (fun a => { a with vals := Vector.replicate 1024 0 }) })
  else s

/-- The cluster that comes after one in turn: the next in service. -/
def State.nextTest (s : State) (c : Nat) : Nat :=
  ((List.range 40).map (fun i => (c + 1 + i) % 40)).find? (fun n => if h : n < 40 then s.clusterUp ⟨n, h⟩ else false) |>.getD c

/-- A granule fails (R476): its unit is fenced and TEST_FAIL raised. The signature is free (DESIGN CHOICE, log entry 41). -/
def testFail (s : State) (c : Cl) (g : Nat) : State :=
  let u := granuleUnit c g
  let sig := (Config.freeWord s.free).toNat + place (Config.freeWord (s.free + 1)).toNat 32
  let detail := toBytes 2 g ++ toBytes 1 (if g < 168 then 1 else 2) ++ toBytes 5 0 ++ toBytes 8 sig
  let r : FaultRec := { severity := 0, eventCode := 0x0401, unitClass := u.cls, action := 4, strikes := s.strikesOf u, detail := detail }
  let s := raiseRec { s with free := s.free + 2 } { code := Code.TEST_FAIL, unit := u } 0 g r
  fenceUnit s u r

/-- TEST_GRANULE (R473 to R476): the next granule of the cluster whose turn it is. -/
def testGranule (pass : Bool) (s : State) : State :=
  if h : s.goose.testCluster < 40 then
    let c : Cl := ⟨s.goose.testCluster, h⟩
    let g := s.goose.testGranule
    if !s.clusterUp c then { s with goose := { s.goose with testCluster := s.nextTest c.val, testGranule := 0 } }
    else if !s.mayTest c then s
    else
      let s := if g < 168 then logicLeaves s c g else s
      let s := if pass then s else testFail s c g
      if !s.clusterUp c then { s with goose := { s.goose with testCluster := s.nextTest c.val, testGranule := 0 } }
      else if g + 1 < 488 then { s with goose := { s.goose with testGranule := g + 1 } }
      else { s with goose := { s.goose with
        testGranule := 0, testCluster := s.nextTest c.val, lastPass := upd s.goose.lastPass c (fun _ => s.now),
        overdue := upd s.goose.overdue c (fun _ => false) } }
  else s

def execTestGranule (pass : Bool) (s : State) : Host.Outcome State Fault Refusal := .next (testGranule pass s)

/-- TEST_OVERDUE (R476): once, for a cluster without a completed pass within TestPeriod; its turn is the next. -/
def testOverdue (c : Cl) (s : State) : State :=
  if !s.clusterUp c || s.goose.overdue.get c || s.now < s.goose.lastPass.get c + 1000000000 * s.goose.policy.testPeriod then s
  else
    let again : Bool := s.goose.testCluster = c.val
    let s := { s with goose := { s.goose with
      overdue := upd s.goose.overdue c (fun _ => true), testCluster := c.val,
      testGranule := if again then s.goose.testGranule else 0 } }
    raiseRec s { code := Code.TEST_OVERDUE, unit := { cls := 3, unit := c.val } } 0 c.val { severity := 3, eventCode := 0x0402, unitClass := 3 }

def execTestOverdue (c : Cl) (s : State) : Host.Outcome State Fault Refusal := .next (testOverdue c s)

end Sys2Proof.Machine
end

