-- ==== Sys2Proof/Machine/Mule.lean ====
section
/-! DEFINITION. What Mule does with other devices: heartbeats, failed devices, messages between Mules and freezes (R143, R144,
R385, R386, R439, R440, R443, R461, R465, R526). -/

namespace Sys2Proof.Machine

/-! ## Heartbeats (R385, R440) -/

/-- Devices a heartbeat goes to: the torus and hall neighbours, and for a spare in a failed device's place also the logical
neighbours, which route to it. -/
def State.beatPeers (s : State) : List Nat :=
  let logical := if s.ident.assumed then (List.range 6).flatMap (fun a =>
      let len := max 1 (s.ringLen a)
      [s.along a 1, s.along a (len - 1)]) else []
  (s.neighbours ++ logical.filter (fun d => d != 0 && d != s.ident.devNum)).eraseDups

/-- HEARTBEAT_SEND (R385, R470): every 1 ms, and never from a device with a fatal fault. -/
def heartbeatSend (s : State) : State :=
  if s.sys.fatal || s.power.state != .on || !s.sys.muleUp || s.now < s.fab.lastBeatSent + 1000000 then s
  else
    let peers := s.beatPeers
    peers.foldl (fun s d => send s (ctlPkt 0x08 d (toBytes 8 s.ident.devNum)))
      { s with fab := { s.fab with lastBeatSent := s.now } }

def execHeartbeatSend (s : State) : Host.Outcome State Fault Refusal := .next (heartbeatSend s)

/-- HEARTBEAT (R385, R440): a neighbour is heard, and is not failed any more. -/
def heartbeat (dev : Nat) (s : State) : State :=
  { s with fab := { s.fab with heard := (dev, s.now) :: s.fab.heard.filter (fun h => h.1 != dev), failed := s.fab.failed.filter (· != dev) } }

def execHeartbeat (dev : Nat) (s : State) : Host.Outcome State Fault Refusal := .next (heartbeat dev s)

/-! ## Failed devices (R143, R386, R412, R439, R461) -/

/-- Contexts whose job has a device. -/
def State.shares (s : State) (dev : Nat) : List Ctx :=
  [Ctx.j0, Ctx.j1].filter (fun x => (s.jobs.get x).isOpen && (s.jobs.get x).members.any (fun m => m.1 = dev))

/-- The deputy takes the failed master's place (R143, R144). -/
def takeOver (s : State) (x : Ctx) (dev : Nat) : State :=
  s.updJob x (fun j =>
    match j.deputy with
    | some d => if j.sender = dev && !s.fab.failed.contains d then { j with sender := d, deputy := none } else j
    | none => j)

/-- A device of a job has failed: flows to and from it close, the deputy may take over, collectives with it fail, and
escalations to it are lost. -/
def deviceFailed (s : State) (dev : Nat) : State :=
  if s.fab.failed.contains dev then s
  else
    let s := { s with fab := { s.fab with failed := dev :: s.fab.failed } }
    let xs := s.shares dev
    if xs.isEmpty then s
    else
      let s := (s.fab.src.filter (fun f => f.peer = dev)).foldl dropFlow s
      let s := { s with fab := { s.fab with
        dst := s.fab.dst.filter (fun f => f.peer != dev), ctxWait := s.fab.ctxWait.filter (fun w => w.2.dst != dev),
        dstWait := s.fab.dstWait.filter (fun w => w.2.2.src != dev) } }
      let s := admitDst s s.fab.dstWait.length
      let s := xs.foldl (fun s x => takeOver s x dev) s
      let s := collDevFailed s dev
      (s.goose.items.filter (fun w => match w.st with | .escalated _ _ _ => s.buddy w.ctx = dev | _ => false)).foldl loseReferee s

/-- The port a neighbour is met on. -/
def State.portOf (s : State) (dev : Nat) : Nat :=
  ((List.finRange 12).find? (fun p => ((s.fab.ports.get p).peer.map (·.devNum)) = some dev)).elim 0 (·.val)

/-- HEARTBEAT_TIMEOUT (R385, R386): a neighbour not heard for 5 ms. -/
def heartbeatTimeout (dev : Nat) (s : State) : State :=
  match s.fab.heard.find? (fun h => h.1 = dev) with
  | none => s
  | some h =>
    if s.fab.failed.contains dev || !s.neighbours.contains dev || s.now < h.2 + 5000000 then s
    else
      let p := s.portOf dev
      let s := raiseRec s { code := Code.DEV_FAILED, unit := { cls := 8, unit := p } } 0 dev
        { severity := 3, eventCode := 0x0303, unitClass := 8, detail := linkDetail dev p 5 0 0 0 }
      let dests := ((s.shares dev).flatMap (fun x => (s.jobs.get x).members.map (·.1))).eraseDups.filter (fun d => d != dev && d != s.ident.devNum)
      let s := dests.foldl (fun s d => send s (ctlPkt 0x09 d (slice (toBytes 8 dev) 0 32))) s
      deviceFailed s dev

def execHeartbeatTimeout (dev : Nat) (s : State) : Host.Outcome State Fault Refusal := .next (heartbeatTimeout dev s)

/-- FAULT_NOTICE (R386, R439). -/
def execFaultNotice (dev : Nat) (s : State) : Host.Outcome State Fault Refusal := .next (deviceFailed s dev)

/-! ## Messages between Mules (R359) -/

/-- A borrower's request for pool pages, answered with a range, the shortfall, or that this device has no pool (R312, R313). -/
def lend (s : State) (p : Party) (size : Nat) : State :=
  if s.mem.poolBytes = 0 then send s (muleMsg p.dev 10 [2])
  else
    let short := match s.fit s.poolBase s.placeable size none with | .short n => n | .at_ _ => 0
    match poolPlace s p size with
    | (s, some a) => send s (muleMsg p.dev 10 [1, a])
    | (s, none) => send s (muleMsg p.dev 10 [0, short])

/-- Pool pages of an assumed device that no manifest names are freed; the device lives again (R440, R443). -/
def reclaim (s : State) (dev : Nat) (kept : List Nat) : State :=
  let gone := s.mem.poolRanges.filter (fun r => r.owner.dev = dev && !kept.contains r.base)
  let s := gone.foldl (fun s r => clearPages s r.base r.size) s
  { s with mem := { s.mem with poolRanges := s.mem.poolRanges.filter (fun r => !gone.contains r) },
           fab := { s.fab with failed := s.fab.failed.filter (· != dev) } }

/-- MULE (R230, R313, R359, R416, R443, R461, R465, R567). -/
def muleStep (msg : MuleMsg) (s : State) : State :=
  match msg with
  | .halt x _ => haltHere s x
  | .started x dev => s.updJob x (fun j => { j with startedBy := if j.startedBy.contains dev then j.startedBy else dev :: j.startedBy })
  | .linkReport dev port failed => { s with coll := { s.coll with reports := s.coll.reports ++ [(dev, port, failed)] } }
  | .reclaim _ dev kept => reclaim s dev kept
  | .ringPass x ring => ringPassed s x ring
  | .poolPlace p size => lend s p size
  | .poolFree p base => poolFree s p base
  | .refereeBusy item => refuseOffer item s

def execMule (msg : MuleMsg) (s : State) : Host.Outcome State Fault Refusal := .next (muleStep msg s)

/-! ## FREEZE (R524 to R527) -/

/-- Whether this device sends a freeze on (R526). -/
def State.forwardsFreeze (s : State) (r : FreezeRec) : Bool := r.scope != 1 || !(s.shares r.origin).isEmpty

/-- FREEZE: one not seen takes effect and goes to every neighbour but its sender. -/
def freezeStep (sender : Nat) (r : FreezeRec) (s : State) : State :=
  if s.obs.freezeSeen.contains (r.origin, r.freezeId) then s
  else if s.obs.frozen then
    bump0 { s with obs := { s.obs with freezeSeen := (r.origin, r.freezeId) :: s.obs.freezeSeen } } { code := Cnt.FREEZE_IGNORED } 1
  else
    let s := freezeAs s r.freezeId r.origin r.cause
    if s.forwardsFreeze r then
      (s.neighbours.filter (· != sender)).foldl (fun s d => send s (ctlPkt 0x0A d r.bytes)) s
    else s

def execFreeze (sender : Nat) (r : FreezeRec) (s : State) : Host.Outcome State Fault Refusal := .next (freezeStep sender r s)

end Sys2Proof.Machine
end

