-- ==== Sys2Proof/Machine/SysCmds.lean ====
section
/-! DEFINITION. The power, fault, identity and flash commands of the mailbox (R285, R287, R437, R438, R479, R576 to R578,
R597, R618, R622, R623, R629, R642). -/

namespace Sys2Proof.Machine

/-! ## Power (R618, R629) -/

/-- The cap in force (R591). -/
def Power.capInForce (p : Power) : Nat := min p.cap p.thermalLimit

/-- Bits [4:0] of PWR_STATUS (R591); the input is low or high only once it has been sampled. -/
def Power.status (p : Power) : Nat :=
  b2n p.throttling + place (b2n (p.thermalLimit < p.cap)) 1 + place (b2n (p.volts != 0 && p.volts < 4000)) 2 +
    place (b2n (6000 < p.volts)) 3 + place (b2n (p.holdupSampled && p.bankMj < 1200)) 4

/-- Sum of PWR_THROTTLE over every cluster. -/
def State.throttled (s : State) : Nat :=
  ((List.range 40).map (fun c => (getCount s.obs.counters { code := Cnt.PWR_THROTTLE, unit := c }).toNat)).sum

/-- The telemetry record (R629). -/
def State.telemetry (s : State) : List Byte :=
  let p := s.power
  toBytes 8 (p.volts % 65536 + place (p.amps % 65536) 16 + place (p.watts % 65536) 32 + place (p.loadW % 65536) 48) ++
  toBytes 8 (p.cap % 65536 + place (p.thermalLimit % 65536) 16 + place (p.capInForce % 65536) 32 + place (p.bankMj % 65536) 48) ++
  toBytes 8 (p.dieTemp.toList.foldr (fun t r => t % 256 + 256 * r) 0 + place (p.stageTemp % 256) 32) ++
  toBytes 8 (p.hbmTemp.toList.foldr (fun t r => t % 256 + 256 * r) 0) ++ toBytes 8 p.energyMj ++ toBytes 8 s.throttled ++
  toBytes 8 (p.status + place (b2n p.flashBusy) 5) ++ toBytes 8 (p.transients % 2 ^ 32)

def specPwrStatus : CmdSpec := { code := CmdCode.pwrStatus }

/-- PWR_STATUS (R629). -/
def execPwrStatus (m : MCmd) (s : State) : Host.Outcome State Fault Refusal :=
  .next (startCmd specPwrStatus m s (fun s => answerOut s specPwrStatus.code m s.telemetry))

/-- A cap of R618. -/
def capOk (w : Nat) : Bool := 600 ≤ w && w ≤ 1250

def specCapSet : CmdSpec := { code := CmdCode.pwrCapSet, lenOk := lenIs 8, bad := fun p => firstBit p [(0, 63, 16)] }

/-- PWR_CAP_SET (R618). -/
def pwrCapSet (m : MCmd) (s : State) : State :=
  startCmd specCapSet m s (fun s =>
    let w := fld m.payload 0 15 0
    if !capOk w then answer s specCapSet.code m Code.CAP_RANGE
    else answer { s with power := { s.power with cap := w } } specCapSet.code m Code.OK)

def execPwrCapSet (m : MCmd) (s : State) : Host.Outcome State Fault Refusal := .next (pwrCapSet m s)

/-! ## Flash operations (R578, R622, R623) -/

/-- A started command that operates flash. -/
def Started.isFlash (k : Started) : Bool :=
  k.code = CmdCode.flashErase || k.code = CmdCode.flashWrite || k.code = CmdCode.faultRetireClear

/-- The next flash operation starts once the energy check passes (R622): the oldest started flash command, or the identity
record's write. A host erase or write whose check fails ends with FLASH_ENERGY. The fuel bounds the commands tried. -/
def startFlash : Nat → State → State
  | 0, s => s
  | n + 1, s =>
    if s.power.flashBusy then s
    else
      match s.mbx.started.find? Started.isFlash with
      | some k =>
        if s.energyOk then { s with power := { s.power with flashBusy := true, flashIdent := false } }
        else if k.code = CmdCode.faultRetireClear then s
        else startFlash n (completeLater s k.code k.key Code.FLASH_ENERGY)
      | none =>
        if s.ident.flashPending && s.energyOk then { s with power := { s.power with flashBusy := true, flashIdent := true } } else s

/-- The same for the commands now started. -/
def kickFlash (s : State) : State := startFlash (s.mbx.started.length + 1) s

/-- A command joins the flash operations. -/
def queueFlash (s : State) (code : Nat) (m : MCmd) : State := kickFlash (startLater s code m 0)

/-- Offset of a firmware slot, and of the slot that is not running. -/
def slotBase (b : Bool) : Nat := if b then 0x1000000 else 0
def State.idleSlot (s : State) : Nat := slotBase (!s.ident.fwSlot)

/-- A range lies in the idle firmware slot (R578). -/
def State.inIdle (s : State) (off len : Nat) : Bool := s.idleSlot ≤ off && off + len ≤ s.idleSlot + 0x1000000

/-- Bytes of a flash.write: what the cells hold after a program, which can only clear bits. -/
def programmed (old new : List Byte) : List Byte := (old.zip new).map (fun p => p.1 &&& p.2)

/-- The flash bytes of a range outside the log. -/
def State.flashRd (s : State) (off len : Nat) : List Byte := Mem.read 0xFF s.ident.flash off len

/-- Flash bytes written. -/
def State.flashWr (s : State) (off : Nat) (bs : List Byte) : State :=
  { s with ident := { s.ident with flash := Mem.write 0xFF s.ident.flash off bs } }

/-- What an ended flash.erase, flash.write or fault.retire.clear has done, and its status. A write whose read-back differs
leaves bytes the manual does not state: free values (DESIGN CHOICE, log entry 4). -/
def flashEffect (s : State) (k : Started) (verified : Bool) : State × Nat :=
  let p := k.cmd.payload
  if k.code = CmdCode.flashErase then
    ({ s with ident := { s.ident with flash := Mem.clear s.ident.flash (u64At p 0) (0x10000 * u64At p 8) } }, Code.OK)
  else if k.code = CmdCode.flashWrite then
    let off := u64At p 0
    let data := p.drop 8
    let now := programmed (s.flashRd off data.length) data
    if verified then (s.flashWr off now, if now = data then Code.OK else Code.FLASH_VERIFY)
    else
      let odd := (List.range data.length).map (fun i => Config.freeByte (s.free + i))
      (({ s with free := s.free + data.length } : State).flashWr off odd, Code.FLASH_VERIFY)
  else
    match (liveOf s.log.activeSec).find? (fun r => r.2.unitClass = 7 && r.2.unitIndex = fld p 0 7 0) with
    | some r =>
      let id := s.log.lastSeq + 1
      (putPersistent { s with log := { s.log with lastSeq := id } } (.clear id r.1) false, Code.OK)
    | none => (s, Code.RETIRE_NONE)

/-- FLASH_OP_DONE (R623): the operation in progress ends, and the next one starts. -/
def flashOpDone (verified : Bool) (s : State) : State :=
  if !s.power.flashBusy then s
  else
    let ident := s.power.flashIdent
    let s := { s with power := { s.power with flashBusy := false, flashIdent := false } }
    if ident then
      let role (i : Ident) : Ident := match i.roleNext with
        | some r => { i with spare := r.1, spareAxis := r.2, roleNext := none }
        | none => i
      let s := { s with ident := { role s.ident with flashPending := false, inFlash := none } }
      kickFlash (completeAll s CmdCode.idAssume 0 Code.OK)
    else
      match s.mbx.started.find? Started.isFlash with
      | none => kickFlash s
      | some k =>
        let (s, st) := flashEffect s k verified
        kickFlash (completeLater s k.code k.key st)

def execFlashOpDone (verified : Bool) (s : State) : Host.Outcome State Fault Refusal := .next (flashOpDone verified s)

/-! ## Flash commands (R577, R578) -/

/-- Slot `i` of the persistent part, 0 to 255. -/
def FaultLog.persistentSlot (l : FaultLog) (i : Nat) : List Byte :=
  let sec := if i < 128 then l.sector0 else l.sector1
  match sec[i % 128]? with
  | some p => p.bytes
  | none => List.replicate 512 0xFF

/-- Slot `i` of the log's ring. -/
def FaultLog.ringSlot (l : FaultLog) (i : Nat) : List Byte :=
  match l.ring.find? (fun e => e.1 = i) with
  | some e => slotBytes e.2.recordId 328 e.2.bytes
  | none => List.replicate 512 0xFF

/-- One byte of flash: the fault log's slots at their places (R486, R487), every other byte as written. -/
def State.flashByte (s : State) (a : Nat) : Byte :=
  if 0x3000000 ≤ a && a < 0x3800000 then (s.log.ringSlot ((a - 0x3000000) / 512)).getD (a % 512) 0
  else if 0x3800000 ≤ a && a < 0x3820000 then (s.log.persistentSlot ((a - 0x3800000) / 512)).getD (a % 512) 0
  else Mem.get 0xFF s.ident.flash a

def specFlashRead : CmdSpec := { code := CmdCode.flashRead, lenOk := lenIs 16, bad := fun p => firstBit p [(8, 63, 21)] }

/-- FLASH_READ (R577) of the 64 MiB flash. -/
def flashRead (m : MCmd) (s : State) : State :=
  startCmd specFlashRead m s (fun s =>
    let off := u64At m.payload 0
    let len := fld m.payload 8 20 0
    if len = 0 || 0x100000 < len then badField s specFlashRead.code m 64
    else if 0x4000000 < off + len then answer s specFlashRead.code m Code.FLASH_RANGE
    else answerOut s specFlashRead.code m ((List.range len).map (fun i => s.flashByte (off + i))))

def execFlashRead (m : MCmd) (s : State) : Host.Outcome State Fault Refusal := .next (flashRead m s)

/-- What an erase or a write of a range meets first (R578, R622): the range before the unlock, and the energy. -/
def State.flashErr (s : State) (off len : Nat) : Nat :=
  if !s.inIdle off len then Code.FLASH_RANGE
  else if !s.regs.flashUnlock then Code.FLASH_LOCKED
  else if !s.power.flashBusy && !s.energyOk then Code.FLASH_ENERGY
  else 0

/-- The host's flash operation that is in progress: at most one (R557). -/
def State.flashHost (s : State) : Option Started :=
  s.mbx.started.find? (fun k => k.code = CmdCode.flashErase || k.code = CmdCode.flashWrite)

/-- A host erase or write that meets no error starts, or is refused while another one is in progress (R557). -/
def beginFlash (s : State) (code : Nat) (m : MCmd) (err : Nat) : State :=
  if err != 0 then answer s code m err
  else
    match s.flashHost with
    | some k => answer s code m Code.BUSY k.code 1
    | none => queueFlash s code m

def specFlashErase : CmdSpec := { code := CmdCode.flashErase, lenOk := lenIs 16 }

/-- FLASH_ERASE (R577, R578): it completes with the operation. -/
def flashErase (m : MCmd) (s : State) : State :=
  startCmd specFlashErase m s (fun s =>
    let off := u64At m.payload 0
    if off % 0x10000 != 0 then badField s specFlashErase.code m 0
    else
      beginFlash s specFlashErase.code m (s.flashErr off (0x10000 * u64At m.payload 8)))

def execFlashErase (m : MCmd) (s : State) : Host.Outcome State Fault Refusal := .next (flashErase m s)

def specFlashWrite : CmdSpec := { code := CmdCode.flashWrite, lenOk := fun p => 8 < p.length }

/-- FLASH_WRITE (R577, R578): it completes with the operation. -/
def flashWrite (m : MCmd) (s : State) : State :=
  startCmd specFlashWrite m s (fun s =>
    beginFlash s specFlashWrite.code m (s.flashErr (u64At m.payload 0) (m.payload.length - 8)))

def execFlashWrite (m : MCmd) (s : State) : Host.Outcome State Fault Refusal := .next (flashWrite m s)

def specImageCommit : CmdSpec := { code := CmdCode.flashImageCommit, lenOk := lenIs 8, bad := fun p => firstBit p [(0, 63, 1)] }

/-- FLASH_IMAGE_COMMIT (R577): whether an image carries the signature is free (DESIGN CHOICE, log entry 10). -/
def flashImageCommit (m : MCmd) (s : State) : State :=
  startCmd specImageCommit m s (fun s =>
    let slot := bit (fld m.payload 0 0 0) 0
    if Config.imageSigned (s.flashRd (slotBase slot) 0x1000000) then
      answer { s with ident := { s.ident with nextSlot := slot } } specImageCommit.code m Code.OK
    else answer s specImageCommit.code m Code.FLASH_IMAGE)

def execFlashImageCommit (m : MCmd) (s : State) : Host.Outcome State Fault Refusal := .next (flashImageCommit m s)

/-! ## Fault policy and records (R285, R287, R479, R576, R642) -/

/-- Legal values of the fields of a fault.policy payload, in order (R479). -/
def policyRanges : List (Nat × Nat) := [(60, 2592000), (100, 10000), (3600, 2592000), (1, 1024)]

/-- First field of a fault.policy payload outside its range. -/
def policyBad (p : List Byte) : Option Nat :=
  (List.range 4).findSome? (fun i =>
    let v := u32At p (4 * i)
    let r := policyRanges.getD i (0, 0)
    if v != 0 && (v < r.1 || r.2 < v) then some (32 * i) else none)

/-- A policy with the fields that are not 0 taken over. -/
def Policy.updated (q : Policy) (p : List Byte) : Policy :=
  let f (i old : Nat) : Nat := if u32At p (4 * i) = 0 then old else u32At p (4 * i)
  { strikeWindow := f 0 q.strikeWindow, refTimeoutUs := f 1 q.refTimeoutUs, testPeriod := f 2 q.testPeriod, logRate := f 3 q.logRate,
    ifFailN := f 4 q.ifFailN, suspectN := f 5 q.suspectN, ueRowsN := f 6 q.ueRowsN, scrubN := f 7 q.scrubN }

def specPolicy : CmdSpec := { code := CmdCode.faultPolicy, lenOk := lenIs 32, bad := policyBad }

/-- FAULT_POLICY (R285, R479). -/
def execFaultPolicy (m : MCmd) (s : State) : Host.Outcome State Fault Refusal :=
  .next (startCmd specPolicy m s (fun s =>
    answer { s with goose := { s.goose with policy := s.goose.policy.updated m.payload } } specPolicy.code m Code.OK))

def specTimeSet : CmdSpec := { code := CmdCode.faultTimeSet, lenOk := lenIs 8 }

/-- FAULT_TIME_SET (R576). -/
def execFaultTimeSet (m : MCmd) (s : State) : Host.Outcome State Fault Refusal :=
  .next (startCmd specTimeSet m s (fun s =>
    answer { s with log := { s.log with hostTime := some (u64At m.payload 0, s.now) } } specTimeSet.code m Code.OK))

/-- Records of the flash log, in RecordID order, each once (R486, R487). -/
def FaultLog.flashRecs (l : FaultLog) : List FaultRec :=
  ((l.ring.map (·.2) ++ (liveOf l.activeSec).map (·.2)).mergeSort (fun a b => decide (a.recordId ≤ b.recordId))).eraseDups

def specCperRead : CmdSpec := { code := CmdCode.faultCperRead, lenOk := lenIs 16, bad := fun p => firstBit p [(0, 63, 1)] }

/-- FAULT_CPER_READ (R576, R642): whole records from a RecordID on, as many as the output holds. On Q0 a read of the
collector queue removes what it returns. -/
def faultCperRead (m : MCmd) (s : State) : State :=
  startCmd specCperRead m s (fun s =>
    let flash := bit (fld m.payload 0 0 0) 0
    let src := if flash then s.log.flashRecs else if m.q.val = 0 then s.log.collector else s.log.host
    let room := if m.q.val = 0 then 4096 / 328 else m.outLen / 328
    let out := (src.filter (fun r => u64At m.payload 8 ≤ r.recordId)).take room
    let s := if m.q.val = 0 && !flash then
        { s with log := { s.log with collector := s.log.collector.filter (fun r => !out.any (fun o => o.recordId = r.recordId)) } }
      else s
    answerOut s specCperRead.code m (out.flatMap FaultRec.bytes))

def execFaultCperRead (m : MCmd) (s : State) : Host.Outcome State Fault Refusal := .next (faultCperRead m s)

def specRetireClear : CmdSpec := { code := CmdCode.faultRetireClear, lenOk := lenIs 8, bad := fun p => firstBit p [(0, 63, 8)] }

/-- The live record of a channel's retirement (R287, R487). -/
def State.retireRec (s : State) (ch : Nat) : Bool :=
  (liveOf s.log.activeSec).any (fun r => r.2.unitClass = 7 && r.2.unitIndex = ch && !s.fused r.2)

/-- FAULT_RETIRE_CLEAR (R287, R487, R597): the clearing mark waits for the energy check. -/
def faultRetireClear (m : MCmd) (s : State) : State :=
  startCmd specRetireClear m s (fun s =>
    if !s.retireRec (fld m.payload 0 7 0) then answer s specRetireClear.code m Code.RETIRE_NONE
    else queueFlash s specRetireClear.code m)

def execFaultRetireClear (m : MCmd) (s : State) : Host.Outcome State Fault Refusal := .next (faultRetireClear m s)

/-! ## Identity (R437, R438) -/

/-- The identity record (R437). -/
def Ident.bytes (i : Ident) : List Byte :=
  let b := toBytes 8 (3 + place (b2n i.spare) 8 + place (b2n i.assumed) 9 + place (i.devNum % 65536) 16 + place (i.origDevNum % 65536) 32) ++
    toBytes 8 (i.logCoord % 2 ^ 42) ++ toBytes 8 (i.physCoord % 2 ^ 42) ++ toBytes 8 (i.spareAxis % 8) ++ toBytes 8 (i.assumeStep % 2 ^ 48) ++
    toBytes 8 i.jobId ++ List.replicate 12 0
  b ++ toBytes 4 (crc32 b)

def specIdRead : CmdSpec := { code := CmdCode.idRead }

/-- ID_READ (R437). -/
def execIdRead (m : MCmd) (s : State) : Host.Outcome State Fault Refusal :=
  .next (startCmd specIdRead m s (fun s => answerOut s specIdRead.code m s.ident.bytes))

/-- Channels, stacks and ports in service (R3, R587). -/
def State.chanUp (s : State) (ch : Chan) : Bool := !(s.mem.chans.get ch).absent && !(s.mem.chans.get ch).fenced
def State.clustersUp (s : State) : List Cl := (List.finRange 40).filter s.clusterUp
def State.chansUp (s : State) : List Chan := (List.finRange 256).filter s.chanUp
def State.stacksUp (s : State) : List Nat := (List.range 8).filter (fun k => s.chansUp.any (fun ch => ch.val / 32 = k))
def State.portsUp (s : State) : List Port := (List.finRange 12).filter (fun p => !(s.fab.ports.get p).outOfService)

/-- Engines of a cluster in service, as a mask. -/
def State.engineMask (s : State) (c : Cl) : Nat :=
  if s.clusterUp c then ((List.finRange 16).filter (fun e => !((s.clusters.get c).engines.get e).fenced)).foldl (fun m e => m + 2 ^ e.val) 0 else 0

/-- The width of R25 that a mask of usable lanes allows. -/
def lanesAllowed (m : Nat) : Nat :=
  let n := ((List.range 8).filter (bit m)).length
  if 8 ≤ n then 8 else if 4 ≤ n then 4 else if 2 ≤ n then 2 else 0

/-- Lanes of a port: those its link runs with, or those it could. -/
def FPort.lanesNow (q : FPort) : Nat := if q.outOfService then 0 else if q.lanes = 0 then lanesAllowed q.laneOk else q.lanes

/-- The capability record (R3, R5, R276, R314, R422), in the model's own layout (DESIGN CHOICE, log entry 54). -/
def State.capBytes (s : State) : List Byte :=
  let engines := ((List.finRange 40).map (fun c => ((List.range 16).filter (bit (s.engineMask c))).length)).sum
  let mask (l : List Nat) : Nat := l.foldl (fun m i => m + 2 ^ i) 0
  let listed := (s.listOf 0 ++ s.listOf 1).map (·.val)
  toBytes 8 (s.clustersUp.length + place engines 16 + place s.stacksUp.length 32 + place s.chansUp.length 40 + place s.portsUp.length 56) ++
  toBytes 8 (mask (s.clustersUp.map (·.val))) ++
  toBytes 8 (s.fab.ports.toList.foldr (fun q r => q.lanesNow % 16 + 16 * r) 0) ++
  toBytes 32 (mask (s.chansUp.map (·.val))) ++ toBytes 8 (s.slabSize 0) ++ toBytes 8 (s.slabSize 1) ++
  toBytes 8 (s.hbmEnd - 0x2000000) ++ toBytes 32 (mask listed) ++
  toBytes 32 (mask (((List.finRange 256).filter (fun ch => (s.mem.chans.get ch).privileged)).map (·.val))) ++ (List.finRange 40).flatMap (fun c => toBytes 2 (s.engineMask c))

def specCapRead : CmdSpec := { code := CmdCode.idCapRead }

/-- ID_CAP_READ (R576). -/
def execIdCapRead (m : MCmd) (s : State) : Host.Outcome State Fault Refusal :=
  .next (startCmd specCapRead m s (fun s => answerOut s specCapRead.code m s.capBytes))

/-- Two sets of coordinates differ on an axis other than one (R438). -/
def ringDiffers (a b axis : Nat) : Bool :=
  (List.range 7).any (fun i => i != axis && bits a (6 * i + 5) (6 * i) != bits b (6 * i + 5) (6 * i))

def specAssume : CmdSpec := {
  code := CmdCode.idAssume, lenOk := lenIs 32, foal := fun _ _ => false,
  bad := fun p => firstBit p [(0, 63, 16), (8, 63, 42), (16, 63, 48)] }

/-- ID_ASSUME (R438, R440): the values apply at once, and the command completes when the record is in flash. The failed
device's PhysCoord is its LogCoord (R437). -/
def idAssume (m : MCmd) (s : State) : State :=
  startCmd specAssume m s (fun s =>
    let p := m.payload
    let dev := fld p 0 15 0
    if dev = 0 || 0x8000 < dev then badField s specAssume.code m 0
    else if !s.ident.spare then answer s specAssume.code m Code.ID_NOT_SPARE
    else if s.jobs.j0.isOpen || s.jobs.j1.isOpen then answer s specAssume.code m Code.JOB_OPEN
    else if ringDiffers (fld p 8 41 0) s.ident.physCoord s.ident.spareAxis then answer s specAssume.code m Code.ID_RING
    else
      let i := s.ident
      let s := { s with ident := { i with
        inFlash := some (i.inFlash.getD (i.devNum, i.logCoord, i.assumed, i.assumeStep, i.jobId)),
        devNum := dev, logCoord := fld p 8 41 0, assumed := true, assumeStep := fld p 16 47 0, jobId := u64At p 24, flashPending := true } }
      kickFlash (startLater s specAssume.code m 0))

def execIdAssume (m : MCmd) (s : State) : Host.Outcome State Fault Refusal := .next (idAssume m s)

end Sys2Proof.Machine
end

