-- ==== Sys2Proof/Machine/Registers.lean ====
section
/-! DEFINITION. The registers of BAR0: what each reads, the accesses that reach none, guarded writes, event write-back, the
wide-value mailbox, the queue registers and configuration parity (R579 to R614). -/

namespace Sys2Proof.Machine

/-! ## Reading (R585 to R591, R596, R599, R603, R607, R608) -/

/-- SYS_SERVICE.State (R586). -/
def Service.code : Service → Nat
  | .off => 0
  | .foal => 1
  | .full => 2
  | .fatal => 3

/-- SYS_SERVICE. -/
def State.sysService (s : State) : Nat :=
  s.sys.service.code + place (b2n s.ident.fwSlot) 2 + place (b2n s.sys.hbmTrained) 3 + place (b2n s.sys.fabricReady) 4 +
    place (min 0xFFFF (s.now / 1000000)) 16

/-- ID_UNITS (R587). -/
def State.idUnits (s : State) : Nat :=
  s.clustersUp.length % 64 + place (s.stacksUp.length % 16) 6 + place (s.chansUp.length % 512) 10 + place (s.portsUp.length % 16) 19

/-- FLT_FENCED (R607): a level of what is fenced now. -/
def State.fltFenced (s : State) : Nat :=
  let cl := s.clusters.toList.any (fun k => !k.absent && (k.fenced || k.engines.toList.any (·.fenced)))
  let ch := s.mem.chans.toList.any (fun k => !k.absent && (k.fenced || !k.listed))
  let ln := s.fab.ports.toList.any (fun q => q.lanesNow < 8)
  let ot := s.goose.fenced.any (fun u => 9 ≤ u.cls) || s.coll.fencedHalf.toList.any id || s.mem.chans.toList.any (·.oxFenced)
  b2n cl + place (b2n ch) 1 + place (b2n ln) 2 + place (b2n ot) 3

/-- CNT_STATUS (R607). -/
def State.cntStatus (s : State) : Nat :=
  let (cause, id) := match s.obs.frozen, s.obs.snap with
    | true, some n => (n.cause, n.freezeId)
    | _, _ => (0, 0)
  b2n s.obs.frozen + place (b2n s.obs.snap.isSome) 1 + place (cause % 8) 2 + place (id % 65536) 16

/-- Started commands of a queue remain after Enable cleared (R608). -/
def State.queueActive (s : State) (q : Fin 16) : Bool :=
  !(s.mbx.queues.get q).enable && s.mbx.started.any (fun k => k.cmd.q = q)

/-- One register of a ring, by its offset in the ring's block (R608). -/
def State.queueReg (s : State) (q : Fin 16) (r : Nat) : Nat :=
  let k := s.mbx.queues.get q
  match r with
  | 0x00 => bits k.cmdBase.toNat 31 0
  | 0x04 => bits k.cmdBase.toNat 63 32
  | 0x08 => bits k.rspBase.toNat 31 0
  | 0x0C => bits k.rspBase.toNat 63 32
  | 0x10 => b2n k.enable + place (k.sizeLog2 % 32) 1 + place (b2n (s.queueActive q)) 6
  | _ => k.fetchIdx % 65536 + place (k.rspIdx % 65536) 16

/-- The same of the event ring, whose response fields are reserved. -/
def State.evtReg (s : State) (r : Nat) : Nat :=
  let k := s.mbx.evt
  match r with
  | 0x00 => bits k.base.toNat 31 0
  | 0x04 => bits k.base.toNat 63 32
  | 0x10 => b2n k.enable + place (k.sizeLog2 % 32) 1
  | 0x14 => k.writeIdx % 65536
  | _ => 0

/-- One of the identity, system and power registers (R586, R591), by offset; none where BAR0 has no such register. -/
def State.lowReg (s : State) (off : Nat) : Option Nat :=
  match off with
  | 0x0000 => some (0x9A01 + place (b2n s.ident.pm1b) 16)
  | 0x0004 => some 0xB0
  | 0x0008 => some fwVersion
  | 0x000C => some 0x0C0C
  | 0x0010 => some (bits Config.moduleSerial.toNat 31 0)
  | 0x0014 => some (bits Config.moduleSerial.toNat 63 32)
  | 0x0018 => some s.idUnits
  | 0x001C => some (s.ident.devNum % 65536 + place (s.ident.origDevNum % 65536) 16)
  | 0x0020 => some (b2n s.ident.spare + place (s.ident.spareAxis % 8) 1)
  | 0x0024 => some 0
  | 0x1000 => some s.sysService
  | 0x1004 => some s.regs.scratch.toNat
  | 0x1010 => some 0
  | 0x1014 => some 0
  | 0x2000 => some s.power.status
  | 0x2004 => some (s.power.volts % 65536 + place (s.power.amps % 65536) 16)
  | 0x2008 => some (s.power.watts % 65536 + place (s.power.capInForce % 65536) 16)
  | 0x200C => some ((s.power.dieTemp.toList.foldl max 0) % 256 + place ((s.power.hbmTemp.toList.foldl max 0) % 256) 8 +
      place (s.power.stageTemp % 256) 16)
  | 0x2010 => some s.power.cap
  | 0x2018 => some 0
  | 0x201C => some 0
  | _ => none

/-- One of the event, guard, wide-value, counter and fault registers (R596, R599, R603, R607). -/
def State.midReg (s : State) (off : Nat) : Option Nat :=
  match off with
  | 0x3000 => some s.regs.evtStatus.toNat
  | 0x3004 => some s.regs.evtSummary.toNat
  | 0x3008 => some (b2n s.regs.evtIntEnable)
  | 0x300C => some s.regs.evtLost.toNat
  | 0x4000 => some (b2n s.regs.flashUnlock)
  | 0x4004 => some 0
  | 0x4008 => some 0
  | 0x400C => some 0
  | 0x4010 => some (s.regs.grdOffset % 65536 + place (s.regs.grdCause % 8) 16 + place (b2n s.regs.grdRequester) 19)
  | 0x5000 => some s.regs.wideSelLo.toNat
  | 0x5004 => some s.regs.wideSelHi.toNat
  | 0x5008 => some (b2n s.regs.wideValid + place (b2n s.regs.wideError) 1 + place (s.regs.wideTag % 256) 8)
  | 0x6000 => some s.cntStatus
  | 0x7000 => some (s.regs.accOffset % 0x4000000 + place (b2n s.regs.accBar4) 26)
  | 0x7004 => some (s.regs.accCause % 16 + place (s.regs.accCount % 65536) 16)
  | 0x7008 => some s.regs.parityOffset
  | 0x700C => some s.fltFenced
  | _ => none

/-- One of the arrays of registers: apertures, wide data, MSI-X table and pending bits, and the rings (R585). -/
def State.arrayReg (s : State) (off : Nat) : Option Nat :=
  if off % 4 != 0 then none
  else if 0x1020 ≤ off && off < 0x1040 then
    some (s.regs.aperture.get ⟨(off - 0x1020) / 4 % 8, Nat.mod_lt _ (by decide)⟩).toNat
  else if 0x5010 ≤ off && off < 0x5030 then
    let j := (off - 0x5010) / 4
    let w := s.regs.wideData.get ⟨j / 2 % 4, Nat.mod_lt _ (by decide)⟩
    some (if !s.regs.wideValid then 0 else if j % 2 = 0 then bits w.toNat 31 0 else bits w.toNat 63 32)
  else if 0x8000 ≤ off && off < 0x8100 then
    some (s.regs.msixTable.get ⟨(off - 0x8000) / 4 % 64, Nat.mod_lt _ (by decide)⟩).toNat
  else if off = 0x9000 then some s.regs.msixPba.toNat
  else if off = 0x9004 then some 0
  else if 0x10040 ≤ off && off < 0x10400 && off % 0x40 < 0x18 then
    some (s.queueReg ⟨(off - 0x10000) / 0x40 % 16, Nat.mod_lt _ (by decide)⟩ (off % 0x40))
  else if 0x10400 ≤ off && off < 0x10418 then some (s.evtReg (off % 0x40))
  else none

/-- The word a BAR0 location holds; none where it is unimplemented. -/
def State.regRaw (s : State) (off : Nat) : Option Nat := ((s.lowReg off).or (s.midReg off)).or (s.arrayReg off)

/-- Locations served while SYS_SERVICE.State is Off (R590). -/
def servedOff (off : Nat) : Bool := off < 0x28 || off = 0x1000 || (0x7000 ≤ off && off ≤ 0x700C)

/-- What a read of a BAR0 register returns (R582, R590); none where it ends with Completer Abort (R581). -/
def State.bar0 (s : State) (off : Nat) : Option Nat :=
  (s.regRaw off).map (fun v => if s.sys.service = .off && !servedOff off then 0 else v)

/-- BAR4 has a doorbell at the offset (R611). -/
def isDoorbell (off : Nat) : Bool := (0x1000 ≤ off && off < 0x10000 && (off % 0x1000 = 0 || off % 0x1000 = 4)) || off = 0x10000

/-! ## Accesses that reach no register (R580, R581) -/

/-- UNIMPLEMENTED_ACCESS: a read ends with Completer Abort, a write is dropped and reported; both are recorded. On Mule's
internal bus the access ends in a bus error. -/
def unimplementedAccess (a : BadAccess) (s : State) : State :=
  let there := if a.bar4 then isDoorbell a.off else (s.regRaw a.off).isSome
  if a.mule || (there && !a.malformed) then s
  else
    let s := recordAccess s a.bar4 a.off (if a.malformed then 3 else if a.isWrite then 2 else 1)
    if a.isWrite then { s with regs := { s.regs with aerCa := true, errNonfatal := s.regs.errNonfatal + 1 } }
    else { s with regs := { s.regs with lastRead := none, lastAbort := true, lastEp := false } }

def execUnimplementedAccess (a : BadAccess) (s : State) : Host.Outcome State Fault Refusal := .next (unimplementedAccess a s)

/-! ## Configuration parity (R613) -/

/-- A register fails its parity as it is used: it is reported and reloaded, and the use goes on with the right value. -/
def cfgParity (s : State) (off : Nat) : State :=
  let s := { s with regs := { s.regs with parityOffset := off } }
  raiseRec s { code := Code.CFG_PARITY, unit := { cls := 0xC } } 0 off { severity := 2, eventCode := 0x0501, unitClass := 0xC, action := 1 }

/-! ## Guarded writes (R594 to R597) -/

/-- The guarded registers (R585, R594). -/
def guarded : List Nat := [0x0020, 0x1010, 0x2018, 0x4000, 0x4008]

/-- A guarded write ignored (R595). -/
def ignoreGuard (s : State) (mule : Bool) (off cause : Nat) : State :=
  bump { s with regs := { s.regs with grdOffset := off, grdCause := cause, grdRequester := mule } } { code := Cnt.GRD_IGNORED }

/-- The register a requester has armed. -/
def State.armed (s : State) (mule : Bool) : Option (Nat × BitVec 32 × Nat) := if mule then s.regs.armedMule else s.regs.armedHost

/-- The same, set. -/
def State.setArmed (s : State) (mule : Bool) (a : Option (Nat × BitVec 32 × Nat)) : State :=
  if mule then { s with regs := { s.regs with armedMule := a } } else { s with regs := { s.regs with armedHost := a } }

/-- 64 register-clock cycles, in ns. -/
def guardNs : Nat := 256

/-- An arming whose 64 cycles have passed ends, ignored (Cause 1). -/
def dropExpired (mule : Bool) (s : State) : State :=
  match s.armed mule with
  | some (off, _, t) => if t + guardNs < s.now then ignoreGuard (s.setArmed mule none) mule off 1 else s
  | none => s

/-- A guarded location that is served now (R590). -/
def State.guardServed (s : State) (off : Nat) : Bool := guarded.contains off && !(s.sys.service = .off && !servedOff off)

/-- GUARD_ARM (R594, R595): the write arms its register; a value armed before by the same requester is replaced (Cause 4). -/
def guardArm (mule : Bool) (off : Nat) (v : BitVec 32) (s : State) : State :=
  if !s.guardServed off then s
  else
    let s := dropExpired mule s
    let s := match s.armed mule with
      | some (old, _, _) => ignoreGuard s mule old 4
      | none => s
    s.setArmed mule (some (off, v, s.now))

def execGuardArm (mule : Bool) (off : Nat) (v : BitVec 32) (s : State) : Host.Outcome State Fault Refusal := .next (guardArm mule off v s)

/-- GUARD_EXPIRE (R595): the 64 cycles have passed. -/
def guardExpire (mule : Bool) (s : State) : State :=
  match s.armed mule with
  | some (off, _, t) => if t + guardNs ≤ s.now then ignoreGuard (s.setArmed mule none) mule off 1 else s
  | none => s

def execGuardExpire (mule : Bool) (s : State) : Host.Outcome State Fault Refusal := .next (guardExpire mule s)

/-- A word written to the complement of a guarded register completes the armed write. -/
def State.completes (s : State) (mule : Bool) (off : Nat) (v : BitVec 32) : Bool :=
  match s.armed mule with
  | some (o, w, t) => o = off && v = ~~~w && s.now ≤ t + guardNs && s.guardServed off
  | none => false

/-- COMPLEMENT_WRITE (R595): a complement that completes nothing. A wrong value ends the arming too (DEDUCED, log entry 58). -/
def complementWrite (mule : Bool) (off : Nat) (v : BitVec 32) (s : State) : State :=
  let reg := off - 4
  if !s.guardServed reg || s.completes mule reg v then s
  else
    let s := dropExpired mule s
    match s.armed mule with
    | some (o, _, _) => if o = reg then ignoreGuard (s.setArmed mule none) mule reg 2 else ignoreGuard s mule reg 3
    | none => ignoreGuard s mule reg 3

def execComplementWrite (mule : Bool) (off : Nat) (v : BitVec 32) (s : State) : Host.Outcome State Fault Refusal :=
  .next (complementWrite mule off v s)

/-- A completing complement write: the arming ends, and the register's own condition is checked (Cause 5) before its effect,
which takes the armed value. -/
def completeGuard (mule : Bool) (off : Nat) (v : BitVec 32) (ok : BitVec 32 → State → Bool) (act : BitVec 32 → State → State) (s : State) :
    State :=
  if !s.completes mule off v then s
  else
    let w := ~~~v
    let s := s.setArmed mule none
    if ok w s then act w s else ignoreGuard s mule off 5

/-- No job context is open. -/
def State.noJob (s : State) : Bool := !s.jobs.j0.isOpen && !s.jobs.j1.isOpen

/-- FLASH_UNLOCK (R596). -/
def flashUnlock (mule : Bool) (v : BitVec 32) (s : State) : State :=
  completeGuard mule 0x4000 v (fun _ _ => true) (fun w s => { s with regs := { s.regs with flashUnlock := w.getLsbD 0 } }) s

def execFlashUnlock (mule : Bool) (v : BitVec 32) (s : State) : Host.Outcome State Fault Refusal := .next (flashUnlock mule v s)

/-- The fence fuses of every unit with a live persistent record burn (R597). -/
def burnFuses (s : State) : State :=
  let us := (liveOf s.log.activeSec).map (fun r => (r.2.unitClass, r.2.unitIndex, r.2.subIndex))
  { s with ident := { s.ident with fuses := (s.ident.fuses ++ us).eraseDups } }

/-- FUSE_COMMIT (R597). -/
def fuseCommit (mule : Bool) (v : BitVec 32) (s : State) : State :=
  completeGuard mule 0x4008 v (fun _ s => s.noJob) (fun w s => if w.getLsbD 0 then burnFuses s else s) s

def execFuseCommit (mule : Bool) (v : BitVec 32) (s : State) : Host.Outcome State Fault Refusal := .next (fuseCommit mule v s)

/-- ID_ROLE_WRITE (R588): the identity record's write follows under the energy check, and reads change with it. -/
def idRoleWrite (mule : Bool) (v : BitVec 32) (s : State) : State :=
  completeGuard mule 0x0020 v (fun _ s => s.noJob)
    (fun w s => kickFlash { s with ident := { s.ident with
      roleNext := some (w.getLsbD 0, bits w.toNat 3 1), flashPending := true } }) s

def execIdRoleWrite (mule : Bool) (v : BitVec 32) (s : State) : Host.Outcome State Fault Refusal := .next (idRoleWrite mule v s)

/-! ## Events (R600, R601) -/

/-- EVT_STATUS_WRITE: software writes back the SeqNum it read. -/
def evtStatusWrite (v : BitVec 32) (s : State) : State :=
  if s.sys.service = .off || s.regs.evtStatus = 0 then s
  else if v = s.mbx.evt.seq then { s with regs := { s.regs with evtStatus := 0, evtSummary := 0 } }
  else if s.regs.evtIntEnable then sendMsix s 0
  else s

def execEvtStatusWrite (v : BitVec 32) (s : State) : Host.Outcome State Fault Refusal := .next (evtStatusWrite v s)

/-! ## Power cap (R592) -/

/-- PWR_CAP_WRITE. -/
def pwrCapWrite (v : BitVec 32) (s : State) : State :=
  let w := bits v.toNat 15 0
  if s.sys.service = .off then s
  else if capOk w then { s with power := { s.power with cap := w } }
  else recordAccess s false 0x2010 6

def execPwrCapWrite (v : BitVec 32) (s : State) : Host.Outcome State Fault Refusal := .next (pwrCapWrite v s)

/-! ## The wide-value mailbox (R602 to R606) -/

/-- WIDE_SEL_LO_WRITE: a fetch starts with the selection held, and abandons one in progress. The use of WIDE_SEL_HI may meet
a parity error. -/
def wideSelLoWrite (v : BitVec 32) (parity : Bool) (s : State) : State :=
  if s.sys.service = .off then s
  else
    let s := if parity then cfgParity s 0x5004 else s
    { s with regs := { s.regs with
      wideSelLo := v, wideFetch := some (v, s.regs.wideSelHi), wideValid := false, wideError := false,
      wideData := Vector.replicate 4 0 } }

def execWideSelLoWrite (v : BitVec 32) (parity : Bool) (s : State) : Host.Outcome State Fault Refusal := .next (wideSelLoWrite v parity s)

/-- The always-on counter a selection names: the context counts only for counters kept per context. -/
def State.wideKey (s : State) (lo hi : Nat) : Option CntKey :=
  let code := bits lo 23 8
  let fits (k : CntKey) : Bool := k.unit = bits hi 15 0 && k.sub = bits hi 23 16 && (match k.ctx with | none => true | some x => ctxNo x = bits hi 25 24)
  match alwaysOn.find? (fun c => c.1 = code) with
  | some c => (s.keysOf code c.2).find? fits
  | none => none

/-- The data words a selection names (R604); none where it names nothing. -/
def State.wideWords (s : State) (lo hi : Nat) : Option (List Nat) :=
  match bits lo 7 0 with
  | 0x01 => some [s.now]
  | 0x02 => (s.wideKey lo hi).map (fun k => [(getCount s.obs.counters k).toNat])
  | 0x03 => match s.obs.snap, s.wideKey lo hi with
    | some n, some k => some [(getCount n.counters k).toNat]
    | _, _ => none
  | 0x04 => if h : bits hi 15 0 < 1024 then some [(s.obs.pcs.get ⟨bits hi 15 0, h⟩).value.toNat] else none
  | 0x05 => some [s.power.energyMj]
  | 0x06 => match s.obs.frozen, s.obs.snap with
    | true, some n => some [n.freezeId % 2 ^ 32 + place (n.origin % 65536) 32 + place (n.cause % 8) 48, n.latchTs, n.beatJ0, n.beatJ1]
    | _, _ => none
  | 0x07 => match ctxOf (bits hi 25 24) with
    | some x => if (s.jobs.get x).isOpen then some [(s.jobs.get x).beat, (s.jobs.get x).step, (s.jobs.get x).treeGen % 65536] else none
    | none => none
  | _ => none

/-- WIDE_FETCH_DONE (R605). -/
def wideFetchDone (s : State) : State :=
  match s.regs.wideFetch with
  | none => s
  | some (lo, hi) =>
    let w := s.wideWords lo.toNat hi.toNat
    let data : Vector (BitVec 64) 4 := Vector.ofFn (fun j => BitVec.ofNat 64 ((w.getD []).getD j.val 0))
    { s with regs := { s.regs with
      wideFetch := none, wideValid := true, wideError := w.isNone, wideTag := bits lo.toNat 31 24, wideData := data } }

def execWideFetchDone (s : State) : Host.Outcome State Fault Refusal := .next (wideFetchDone s)

/-! ## Queue and event-ring registers (R608 to R610) -/

/-- MBX_QCTL of a queue: Enable and SizeLog2 written. Clearing Enable is always accepted (DEDUCED, log entry 59). -/
def queueCtl (s : State) (q : Fin 16) (off : Nat) (en : Bool) (size : Nat) : State :=
  let k := s.mbx.queues.get q
  let sizeOk := size = k.sizeLog2 || !(k.enable || s.queueActive q)
  if k.enable then
    let s := if en then s else dropCloses (shutQueue s q)
    if sizeOk then s else recordAccess s false off 6
  else if !sizeOk || (en && !(4 ≤ size && size ≤ 12 && k.cmdBase != 0 && k.rspBase != 0)) then recordAccess s false off 6
  else if en then
    s.updQueue q (fun k => { ({} : MQueue) with
      cmdBase := k.cmdBase, rspBase := k.rspBase, sizeLog2 := size, enable := true, lastMsi := k.lastMsi, heldLast := k.heldLast })
  else s.updQueue q (fun k => { k with sizeLog2 := size })

/-- The same of the event ring, which has no Active. Enabling it leaves room for the events lost before. -/
def evtCtl (s : State) (off : Nat) (en : Bool) (size : Nat) : State :=
  let k := s.mbx.evt
  let put (s : State) (f : EvtRing → EvtRing) : State := { s with mbx := { s.mbx with evt := f s.mbx.evt } }
  if k.enable then
    let s := if en then s else put s (fun r => { r with enable := false })
    if size = k.sizeLog2 then s else recordAccess s false off 6
  else if en && !(6 ≤ size && size ≤ 16 && k.base != 0) then recordAccess s false off 6
  else if en then put s (fun r => { r with enable := true, sizeLog2 := size, writeIdx := 0, unread := 0, phase := true })
  else put s (fun r => { r with sizeLog2 := size })

/-- MBX_QCTL_WRITE: rings 1 to 15 are the queues, 16 the event ring; Q0 has no registers. -/
def mbxQctlWrite (ring : Fin 17) (v : BitVec 32) (s : State) : State :=
  let off := 0x10000 + 0x40 * ring.val + 0x10
  let en := v.getLsbD 0
  let size := bits v.toNat 5 1
  if ring.val = 0 then unimplementedAccess { bar4 := false, off := off, isWrite := true, malformed := false, mule := false } s
  else if s.sys.service = .off then s
  else if h : ring.val < 16 then queueCtl s ⟨ring.val, h⟩ off en size
  else evtCtl s off en size

def execMbxQctlWrite (ring : Fin 17) (v : BitVec 32) (s : State) : Host.Outcome State Fault Refusal := .next (mbxQctlWrite ring v s)

/-- A 64-bit base with one of its words written, its low 12 bits reserved. -/
def baseWord (b : BitVec 64) (hi : Bool) (v : BitVec 32) : BitVec 64 :=
  let lo := bits b.toNat 31 0
  BitVec.ofNat 64 (if hi then lo + place v.toNat 32 else bits v.toNat 31 12 * 4096 + place (bits b.toNat 63 32) 32)

/-- A base register written (R609). -/
def baseWrite (s : State) (off : Nat) (v : BitVec 32) : State :=
  let r := off % 0x40
  let i := (off - 0x10000) / 0x40
  if h : i < 16 then
    let q : Fin 16 := ⟨i, h⟩
    if (s.mbx.queues.get q).enable || s.queueActive q then recordAccess s false off 6
    else s.updQueue q (fun k =>
      if r < 8 then { k with cmdBase := baseWord k.cmdBase (r = 4) v } else { k with rspBase := baseWord k.rspBase (r = 12) v })
  else if 8 ≤ r then s
  else if s.mbx.evt.enable then recordAccess s false off 6
  else { s with mbx := { s.mbx with evt := { s.mbx.evt with base := baseWord s.mbx.evt.base (r = 4) v } } }

/-! ## Plain registers (R9, R585) -/

/-- A word of the MSI-X table: unmasking a vector sends the message that was held (R585). -/
def msixWrite (s : State) (i : Fin 64) (v : BitVec 32) : State :=
  let vec : Fin 16 := ⟨i.val / 4, by omega⟩
  let s := { s with regs := { s.regs with msixTable := upd s.regs.msixTable i (fun _ => v) } }
  if i.val % 4 = 3 && !v.getLsbD 0 && s.regs.msixPba.getLsbD vec.val then
    sendMsix { s with regs := { s.regs with msixPba := s.regs.msixPba &&& ~~~(1#32 <<< vec.val) } } vec
  else s

/-- A register that software writes and that has no behaviour of its own; a write to any other is ignored (R9). -/
def plainWrite (s : State) (off : Nat) (v : BitVec 32) : State :=
  if off = 0x1004 then { s with regs := { s.regs with scratch := v } }
  else if off = 0x3008 then { s with regs := { s.regs with evtIntEnable := v.getLsbD 0 } }
  else if off = 0x5004 then { s with regs := { s.regs with wideSelHi := BitVec.ofNat 32 (bits v.toNat 25 0) } }
  else if 0x1020 ≤ off && off < 0x1040 && off % 4 = 0 then
    let k : Fin 8 := ⟨(off - 0x1020) / 4 % 8, Nat.mod_lt _ (by decide)⟩
    { s with regs := { s.regs with aperture := upd s.regs.aperture k (fun _ => BitVec.ofNat 12 v.toNat) } }
  else if 0x8000 ≤ off && off < 0x8100 && off % 4 = 0 then msixWrite s ⟨(off - 0x8000) / 4 % 64, Nat.mod_lt _ (by decide)⟩ v
  else if 0x10040 ≤ off && off < 0x10440 && off % 4 = 0 && off % 0x40 < 0x10 then baseWrite s off v
  else s

end Sys2Proof.Machine
end

