-- ==== Sys2Proof/Machine/Power.lean ====
section
/-! DEFINITION. The power stage, its manager and sensors, the sideband pins, the boundary scan, and the passage through power-up
and reset (R561 to R564, R589, R593, R615 to R646). -/

namespace Sys2Proof.Machine

/-! ## Pins (R633, R634, R636) -/

/-- The boundary scan holds every output at high impedance (R643). -/
def State.highZ (s : State) : Bool := s.pins.jtag = 5

/-- Mule drives the sideband outputs: from the 20 ms point until the island stops. -/
def State.driven (s : State) : Bool := (s.power.state = .on || s.power.state = .island) && s.sys.muleUp && !s.highZ

/-- READY: none where only the board's resistor sets it. -/
def State.readyPin (s : State) : Option Bool :=
  if s.driven then some (s.power.state = .on && s.sys.service = .full) else none

/-- FAULT#, ALERT# and THERM# are driven low (R634). -/
def State.faultPin (s : State) : Bool := s.driven && s.pins.faultLow
def State.alertPin (s : State) : Bool := s.driven && (!s.log.collector.isEmpty || s.mbx.q0Resp.isSome)
def State.thermPin (s : State) : Bool := s.driven && (decide (s.power.thermalLimit < s.power.cap) || s.pins.thermTripLow)

/-- BEAT_OUT: high for 100 ns from 50 ns after a boundary. -/
def State.beatOutPin (s : State) : Option Bool :=
  if !s.driven then none
  else some (s.power.state = .on && (match s.pins.beatOut with | some t => t ≤ s.now && s.now < t + 100 | none => false))

/-- Configuration space is served (R645). -/
def State.cfgServed (s : State) : Bool :=
  s.power.state = .on && !s.pins.perst && (match s.pins.perstAt with | some t => t + 1000000 ≤ s.now && 100000000 ≤ s.now | none => false)

/-! ## What a restart leaves (R28, R276, R287, R589, R597, R646) -/

/-- A fence fuse is burned (R597). -/
def Ident.hasFuse (i : Ident) (cls unit sub : Nat) : Bool := i.fuses.contains (cls, unit, sub)

/-- The identity as flash and fuses hold it: what no flash write has saved is lost, and the committed slot runs. -/
def Ident.restarted (i : Ident) : Ident :=
  let i := match i.inFlash with
    | some (d, l, a, t, j) => { i with devNum := d, logCoord := l, assumed := a, assumeStep := t, jobId := j }
    | none => i
  { i with flashPending := false, inFlash := none, roleNext := none, fwSlot := i.nextSlot }

/-- Clusters after a restart: empty, with the units that binning and fuses remove. -/
def freshClusters (s : State) : Vector Cluster 40 :=
  Vector.ofFn (fun c =>
    let gone := (s.clusters.get c).absent || [2, 3, 4, 5].any (fun k => s.ident.hasFuse k c.val 0)
    let engines : Vector Engine 16 := Vector.ofFn (fun e => { fenced := s.ident.hasFuse 1 c.val e.val })
    { absent := gone, engines := engines })

/-- Channels after a restart: a retired one stays out of its list (R273, R287), and scrubbing resumes where flash says. -/
def freshChans (s : State) : Vector HbmChan 256 :=
  Vector.ofFn (fun ch =>
    let out := s.retireRec ch.val
    { absent := (s.mem.chans.get ch).absent || s.ident.hasFuse 7 ch.val 0, fenced := out, listed := !out,
      scrubPos := s.mem.scrubSaved.getD ch.val 0, oxFenced := s.ident.hasFuse 10 ch.val 0 })

/-- Ports after a restart. -/
def freshPorts (s : State) : Vector FPort 12 :=
  Vector.ofFn (fun p =>
    if s.ident.hasFuse 8 p.val 0 then { enable := false, link := .disabled, outOfService := true } else {})

/-- The fault log after a restart: flash keeps its slots and RecordIDs, Mule's queues are empty. -/
def FaultLog.restarted (l : FaultLog) : FaultLog :=
  { lastSeq := l.lastSeq, ring := l.ring, ringNext := l.ringNext, sector0 := l.sector0, sector1 := l.sector1, active := l.active }

/-- Every unit restarted at an instant: what only flash, fuses, the environment and the power side hold stays. -/
def restart (s : State) (at_ : Nat) : State :=
  let halves : Vector Bool 2 := Vector.ofFn (fun h => s.ident.hasFuse 9 h.val 0)
  { ({} : State) with
    pending := s.pending, now := at_, free := s.free,
    power := { s.power with
      cap := 1250, thermalLimit := 1250, overRun := 0, recharging := false, throttling := false, flashBusy := false, flashIdent := false,
      holdupSampled := false },
    pins := s.pins,
    ident := s.ident.restarted,
    mbx := { hostMem := s.mbx.hostMem, msix := s.mbx.msix },
    log := s.log.restarted,
    clusters := freshClusters s,
    mem := { chans := freshChans s, scrubSaved := s.mem.scrubSaved, scrubSavedAt := min at_ s.mem.scrubSavedAt },
    fab := { ports := freshPorts s },
    coll := { fencedHalf := halves },
    sys := { resetAt := at_ } }

/-- Straps sampled (R635). -/
def Pins.strapped (p : Pins) (st : Straps) : Pins := { p with beatSrc := st.beatSrc, mgmtAddr := st.mgmtAddr.toNat, beatOut := none }

/-! ## Power-up and service (R561 to R564, R644) -/

/-- POWER_GOOD (R644): everything starts, from time 0, with the bank empty. -/
def powerGood (straps : Straps) (s : State) : State :=
  let r := restart { s with power := {}, mem := { s.mem with scrubSavedAt := 0 } } 0
  { r with pins := ({ perst := s.pins.perst, perstAt := if s.pins.perst then none else some 0 } : Pins).strapped straps }

def execPowerGood (straps : Straps) (s : State) : Host.Outcome State Fault Refusal := .next (powerGood straps s)

/-- MODULE_RESET (R589): everything restarts but the PCIe link and configuration space, the power stage and the timestamp, and
the sequence goes on from its 20 ms point. Kinds other than 1 are reserved (DESIGN CHOICE, log entry 60). -/
def moduleReset (mule : Bool) (v : BitVec 32) (straps : Straps) (s : State) : State :=
  completeGuard mule 0x1010 v (fun w _ => bits w.toNat 3 0 = 1) (fun _ s =>
    let r := restart s s.now
    { r with
      sys := { r.sys with muleUp := true }, pins := s.pins.strapped straps,
      regs := { r.regs with
        msixTable := s.regs.msixTable, msixPba := s.regs.msixPba, aerCa := s.regs.aerCa, errNonfatal := s.regs.errNonfatal } }) s

def execModuleReset (mule : Bool) (v : BitVec 32) (straps : Straps) (s : State) : Host.Outcome State Fault Refusal :=
  .next (moduleReset mule v straps s)

/-- MULE_START (R561). -/
def muleStart (s : State) : State :=
  if s.power.state = .on && !s.sys.muleUp then { s with sys := { s.sys with muleUp := true } } else s

def execMuleStart (s : State) : Host.Outcome State Fault Refusal := .next (muleStart s)

/-- FOAL_ENTRY (R561, R562). -/
def foalEntry (s : State) : State :=
  if s.power.state = .on && s.sys.muleUp && s.sys.service = .off then { s with sys := { s.sys with service := .foal } } else s

def execFoalEntry (s : State) : Host.Outcome State Fault Refusal := .next (foalEntry s)

/-- A channel out of service before full service: fenced, and out of its interleave list (DEDUCED, log entry 61). -/
def dropChan (s : State) (ch : Chan) : State := s.updChan ch (fun k => { k with fenced := true, listed := false })

/-- HBM_TRAINING_DONE (R561). -/
def hbmTrainingDone (failed : List Chan) (s : State) : State :=
  if s.sys.service != .foal || s.sys.hbmTrained then s
  else failed.foldl dropChan { s with sys := { s.sys with hbmTrained := true } }

def execHbmTrainingDone (failed : List Chan) (s : State) : Host.Outcome State Fault Refusal := .next (hbmTrainingDone failed s)

/-- A unit fails its power-up test (R476, R477, R561): it is fenced; a unit of a granule raises TEST_FAIL, whose signature is
free (DESIGN CHOICE, log entry 41). -/
def failTest (s : State) (u : UnitId) : State :=
  if u.cls = 7 then (if h : u.unit < 256 then dropChan s ⟨u.unit, h⟩ else s)
  else if u.cls = 8 then
    (if h : u.unit < 12 then s.updPort ⟨u.unit, h⟩ (fun q => { q with outOfService := true, link := .disabled, lanes := 0 }) else s)
  else
    let sig := (Config.freeWord s.free).toNat + place (Config.freeWord (s.free + 1)).toNat 32
    let r : FaultRec := { severity := 0, eventCode := 0x0401, unitClass := u.cls, action := 4, detail := List.replicate 8 0 ++ toBytes 8 sig }
    fenceUnit (raiseRec { s with free := s.free + 2 } { code := Code.TEST_FAIL, unit := u } 0 u.unit r) u r

/-- SERVICE_FULL (R356, R477, R561, R564): the units that failed are fenced, the Diag job closes, and the module is
fabric-ready. -/
def serviceFull (failed : List UnitId) (s : State) : State :=
  if s.sys.service != .foal || !s.sys.hbmTrained then s
  else
    let s := failed.foldl failTest s
    let s := if s.jobs.j0.isOpen && s.jobs.j0.diag then
        let beat := s.jobs.j0.beat
        raiseCtx (closeJob s .j0) Code.JOB_CLOSED (some .j0) { cls := 0 } beat 0
      else s
    let s := { s with
      sys := { s.sys with service := .full, fabricReady := true },
      goose := { s.goose with lastPass := Vector.replicate 40 s.now } }
    let s := (List.finRange 12).foldl tryUp s
    raise s { code := Code.SERVICE_FULL }

def execServiceFull (failed : List UnitId) (s : State) : Host.Outcome State Fault Refusal := .next (serviceFull failed s)

/-! ## The power stage turns off (R593, R624, R625, R632) -/

/-- Of the flash operations only the one in progress stays. -/
def keepFlash (s : State) : State :=
  let busy := s.power.flashBusy
  let host := busy && !s.power.flashIdent
  let shut (k : Started) : Started := { k with sess := false }
  let mine := if host then ((s.mbx.started.find? Started.isFlash).map shut).toList else []
  { s with
    mbx := { s.mbx with started := mine },
    ident := if busy && s.power.flashIdent then s.ident else { s.ident with flashPending := false, roleNext := none } }

/-- Only the island runs on: Mule, its queues and flash, the management port and the pins. HBM and the job contexts are lost,
and the links fall silent. -/
def stageOff (s : State) : State :=
  let s := keepFlash s
  let fresh := restart s s.now
  let ports : Vector FPort 12 := fresh.fab.ports.map (fun (q : FPort) => { q with link := .disabled })
  { fresh with
    power := { s.power with state := .island, throttling := false },
    ident := s.ident,
    log := s.log,
    fab := { fresh.fab with ports := ports },
    goose := { policy := s.goose.policy, stopCommits := true },
    mbx := { fresh.mbx with started := s.mbx.started, q0Busy := s.mbx.q0Busy, q0Resp := s.mbx.q0Resp, q0Out := s.mbx.q0Out },
    sys := { muleUp := s.sys.muleUp, fatal := s.sys.fatal, service := if s.sys.fatal then .fatal else .off, resetAt := s.sys.resetAt } }

/-- Queued fault records written while their energy check passes. -/
def writeRecords : Nat → State → State
  | 0, s => s
  | n + 1, s => if s.log.waiting.isEmpty || !s.energyOk then s else writeRecords n (faultLogWrite s)

/-- ORDERLY_OFF (R291, R593). Actions other than 1 are reserved (DESIGN CHOICE, log entry 60). -/
def orderlyOff (mule : Bool) (v : BitVec 32) (s : State) : State :=
  completeGuard mule 0x2018 v (fun w _ => bits w.toNat 1 0 = 1) (fun _ s =>
    let s := flashOpDone true (keepFlash s)
    let s := writeRecords s.log.waiting.length (saveScrub s)
    stageOff { s with goose := { s.goose with stopCommits := true }, pins := { s.pins with faultLow := true } }) s

def execOrderlyOff (mule : Bool) (v : BitVec 32) (s : State) : Host.Outcome State Fault Refusal := .next (orderlyOff mule v s)

/-- A power-stage fault (R470, R624): device-fatal, and the stage turns off. -/
def stageFault (s : State) : State :=
  if s.power.state != .on then s
  else
    let s := deviceFatal s 0x0602 none
    stageOff { s with power := { s.power with stageFault := true } }

/-- INPUT_LOSS. -/
def execInputLoss (s : State) : Host.Outcome State Fault Refusal := .next (stageFault s)

/-- INPUT_OVERVOLTAGE. -/
def execInputOvervoltage (s : State) : Host.Outcome State Fault Refusal := .next (stageFault s)

/-- CONVERTER_FAULT. -/
def execConverterFault (s : State) : Host.Outcome State Fault Refusal := .next (stageFault s)

/-- A sensor is fitted and in service (R626). -/
def State.sensorUp (s : State) : Sensor → Bool
  | .hbm i => s.stacksUp.contains i.val
  | _ => true

/-- THERMAL_TRIP (R627, R634). -/
def thermalTrip (sensor : Sensor) (s : State) : State :=
  if s.power.state != .on || !s.sensorUp sensor then s
  else stageFault { s with pins := { s.pins with thermTripLow := true }, power := { s.power with thermalTrip := true } }

def execThermalTrip (sensor : Sensor) (s : State) : Host.Outcome State Fault Refusal := .next (thermalTrip sensor s)

/-- ISLAND_STOP (R625, R632): the island loses power, and every output is left to its board resistor. -/
def islandStop (s : State) : State :=
  if s.power.state != .island then s
  else { s with
    power := { s.power with state := .dead, flashBusy := false },
    sys := { s.sys with muleUp := false },
    pins := { s.pins with faultLow := false, thermTripLow := false, dynAddr := none },
    log := s.log.restarted,
    mbx := { hostMem := s.mbx.hostMem, msix := s.mbx.msix } }

def execIslandStop (s : State) : Host.Outcome State Fault Refusal := .next (islandStop s)

/-! ## Cap, throttling, bank and sensors (R18, R591, R619 to R622, R627) -/

/-- Withheld cycles of one interval given to the clusters in service: equal shares, and the remainder one each in ascending
order after the cluster that took the last one (R620). -/
def shareOut (s : State) (n : Nat) : State :=
  let up := s.clustersUp.map (·.val)
  if up.isEmpty then s
  else
    let after := up.filter (fun c => s.power.lastRemainder < c) ++ up.filter (fun c => c ≤ s.power.lastRemainder)
    let extra := after.take (n % up.length)
    let give (s : State) (c : Nat) : State :=
      bump s { code := Cnt.PWR_THROTTLE, unit := c } (n / up.length + b2n (extra.contains c))
    let s := up.foldl give s
    { s with power := { s.power with lastRemainder := extra.getLastD s.power.lastRemainder } }

/-- POWER_MANAGER_TICK (R619, R620): the mean load of a 10 µs interval, and the issue cycles the manager withholds for it. The
use of PWR_CAP may meet a parity error (R613). -/
def powerManagerTick (p10 withhold : Nat) (parity : Bool) (s : State) : State :=
  if s.power.state != .on then s
  else
    let s := if parity then cfgParity s 0x2010 else s
    let p := s.power
    let above := decide (p.capInForce < p10)
    let ended := p.overRun != 0 && !above
    let p := { p with
      overRun := if above then p.overRun + 1 else 0,
      transients := p.transients + b2n (above && p.overRun = 0),
      recharging := (p.recharging || ended) && decide (p.bankMj < 4800),
      throttling := decide (withhold ≠ 0) }
    shareOut { s with power := p } withhold

def execPowerManagerTick (p10 withhold : Nat) (parity : Bool) (s : State) : Host.Outcome State Fault Refusal :=
  .next (powerManagerTick p10 withhold parity s)

/-- Sensors with their throttle thresholds (R626): reading and threshold. -/
def State.sensors (s : State) : List (Nat × Nat) :=
  s.power.dieTemp.toList.map (·, 100) ++ (s.stacksUp.map (fun k => (s.power.hbmTemp.toList.getD k 0, 92))) ++ [(s.power.stageTemp, 110)]

/-- THERMAL_LIMIT_TICK (R627). -/
def thermalLimitTick (s : State) : State :=
  if !(s.power.state = .on && s.sys.muleUp) then s
  else
    let l := s.power.thermalLimit
    let hot := s.sensors.any (fun t => t.2 < t.1)
    let cool := s.sensors.all (fun t => t.1 + 3 ≤ t.2)
    { s with power := { s.power with thermalLimit := if hot then max 300 (l - 10) else if cool then min 1250 (l + 10) else l } }

def execThermalLimitTick (s : State) : Host.Outcome State Fault Refusal := .next (thermalLimitTick s)

/-- Usable energy of the bank at a voltage in mV, in mJ (R621). -/
def bankEnergy (mv : Nat) : Nat := (mv * mv - 28000 * 28000) / 400000

/-- HOLDUP_SAMPLE (R621, R622): the energy is measured, and a flash operation that waits for it may start. -/
def holdupSample (mv : Nat) (s : State) : State :=
  if !(s.sys.muleUp && (s.power.state = .on || s.power.state = .island)) then s
  else
    let s := { s with power := { s.power with bankMv := mv, bankMj := bankEnergy mv, holdupSampled := true } }
    if s.power.state = .on then kickFlash s else s

def execHoldupSample (mv : Nat) (s : State) : Host.Outcome State Fault Refusal := .next (holdupSample mv s)

/-- TELEMETRY_SAMPLE (R478, R524, R591, R629): one 1 ms sample, paused while the device is frozen. -/
def telemetrySample (t : Telemetry) (s : State) : State :=
  if s.obs.frozen || !(s.power.state = .on && s.sys.muleUp) then s
  else { s with power := { s.power with
    volts := t.volts, amps := t.amps, watts := t.watts, loadW := t.loadW, dieTemp := t.die, stageTemp := t.stage,
    hbmTemp := Vector.ofFn (fun i => if s.stacksUp.contains i.val then t.hbm.get i else 0), energyMj := t.energyMj } }

def execTelemetrySample (t : Telemetry) (s : State) : Host.Outcome State Fault Refusal := .next (telemetrySample t s)

/-! ## PERST#, FREEZE_IN and the boundary scan (R637, R643, R645, R646) -/

/-- PERST_ASSERT (R646): the PCIe endpoint is held in reset, and its queues close as under R560. -/
def perstAssert (s : State) : State :=
  let s := { s with pins := { s.pins with perst := true, perstAt := none } }
  if s.power.state = .on then pcieReset s else s

def execPerstAssert (s : State) : Host.Outcome State Fault Refusal := .next (perstAssert s)

/-- PERST_DEASSERT (R645): EXTEST, CLAMP and HIGHZ in force fall back to BYPASS (R643). -/
def perstDeassert (s : State) : State :=
  if !s.pins.perst then s
  else { s with pins := { s.pins with
    perst := false, perstAt := some s.now, jtag := if 3 ≤ s.pins.jtag then 0 else s.pins.jtag } }

def execPerstDeassert (s : State) : Host.Outcome State Fault Refusal := .next (perstDeassert s)

/-- FREEZE_IN (R637): an edge held high long enough. -/
def freezeIn (highNs : Nat) (s : State) : State := if highNs < 20 || s.power.state != .on then s else localFreeze s 1

def execFreezeIn (highNs : Nat) (s : State) : Host.Outcome State Fault Refusal := .next (freezeIn highNs s)

/-- Code of a boundary-scan instruction in the model's state. -/
def JtagInstr.code : JtagInstr → Nat
  | .bypass => 0
  | .idcode => 1
  | .sample => 2
  | .extest => 3
  | .clamp => 4
  | .highz => 5

/-- IDCODE (R643). -/
def idcode : BitVec 32 := BitVec.ofNat 32 (1 + place Config.jtagManufacturer.toNat 1 + place 0x9A01 12 + place 1 28)

/-- JTAG_INSTRUCTION (R643): EXTEST, CLAMP and HIGHZ execute as BYPASS unless PERST# is asserted. What a boundary-scan register
captures depends on its cell order, which the manual does not give: a free value (DESIGN CHOICE, log entry 7). -/
def jtagInstruction (i : JtagInstr) (s : State) : State :=
  let k := if 3 ≤ i.code && !s.pins.perst then 0 else i.code
  let scan := k = 2 || k = 3
  let s1 := if scan then s.draw else s
  { s1 with pins := { s1.pins with
    jtag := k, jtagData := if k = 1 then idcode else if scan then Config.freeWord s.free else 0 } }

def execJtagInstruction (i : JtagInstr) (s : State) : Host.Outcome State Fault Refusal := .next (jtagInstruction i s)

end Sys2Proof.Machine
end

