-- ==== Sys2Proof/Machine/StageCheck.lean ====
section
/-! DEFINITION. What stage.load checks of a descriptor, its regions, and two commands that may run at once (R94 to R103,
R113, R124, R127, R165, R213 to R219, R239 to R250, R255, R648). -/

namespace Sys2Proof.Machine

/-- The first pair of a record and a bit offset (R552) whose condition holds. -/
def firstErr (l : List (Bool × Nat × Nat)) : Option (Nat × Nat) := (l.find? (·.1)).map (·.2)

/-- The first answer of a list of checks. -/
def firstOf : List (Option (Nat × Nat)) → Option (Nat × Nat)
  | [] => none
  | some e :: _ => some e
  | none :: l => firstOf l

/-! ## Header (R96, R213, R239) -/

/-- The control word: record 0x1F. -/
def Desc.ctlErr (d : Desc) : Option (Nat × Nat) :=
  let r := 0x1F
  let k3 : Bool := d.kind = 3
  let k4 : Bool := d.kind = 4
  firstErr [
    (d.ver != 1, r, 0),
    (d.levels = 0 || 6 < d.levels || (k3 && 5 < d.levels), r, 8),
    (d.kind = 0 || 4 < d.kind, r, 12),
    (bit (ofBytes (slice d.raw 0 16)) 19, r, 19),
    (bits (ofBytes (slice d.raw 0 16)) 127 122 != 0, r, 122),
    (1 < d.rnd || (k4 && d.rnd != 0), r, 16),
    (k4 && d.stealEn, r, 11),
    (k4 && d.sat, r, 18),
    (k4 && d.stream != 0, r, 20),
    (k4 && d.engMask != 0, r, 28),
    (k4 && d.rowBase != 0, r, 44),
    (k4 && d.colBase != 0, r, 72),
    ((d.kind = 1 || k3 || (k4 && d.xfer.dir != 0 && d.xfer.dir != 2)) && d.veEntry != 0, r, 96),
    (d.kind = 2 && d.veEntry = 0 && d.codecOp = 0, r, 96),
    (3 < d.codecOp || (d.kind != 2 && d.codecOp != 0), r, 112),
    (if d.kind = 2 || k3 then d.slotCount < 2 || 8 < d.slotCount else d.slotCount != 0, r, 116),
    ((k3 || k4) && d.accGroup != 0, r, 120)]

/-! ## Operand entries (R41, R42, R70, R98, R99, R214) -/

/-- Every field of an unused entry but Used is 0. -/
def OpEnt.isZero (e : OpEnt) : Bool :=
  e.fmt = 0 && !e.tr && e.rsv = 0 && e.elem = 0 && e.scale = 0 && e.rowStride = 0 && e.scaleStride = 0

/-- One entry that must be used, with the formats its place takes. -/
def OpEnt.err (e : OpEnt) (r : Nat) (isB : Bool) (ok : Fmt → Bool) : Option (Nat × Nat) :=
  match Fmt.ofCode e.fmt with
  | none => some (r, if e.used then 0 else 6)
  | some f =>
    firstErr [
      (!e.used, r, 6), (e.rsv != 0, r, 7), (e.tr && !isB, r, 5), (!ok f || (e.tr && f.isMx), r, 0), (e.elem % 8 != 0, r, 8),
      (!f.scaled && e.scale != 0, r, 30), (e.rowStride % 8 != 0, r, 52), (!f.scaled && e.scaleStride != 0, r, 68)]

/-- The formats of an entry that takes only some codes. -/
def fmtIn (l : List Fmt) (f : Fmt) : Bool := l.contains f

/-- The operand entries of a descriptor. -/
def Desc.opErr (d : Desc) : Option (Nat × Nat) :=
  let unused (e : OpEnt) (r : Nat) : Option (Nat × Nat) := firstErr [(e.used, r, 6), (!e.isZero, r, 0)]
  if d.kind = 1 || d.kind = 2 then
    firstOf [
      d.a.err 0x10 false (·.okA), d.b.err 0x11 true (fun _ => true), d.out.err 0x12 false (·.okTst),
      if d.kind = 1 then unused d.aux 0x13 else d.aux.err 0x13 false (fun f => f.okTst || d.codecOp = 2 || d.codecOp = 3),
      match Fmt.ofCode d.a.fmt, Fmt.ofCode d.b.fmt with
      | some a, some b => if Fmt.pairs a b then none else some (0x11, 0)
      | _, _ => some (0x10, 0)]
  else if d.kind = 3 then
    firstOf [
      d.a.err 0x10 false (fmtIn [.fp32, .bf16, .e4m3, .mxfp8e4]), d.b.err 0x11 false (fmtIn [.fp32]),
      firstErr [(d.b.rowStride < 4 * d.att.headDim + 16, 0x11, 52)],
      d.out.err 0x12 false (fun f => if d.att.mode then f = .bf16 else f.okTst), d.aux.err 0x13 false (fmtIn [.fp32])]
  else
    let t := d.xfer
    let tr : Bool := t.dir = 4
    firstOf [
      if t.dir = 3 then unused d.a 0x10
      else firstErr [
        (!d.a.used, 0x10, 6), (d.a.rsv != 0, 0x10, 7), (d.a.tr, 0x10, 5),
        (if tr then !([0, 1, 2, 3, 4, 13].contains d.a.fmt) else d.a.fmt != 0, 0x10, 0), (d.a.elem % 8 != 0, 0x10, 8),
        (d.a.scale != 0, 0x10, 30), (if tr then d.a.rowStride % 8 != 0 else d.a.rowStride != 0, 0x10, 52), (d.a.scaleStride != 0, 0x10, 68)],
      firstErr [
        (d.aux.used || !d.aux.isZero, 0x13, 0), (4 < t.dir, 0x14, 64), (t.kv && 1 < t.dir, 0x14, 67), (!t.kv && t.seq != 0, 0x14, 68),
        (12 < t.shift || (tr && t.shift != 0), 0x14, 80), ((t.dir != 2 && t.leader != 0) || 39 < t.leader, 0x14, 84),
        (fldN d.raw 0x1C 24 95 90 != 0, 0x14, 90), (t.dir != 0 && t.recvMask != 0, 0x14, 96),
        (if tr then t.extRowStride % 64 != 0 else t.extRowStride != 0, 0x14, 136), (fldN d.raw 0x1C 24 191 152 != 0, 0x14, 152)]]

/-! ## Level records (R94, R100 to R103, R113, R215, R242) -/

/-- A stride in bytes that R103 requires to be a multiple of 8. -/
def odd8 (v : Int) : Bool := v % 8 != 0

/-- What holds of one level record in every kind. -/
def Desc.lvlErr (d : Desc) (i : Nat) (l : Lvl) : Option (Nat × Nat) :=
  let f := fldN d.raw (0x40 + 32 * i) 32
  let out : Bool := d.outermost i
  let mn : Bool := l.dim = 0 || l.dim = 1
  firstErr [
    (f 31 30 != 0, i, 30), (f 63 58 != 0, i, 58), (f 95 88 != 0, i, 88), (d.kind != 4 && l.step = 0, i, 32),
    (l.skip = 3 || (l.skip != 0 && (d.kind = 3 || d.kind = 4 || !mn)), i, 53),
    (l.skip != 0 && (match d.lvls[l.couple]? with
      | some c => !((c.dim = 0 || c.dim = 1) && c.dim != l.dim && c.rank < l.rank)
      | none => true), i, 55),
    (l.bndUse && !out, i, 29),
    (odd8 l.eA, i, 96), (odd8 (if d.kind = 4 then l.eB * (2 ^ d.xfer.shift : Nat) else l.eB), i, 120), (odd8 l.eOut, i, 144), (odd8 l.eAux, i, 168),
    (mn && (match (d.parentOf i).bind (fun p => d.lvls[p]?) with
      | some p => p.step % (max 1 l.step) != 0
      | none => false), i, 32),
    (mn && (match (d.parentOf i).bind (fun p => d.lvls[p]?) with
      | some p => l.plan != p.step
      | none => false), i, 0)]

/-- Records beyond Levels are zero, but for the attention record (R94). -/
def Desc.spareErr (d : Desc) : Option (Nat × Nat) :=
  firstErr ((List.range 6).map (fun i =>
    (d.levels ≤ i && !(d.kind = 3 && i = 5) && (slice d.raw (0x40 + 32 * i) 32).any (· != 0), i, 0)))

/-- The ranks are a permutation of 0 to Levels − 1. -/
def Desc.ranksOk (d : Desc) : Bool := (List.range d.levels).all (fun r => d.lvls.any (fun l => l.rank = r))

/-- Step of the innermost level of a Dim, none where the Dim does not appear. -/
def Desc.innerStep (d : Desc) (dim : Nat) : Option Nat := ((d.innermost dim).bind (fun i => d.lvls[i]?)).map (·.step)

/-- K limit of two operands in a buffer half (R68, R101). -/
def Desc.kLimit (d : Desc) : Nat :=
  match Fmt.ofCode d.a.fmt, Fmt.ofCode d.b.fmt with
  | some a, some b => min a.maxK b.maxK
  | _, _ => 0

/-- The record of the innermost level of a Dim, record 0 where there is none. -/
def Desc.innerRec (d : Desc) (dim : Nat) : Nat := (d.innermost dim).getD 0

/-- What a kind requires of the level records together. -/
def Desc.nestErr (d : Desc) : Option (Nat × Nat) :=
  let ks := d.lvls.zipIdx.filter (fun p => p.1.dim = 2)
  let k := d.kLevel
  let kl := d.lvls[k]?
  let outerStep (l : Lvl) : Bool := l.dim = 3 && l.step != 1
  let ranks : List (Bool × Nat × Nat) := [(!d.ranksOk, 0, 50), (ks.length != 1, k, 48)]
  let outers : List (Bool × Nat × Nat) := d.lvls.zipIdx.map (fun p => (outerStep p.1, p.2, 32))
  if d.kind = 1 || d.kind = 2 then
    firstErr (ranks ++ outers ++ [
      ((d.innermost 0).isNone || (d.innermost 1).isNone, 0, 48),
      (match kl with | some l => l.rank + 1 != d.levels | none => true, k, 50),
      (d.innerStep 0 != some 16, d.innerRec 0, 32), (d.innerStep 1 != some 64, d.innerRec 1, 32),
      (match kl with | some l => l.step % 32 != 0 || d.kLimit < l.step | none => true, k, 32),
      (match kl with | some l => l.eOut != 0 | none => true, k, 144), (match kl with | some l => l.sOut != 0 | none => true, k, 224)] ++
      (if d.kind = 2 then d.lvls.zipIdx.flatMap (fun p => [(p.1.eOut != 0, p.2, 144), (p.1.sOut != 0, p.2, 224)]) else []))
  else if d.kind = 3 then
    firstErr (ranks ++ outers ++ [
      ((d.innermost 1).isSome, d.innerRec 1, 48), (d.innerStep 0 != some 16, d.innerRec 0, 32),
      (match kl with | some l => !([64, 128, 192, 256].contains l.step) | none => true, k, 32),
      (match kl with | some l => l.eA != 0 || l.eB != 0 || l.eOut != 0 || l.sA != 0 || l.sB != 0 || l.sOut != 0 | none => true, k, 96)] ++
      d.lvls.zipIdx.flatMap (fun p => [(p.1.eAux != 0, p.2, 168), (p.1.sAux != 0, p.2, 240)]))
  else
    let t := d.xfer
    let size : Nat := match kl with | some l => l.tile | none => 0
    let (w, n) := transposeShape d.a.fmt
    firstErr (ranks ++ [
      (match kl with | some l => l.rank + 1 != d.levels | none => true, k, 50),
      (size % 64 != 0 || (t.dir = 4 && size != 64 * n && w != 0), k, 32),
      (match kl with | some l => l.plan % (max 1 size) != 0 | none => true, k, 0)] ++
      d.lvls.zipIdx.flatMap (fun p => [
        (p.1.dim != 2 && p.1.dim != 3, p.2, 48), (p.1.dim = 3 && p.1.step != 1, p.2, 32), (t.dir = 2 && p.1.eB != 0, p.2, 120),
        (t.dir = 3 && p.1.eA != 0, p.2, 96), (p.1.eOut != 0, p.2, 144), (p.1.eAux != 0, p.2, 168), (p.1.sA != 0, p.2, 192),
        (p.1.sB != 0, p.2, 208), (p.1.sOut != 0, p.2, 224), (p.1.sAux != 0, p.2, 240)]))

/-- The attention record (R202, R214, R216): level record 5. -/
def Desc.attErr (d : Desc) : Option (Nat × Nat) :=
  let a := d.att
  let f := fldN d.raw 0xE0 32
  if d.kind != 3 then none
  else firstErr [
    (f 31 31 != 0, 5, 31), (f 183 182 != 0, 5, 182), (!(a.kvFmt = 5 || a.kvFmt = 9), 5, 16), (!(a.pFmt = 5 || a.pFmt = 1), 5, 21),
    (f 27 26 = 3, 5, 26), (4 < a.gqaLog, 5, 28), (a.headsKv = 0 || 64 < a.headsKv, 5, 120), (a.kPos % 64 != 0, 5, 152),
    (a.mask = 3, 5, 176), (a.mask = 2 && a.window = 0, 5, 184), (!a.mode && a.gradBase != 0, 5, 208)]

/-! ## Regions over the PlanBounds (R648) -/

/-- The bytes an operand occupies: its record of R552, whether the command reads and writes it, and runs of bytes. -/
structure Region where
  op : Nat
  reads : Bool
  writes : Bool
  runs : List (Nat × Nat)
  deriving DecidableEq, Repr

/-- Runs of a stored tile: rows, then scale rows (R77, R78). -/
def tileRuns (f : Fmt) (elem scale rowStride scaleStride rows cols : Nat) : List (Nat × Nat) :=
  (List.range rows).map (fun r => (elem + r * rowStride, rowBytes f.width cols)) ++
    (if f.scaled then (List.range rows).map (fun r => (scale + r * scaleStride, cdiv cols 32)) else [])

/-- Regions of a matrix nest. -/
def Desc.matRegions (d : Desc) (fa fb fo : Fmt) : List Region :=
  let ext := d.plans
  let ts := (d.outIdx ext).map (d.tile ext)
  let ks := List.range (match d.lvls[d.kLevel]? with | some l => cdiv l.plan (max 1 l.step) | none => 0)
  let loads (isB : Bool) (f : Fmt) : List (Nat × Nat) := ts.flatMap (fun t => ks.flatMap (fun k => (d.load ext t isB k 0 0).reads f))
  let a : Region := { op := 0x10, reads := true, writes := false, runs := loads false fa }
  let b : Region := { op := 0x11, reads := true, writes := false, runs := loads true fb }
  if d.kind = 1 then
    [a, b, { op := 0x12, reads := false, writes := true,
             runs := ts.flatMap (fun t => tileRuns fo t.outAddr t.outScale d.out.rowStride d.out.scaleStride t.validRows t.validCols) }]
  else
    let slots := (List.range d.slotCount).flatMap (fun s =>
      tileRuns fo (d.out.elem + s * 16 * d.out.rowStride) (d.out.scale + s * 16 * d.out.scaleStride) d.out.rowStride d.out.scaleStride 16 64)
    let aux := match Fmt.ofCode d.aux.fmt with
      | some f => ts.flatMap (fun t => tileRuns f t.auxAddr t.auxScale d.aux.rowStride d.aux.scaleStride t.validRows t.validCols)
      | none => []
    [a, b, { op := 0x12, reads := true, writes := true, runs := slots }, { op := 0x13, reads := false, writes := true, runs := aux }]

/-- Regions of an attention block (R214, R218, R219). -/
def Desc.attRegions (d : Desc) (fa fo kf pf : Fmt) : List Region :=
  let ext := d.plans
  let idx := d.outIdx ext
  let hd := d.att.headDim
  let rows (i : List Nat) : Nat := d.covers ext i ((d.innermost 0).getD 0)
  [{ op := 0x10, reads := true, writes := false, runs := idx.flatMap (fun i =>
      tileRuns fa (addr22 d.a.elem d i (·.eA)) (addr22 d.a.scale d i (·.sA)) d.a.rowStride d.a.scaleStride (rows i) hd) },
   { op := 0x11, reads := true, writes := true, runs := idx.flatMap (fun i =>
      (List.range (rows i)).map (fun r => (d.rowStAddr i r, 4 * hd + 16))) },
   { op := 0x12, reads := d.att.mode, writes := !d.att.mode, runs := idx.flatMap (fun i =>
      tileRuns fo (addr22 d.out.elem d i (·.eOut)) (addr22 d.out.scale d i (·.sOut)) d.out.rowStride d.out.scaleStride (rows i) hd) },
   { op := 0x13, reads := true, writes := true, runs := [(d.aux.elem, workBytes d kf pf)] }]

/-- Regions of a transfer nest (R243, R249). -/
def Desc.xferRegions (d : Desc) : List Region :=
  let ts := d.xtiles d.plans
  let t := d.xfer
  let (_, n) := transposeShape d.a.fmt
  let store : List (Nat × Nat) := ts.map (fun p => (p.2.2.1, p.2.2.2))
  if t.dir = 0 || t.dir = 2 then [{ op := 0x10, reads := false, writes := true, runs := store }]
  else if t.dir = 1 then [{ op := 0x10, reads := true, writes := false, runs := store }]
  else if t.dir = 4 then
    [{ op := 0x10, reads := false, writes := true, runs := ts.flatMap (fun p => (List.range n).map (fun r => (p.2.2.1 + r * d.a.rowStride, 64))) },
     { op := 0x14, reads := true, writes := false, runs := ts.flatMap (fun p => (List.range n).map (fun r => (p.2.1 + r * t.extRowStride, 64))) }]
  else []

/-- The regions of a descriptor that has passed the checks of its fields. -/
def Desc.regions (d : Desc) : List Region :=
  if d.kind = 4 then d.xferRegions
  else
    match Fmt.ofCode d.a.fmt, Fmt.ofCode d.b.fmt, Fmt.ofCode d.out.fmt with
    | some fa, some fb, some fo =>
      if d.kind = 3 then
        match Fmt.ofCode d.att.kvFmt, Fmt.ofCode d.att.pFmt with
        | some kf, some pf => d.attRegions fa fo kf pf
        | _, _ => []
      else d.matRegions fa fb fo
    | _, _, _ => []

/-- Every run of a descriptor. -/
def Desc.runs (d : Desc) : List (Nat × Nat) := d.regions.flatMap (·.runs)

/-- Two runs share a byte. -/
def runsMeet (a b : Nat × Nat) : Bool := a.1 < b.1 + b.2 && b.1 < a.1 + a.2

/-- The first byte two lists of runs share. -/
def sharedByte (a b : List (Nat × Nat)) : Option Nat :=
  (a.flatMap (fun r => (b.filter (runsMeet r)).map (fun q => max r.1 q.1))).min?

/-- What a descriptor's regions break: the end of the store, or two regions of a transpose that share a byte (R127, R250). -/
def Desc.regionErr (d : Desc) : Option (Nat × Nat) :=
  match d.regions.find? (fun r => r.runs.any (fun p => storeBytes < p.1 + p.2)) with
  | some r => some (r.op, if r.op = 0x14 then 0 else 8)
  | none =>
    match d.kind = 4 && d.xfer.dir = 4, d.regions with
    | true, [a, b] => (sharedByte a.runs b.runs).map (fun _ => (0x14, 0))
    | _, _ => none

/-- A TileRow or TileCol that does not fit its field (R80, R127). -/
def Desc.coordErr (d : Desc) : Option (Nat × Nat) :=
  if d.kind = 4 then none
  else
    let ts := (d.outIdx d.plans).map (d.tile d.plans)
    firstErr [(ts.any (fun t => 2 ^ 28 ≤ t.row), 0x1F, 44), (d.kind != 3 && ts.any (fun t => 2 ^ 24 ≤ t.col), 0x1F, 72)]

/-- The first thing a descriptor breaks (R127): the record and the bit offset of R552. -/
def Desc.err (d : Desc) : Option (Nat × Nat) :=
  match firstOf [d.ctlErr, d.spareErr, d.opErr, firstOf (d.lvls.zipIdx.map (fun p => d.lvlErr p.2 p.1)), d.nestErr, d.attErr] with
  | some e => some e
  | none => firstOf [d.regionErr, d.coordErr]

/-! ## Group length and races (R165, R255) -/

/-- Array cycles of one multiply-accumulate over `k` elements (R66). -/
def macCycles (g k : Nat) : Nat := if g < 2 then 2 * k else k / g

/-- Array cycles of the longest tile group at the PlanBounds (R165). -/
def Desc.groupCycles (d : Desc) : Nat :=
  match Fmt.ofCode d.a.fmt, Fmt.ofCode d.b.fmt, d.lvls[d.kLevel]? with
  | some a, some b, some l =>
    let g := min a.g b.g
    let tile := ((List.range (cdiv l.plan (max 1 l.step))).map (fun i => macCycles g (32 * cdiv (min l.step (l.plan - i * l.step)) 32))).sum
    let groups := groupsOf (d.accGroup + 1) d.groupLevel (d.tiles d.plans)
    (groups.map List.length).foldl max 0 * tile
  | _, _, _ => 0

/-- A J1 descriptor is refused with J1_GROUP_LONG. -/
def Desc.groupLong (d : Desc) : Bool := (d.kind = 1 || d.kind = 2) && 1536 < d.groupCycles

/-- The first byte one command writes that the other reads or writes. -/
def descRace (a b : Desc) : Option Nat :=
  let w (d : Desc) : List (Nat × Nat) := (d.regions.filter (·.writes)).flatMap (·.runs)
  match sharedByte (w a) b.runs, sharedByte a.runs (w b) with
  | some x, some y => some (min x y)
  | some x, none => some x
  | none, y => y

/-- Pairs of RUN entries of a program that may run at the same time: an entry with Async = 1 and those after it up to the
next WAIT or END (R255). -/
def asyncPairs : List ProgEnt → List (Nat × Nat)
  | [] => []
  | e :: l =>
    let later := (l.takeWhile (fun p => p.op != 3 && p.op != 4)).filter (fun p => p.op = 1)
    (if e.op = 1 && e.async then later.map (fun p => (e.desc, p.desc)) else []) ++ asyncPairs l

end Sys2Proof.Machine
end

