-- ==== Sys2Proof/Machine/Stage.lean ====
section
/-! DEFINITION. stage.load and stage.unload (R127, R131 to R135, R156, R165, R255, R569, R570). -/

namespace Sys2Proof.Machine

/-! ## The payload (R570) -/

/-- Numbers of the set bits of a mask. -/
def bitsOf (n m : Nat) : List Nat := (List.range n).filter (bit m)

/-- Entries of each program. -/
def progLens (p : List Byte) : List Nat := (List.range 4).map (fun i => fld p 0x68 (9 * i + 8) (9 * i))

/-- Offsets of the sections: programs, schedule, descriptors, VE instructions, bound values, end. -/
structure Sections where
  sched : Nat
  descs : Nat
  ve : Nat
  bnd : Nat
  fin : Nat
  deriving DecidableEq, Repr

/-- Where the sections of a payload lie. -/
def sectionsOf (p : List Byte) : Sections :=
  let sched := 0x70 + 8 * (progLens p).sum
  let descs := sched + cdiv (2 * fld p 0x10 47 37) 8 * 8
  let ve := descs + 256 * (bitsOf 64 (u64At p 0)).length
  let bnd := ve + 8 * fld p 8 26 13
  { sched := sched, descs := descs, ve := ve, bnd := bnd, fin := bnd + 4 * (bitsOf 32 (fld p 8 63 32)).length }

/-- Program `i`. -/
def progOf (p : List Byte) (i : Nat) : List (BitVec 64) :=
  let off := 0x70 + 8 * ((progLens p).take i).sum
  (List.range ((progLens p).getD i 0)).map (fun k => BitVec.ofNat 64 (u64At p (off + 8 * k)))

/-- The schedule. -/
def schedulePart (p : List Byte) : List (BitVec 16) :=
  (List.range (fld p 0x10 47 37)).map (fun k => BitVec.ofNat 16 (ofBytes (slice p ((sectionsOf p).sched + 2 * k) 2)))

/-- The descriptors supplied, by index. -/
def descsPart (p : List Byte) : List (Nat × List Byte) :=
  (bitsOf 64 (u64At p 0)).zipIdx.map (fun q => (q.1, slice p ((sectionsOf p).descs + 256 * q.2) 256))

/-- The VE instructions supplied, by address. -/
def vePart (p : List Byte) : List (Nat × BitVec 64) :=
  (List.range (fld p 8 26 13)).map (fun k => (fld p 8 12 0 + k, BitVec.ofNat 64 (u64At p ((sectionsOf p).ve + 8 * k))))

/-- The bound values supplied, by register. -/
def bndPart (p : List Byte) : List (Nat × Nat) :=
  (bitsOf 32 (fld p 8 63 32)).zipIdx.map (fun q => (q.1, bits (u32At p ((sectionsOf p).bnd + 4 * q.2)) 23 0))

/-- A DevNum of 0 names the device itself. -/
def ownDev (me dev : Nat) : Nat := if dev = 0 then me else dev

/-- An input. -/
def inPart (p : List Byte) (off me : Nat) : StageIn :=
  if bit (u64At p off) 0 then
    { used := true, slotBytes := 4096 * fld p off 9 1, slotBase := fld p off 31 10, prodDev := ownDev me (fld p off 47 32),
      prodCluster := fld p off 53 48 }
  else {}

/-- An output with the consumers named after it: three credits for each (R151). -/
def outPart (p : List Byte) (off me : Nat) : StageOut :=
  if bit (u64At p off) 0 then
    let n := fld p off 34 32
    let cons : List Consumer := (List.range n).map (fun i =>
      let w := u32At p (off + 8 + 4 * i)
      { dev := ownDev me (bits w 15 0), cluster := bits w 21 16, input := bits w 22 22 })
    { used := true, slotBytes := 4096 * fld p off 9 1, slotBase := fld p off 31 10, consumers := cons, credits := cons.map (fun _ => 3) }
  else {}

/-- The stage of a payload (R131). -/
def stageOf (p : List Byte) (me : Nat) : Stage :=
  { number := fld p 0x10 15 0, storeBase := 0x10000 * fld p 0x10 29 23, storeSize := 0x10000 * fld p 0x10 36 30,
    ins := #v[inPart p 0x28 me, inPart p 0x30 me], outs := #v[outPart p 0x38 me, outPart p 0x50 me],
    inWin := fld p 0x18 53 32, outWin := fld p 0x20 21 0, programs := Vector.ofFn (fun i => progOf p i.val),
    schedule := schedulePart p, planTime := fld p 0x18 31 0 }

/-! ## Checks -/

/-- A refusal of stage.load: status and the two results (R552). -/
abbrev Refused := Nat × Nat × Nat

/-- DESC_INVALID outside a descriptor, by a bit offset in the payload. -/
def badAt (off : Nat) : Refused := (Code.DESC_INVALID, 0xFFFF, off)

/-- DESC_INVALID for a field of a program or schedule entry. -/
def badEntry (rec i off : Nat) : Refused := (Code.DESC_INVALID, 0xFF + place rec 8 + place i 16, off)

/-- The first refusal of a list of checks. -/
def firstRefusal : List (Option Refused) → Option Refused
  | [] => none
  | some e :: _ => some e
  | none :: l => firstRefusal l

/-- A refusal when a condition holds. -/
def refuseIf (c : Bool) (r : Refused) : Option Refused := if c then some r else none

/-- Reserved fields of the fixed part, by 64-bit word. -/
def stageReserved : List (Nat × Nat × Nat) :=
  [(8, 31, 27), (0x10, 63, 48), (0x18, 63, 54), (0x20, 63, 22), (0x28, 63, 54), (0x30, 63, 54), (0x38, 63, 35), (0x50, 63, 35),
   (0x40, 31, 23), (0x40, 63, 55), (0x48, 31, 23), (0x48, 63, 55), (0x58, 31, 23), (0x58, 63, 55), (0x60, 31, 23), (0x60, 63, 55),
   (0x68, 63, 36)]

/-- What an input breaks (R131). -/
def inErr (p : List Byte) (off : Nat) : Option Refused :=
  if !bit (u64At p off) 0 then none
  else firstRefusal [
    refuseIf (fld p off 9 1 < 16 || 256 < fld p off 9 1) (badAt (8 * off + 1)), refuseIf (39 < fld p off 53 48) (badAt (8 * off + 48))]

/-- What an output breaks (R131). -/
def outErr (p : List Byte) (off : Nat) : Option Refused :=
  if !bit (u64At p off) 0 then none
  else
    let n := fld p off 34 32
    firstRefusal [
      refuseIf (fld p off 9 1 < 16 || 256 < fld p off 9 1) (badAt (8 * off + 1)), refuseIf (n = 0 || 4 < n) (badAt (8 * off + 32)),
      (List.range n).findSome? (fun i => refuseIf (39 < bits (u32At p (off + 8 + 4 * i)) 21 16) (badAt (8 * off + 64 + 32 * i + 16)))]

/-- What the fixed part breaks (R131, R132, R570). -/
def State.fixedErr (s : State) (x : Ctx) (p : List Byte) : Option Refused :=
  let c := fld p 0x10 22 17
  let up : Bool := if h : c < 40 then s.clusterUp ⟨c, h⟩ else false
  firstRefusal [
    refuseIf (8192 < fld p 8 12 0 + fld p 8 26 13) (badAt 77), refuseIf (fld p 0x10 16 16 != ctxNo x) (badAt 144),
    refuseIf (!up) (badAt 145), refuseIf (64 < fld p 0x10 29 23 + fld p 0x10 36 30) (badAt 151),
    refuseIf (fld p 0x10 36 30 = 0 || 64 < fld p 0x10 36 30) (badAt 158),
    refuseIf (fld p 0x10 47 37 = 0 || 1024 < fld p 0x10 47 37) (badAt 165),
    inErr p 0x28, inErr p 0x30, outErr p 0x38, outErr p 0x50,
    (List.range 4).findSome? (fun i => refuseIf (256 < (progLens p).getD i 0) (badAt (0x340 + 9 * i)))]

/-- What a program entry breaks (R133); a RUN names a descriptor the payload supplies. -/
def progEntErr (mask i k : Nat) (e : ProgEnt) : Option Refused :=
  let r := 0x30 + i
  firstRefusal [
    refuseIf (e.op = 0 || 4 < e.op) (badEntry r k 0), refuseIf (e.async && e.op != 1) (badEntry r k 8),
    refuseIf (e.rsv != 0) (badEntry r k 9), refuseIf (e.op = 1 && (63 < e.desc || !bit mask e.desc)) (badEntry r k 16)]

/-- What a program breaks (R133, R134). -/
def progErr (p : List Byte) (i : Nat) : Option Refused :=
  let es := (progOf p i).map ProgEnt.of
  firstRefusal [
    es.zipIdx.findSome? (fun q => progEntErr (u64At p 0) i q.2 q.1),
    refuseIf (match es.getLast? with | some e => e.op != 4 | none => false) (badEntry (0x30 + i) (es.length - 1) 0)]

/-- The descriptors a program runs. -/
def progDescs (ds : List (Nat × Desc)) (prog : List (BitVec 64)) : List Desc :=
  (prog.map ProgEnt.of).filterMap (fun e => if e.op = 1 then (ds.find? (fun d => d.1 = e.desc)).map (·.2) else none)

/-- A program reaches an offset of a window at or beyond a number of bytes (R135). -/
def reaches (win len limit : Nat) (ds : List Desc) : Bool :=
  limit < len && ds.any (fun d => d.runs.any (fun r => runsMeet r (win + limit, len - limit)))

/-- What a schedule entry breaks (R135). -/
def schedErr (g : Stage) (ds : List (Nat × Desc)) (k : Nat) (v : BitVec 16) : Option Refused :=
  let (i, pr, o, rsv) := schedOf v
  let inp := if i < 2 then g.ins.toList[i]? else none
  let out := if o < 2 then g.outs.toList[o]? else none
  let prog := g.programs.toList.getD pr []
  let run := progDescs ds prog
  let r := 0x38
  firstRefusal [
    refuseIf (i = 3 || (match inp with | some q => !q.used | none => false)) (badEntry r k 0), refuseIf prog.isEmpty (badEntry r k 2),
    refuseIf (o = 3 || (match out with | some q => !q.used | none => false)) (badEntry r k 4), refuseIf (rsv != 0) (badEntry r k 6),
    refuseIf (match inp with | some q => reaches g.inWin g.inLen q.slotBytes run | none => false) (badEntry r k 0),
    refuseIf (match out with | some q => reaches g.outWin g.outLen q.slotBytes run | none => false) (badEntry r k 4)]

/-- Everything that must fit in the store region (R132): slots, windows and operand regions. -/
def Stage.items (g : Stage) (ds : List Desc) : List (Nat × Nat) :=
  (g.ins.toList.flatMap (fun q => if q.used then [(q.slotBase, 3 * q.slotBytes)] else [])) ++
  (g.outs.toList.flatMap (fun q => if q.used then [(q.slotBase, 2 * q.slotBytes)] else [])) ++
  [(g.inWin, g.inLen), (g.outWin, g.outLen)] ++ ds.flatMap Desc.runs

/-- The shortfall of the region (R132). -/
def Stage.shortfall (g : Stage) (ds : List Desc) : Nat :=
  let l := (g.items ds).filter (fun r => r.2 != 0)
  match (l.map (·.1)).min?, (l.map (fun r => r.1 + r.2)).max? with
  | some lo, some hi => (g.storeBase - lo) + (hi - (g.storeBase + g.storeSize))
  | _, _ => 0

/-- The shortfall of time a stage, or the J0 stage beside it, would have (R156): 0 where all fit. -/
def State.slackOf (s : State) (c : Cl) (x : Ctx) (g : Stage) : Nat :=
  let short (x : Ctx) (plan : Nat) (withJ1 : Bool) : Nat := planShort plan (s.jobs.get x).period withJ1 (s.jobs.get x).diag
  let mine := short x g.planTime (x = .j0 && (s.stage c .j1).isSome)
  if mine != 0 then mine
  else if x = .j1 then (match s.stage c .j0 with | some h => short .j0 h.planTime true | none => 0)
  else 0

/-- The first race of a program (R255): the two descriptors and the first shared byte. -/
def progRace (ds : List (Nat × Desc)) (prog : List (BitVec 64)) : Option (Nat × Nat × Nat) :=
  let get (i : Nat) : Option Desc := (ds.find? (fun d => d.1 = i)).map (·.2)
  (asyncPairs (prog.map ProgEnt.of)).findSome? (fun q =>
    match get q.1, get q.2 with
    | some a, some b => (descRace a b).map (fun o => (min q.1 q.2, max q.1 q.2, o))
    | _, _ => none)

/-- Every check of stage.load after the payload's length and reserved fields. -/
def State.stageErr (s : State) (x : Ctx) (c : Cl) (p : List Byte) : Option Refused :=
  let g := stageOf p s.ident.devNum
  let ds := (descsPart p).map (fun d => (d.1, Desc.of d.2))
  let other : Ctx := if x = .j0 then .j1 else .j0
  match s.fixedErr x p with
  | some e => some e
  | none =>
    firstRefusal [
      (List.range 4).findSome? (progErr p),
      ds.findSome? (fun d => d.2.err.map (fun e => (Code.DESC_INVALID, d.1 + place e.1 8, e.2))),
      g.schedule.zipIdx.findSome? (fun q => schedErr g ds q.2 q.1),
      (let n := g.shortfall (ds.map (·.2)); refuseIf (n != 0) (Code.NO_SPACE, n, 0)),
      refuseIf (match s.stage c other with | some h => runsMeet (g.storeBase, g.storeSize) (h.storeBase, h.storeSize) | none => false)
        (Code.CTX_OVERLAP, 0, 0),
      (let n := s.slackOf c x g; refuseIf (n != 0) (Code.SLACK_SHORT, n, c.val)),
      refuseIf (x = .j1 && ds.any (fun d => d.2.groupLong)) (Code.J1_GROUP_LONG, 0, 0),
      (List.range 4).findSome? (fun i => (progRace ds (g.programs.toList.getD i [])).map (fun q =>
        (Code.DESC_RACE, q.1 + place q.2.1 8 + place i 16 + place i 20, q.2.2)))]

/-! ## The commands -/

/-- A context may change its stages: no boundary applied yet, or halted (R569). -/
def Job.stagesOpen (j : Job) : Bool := !j.begun || j.halted

/-- Operand formats of a descriptor that Foal serves (R569). -/
def foalDesc (b : List Byte) : Bool :=
  let d := Desc.of b
  if d.kind = 4 then d.a.fmt ≤ 1 else [d.a, d.b, d.out, d.aux].all (fun e => e.fmt ≤ 1)

/-- Foal's column for stage.load: C00 to C19, FP32 and BF16 operands. -/
def foalStage (_ : State) (p : List Byte) : Bool := fld p 0x10 22 17 < 20 && (descsPart p).all (fun d => foalDesc d.2)

def specStageLoad : CmdSpec := {
  code := CmdCode.stageLoad, ctx := true, foal := foalStage,
  lenOk := fun p => 0x70 ≤ p.length && p.length = (sectionsOf p).fin, bad := fun p => firstBit p stageReserved }

/-- A stage takes the place of any other of its context on the cluster: its descriptors, VE instructions and bound values
are written. -/
def installStage (s : State) (x : Ctx) (c : Cl) (p : List Byte) : State :=
  let s := dropStage s c x
  s.updSeq c x (fun q => { q with
    stage := some (stageOf p s.ident.devNum),
    descs := (descsPart p).foldl (fun v d => if h : d.1 < 64 then v.set d.1 d.2 h else v) q.descs,
    imem := vePart p ++ q.imem.filter (fun e => !(fld p 8 12 0 ≤ e.1 && e.1 < fld p 8 12 0 + fld p 8 26 13)),
    bnd := (bndPart p).foldl (fun v b => if h : b.1 < 32 then v.set b.1 (BitVec.ofNat 24 b.2) h else v) q.bnd })

/-- STAGE_LOAD (R131, R569, R570). -/
def stageLoad (m : MCmd) (s : State) : State :=
  startCmd specStageLoad m s (fun s =>
    let x := m.jobCtx
    let n := fld m.payload 0x10 22 17
    if !(s.jobs.get x).stagesOpen then answer s specStageLoad.code m Code.STAGE_LIVE
    else if h : n < 40 then
      match s.stageErr x ⟨n, h⟩ m.payload with
      | some e => answer s specStageLoad.code m e.1 e.2.1 e.2.2
      | none => answer (installStage s x ⟨n, h⟩ m.payload) specStageLoad.code m Code.OK
    else badField s specStageLoad.code m 145)

def execStageLoad (m : MCmd) (s : State) : Host.Outcome State Fault Refusal := .next (stageLoad m s)

def specStageUnload : CmdSpec := { code := CmdCode.stageUnload, lenOk := lenIs 8, ctx := true, bad := fun p => firstBit p [(0, 63, 6)] }

/-- STAGE_UNLOAD (R569). -/
def stageUnload (m : MCmd) (s : State) : State :=
  startCmd specStageUnload m s (fun s =>
    let x := m.jobCtx
    let n := fld m.payload 0 5 0
    if !(s.jobs.get x).stagesOpen then answer s specStageUnload.code m Code.STAGE_LIVE
    else if h : n < 40 then answer (dropStage s ⟨n, h⟩ x) specStageUnload.code m Code.OK
    else badField s specStageUnload.code m 0)

def execStageUnload (m : MCmd) (s : State) : Host.Outcome State Fault Refusal := .next (stageUnload m s)

end Sys2Proof.Machine
end

