-- ==== Sys2Proof/Machine/Fetch.lean ====
section
/-! DEFINITION. How commands reach Mule: the fetch turns of the host queues, the management port, and the host's writes to
BAR0 (R538 to R543, R553, R554, R580, R639 to R641). -/

namespace Sys2Proof.Machine

/-! ## Command entries (R539, R540, R566 to R578) -/

/-- The command of a code. -/
def commandOf (code : Nat) : Option (MCmd → State → Host.Outcome State Fault Refusal) :=
  match code with
  | 0x0001 => some execMbxOpen
  | 0x0002 => some execMbxClose
  | 0x0003 => some execMbxNop
  | 0x0004 => some execMbxCancel
  | 0x0101 => some execJobOpen
  | 0x0102 => some execJobStart
  | 0x0103 => some execJobClose
  | 0x0104 => some execJobHalt
  | 0x0105 => some execJobRewind
  | 0x0106 => some execJobQuery
  | 0x0107 => some execBeatPeriod
  | 0x0201 => some execStageLoad
  | 0x0202 => some execStageUnload
  | 0x0301 => some execMemPlace
  | 0x0302 => some execMemFree
  | 0x0303 => some execMemMove
  | 0x0304 => some execMemQuery
  | 0x0305 => some execMemPoolConfig
  | 0x0306 => some execMemLlmConfig
  | 0x0307 => some execMemF2Open
  | 0x0308 => some execMemF2Flush
  | 0x0309 => some execMemF2Close
  | 0x030A => some execMemStreamEst
  | 0x030B => some execMemEncode
  | 0x030C => some execKvSeqDefine
  | 0x030D => some execKvInval
  | 0x030E => some execKvRetry
  | 0x030F => some execKvRingDefine
  | 0x0310 => some execOxDesignate
  | 0x0311 => some execOxRun
  | 0x0312 => some execOxQuery
  | 0x0313 => some execCkptSave
  | 0x0314 => some execCkptRestore
  | 0x0401 => some execFabPortConfig
  | 0x0402 => some execFabRouteLoad
  | 0x0403 => some execFabRouteSwap
  | 0x0404 => some execFabStatus
  | 0x0501 => some execCollDefine
  | 0x0502 => some execCollFuse
  | 0x0503 => some execCollArm
  | 0x0504 => some execCollQuery
  | 0x0505 => some execCollUndefine
  | 0x0601 => some execCntConfig
  | 0x0602 => some execCntCatalog
  | 0x0603 => some execCntFreeze
  | 0x0604 => some execCntRelease
  | 0x0605 => some execCntSnapshot
  | 0x0606 => some execCntLogRead
  | 0x0607 => some execHenWatch
  | 0x0608 => some execHenRelease
  | 0x0609 => some execHenUnwatch
  | 0x0701 => some execMediaOpen
  | 0x0702 => some execMediaFeed
  | 0x0703 => some execMediaRelease
  | 0x0704 => some execMediaClose
  | 0x0705 => some execMediaConfig
  | 0x0801 => some execPwrStatus
  | 0x0802 => some execPwrCapSet
  | 0x0901 => some execFaultPolicy
  | 0x0902 => some execFaultTimeSet
  | 0x0903 => some execFaultCperRead
  | 0x0904 => some execFaultRetireClear
  | 0x0A01 => some execIdRead
  | 0x0A02 => some execIdCapRead
  | 0x0A03 => some execIdAssume
  | 0x0B01 => some execFlashRead
  | 0x0B02 => some execFlashErase
  | 0x0B03 => some execFlashWrite
  | 0x0B04 => some execFlashImageCommit
  | _ => none

/-- A code no command has: refused once the session's checks have passed. -/
def specNone (code : Nat) : CmdSpec := { code := code, lenOk := fun _ => true }

/-- Code of an entry. -/
def entryCode (e : List Byte) : Nat := fld e 0 15 0

/-- The entry's Barrier bit. -/
def entryBarrier (e : List Byte) : Bool := bit (fld e 0 33 33) 0

/-- The payload an entry carries: inline, or as Mule has read it from PayloadAddr. -/
def entryPayload (e read : List Byte) : List Byte :=
  if bit (fld e 0 32 32) 0 then read.take (fld e 8 31 0) else (slice e 0x18 40).take (fld e 8 31 0)

/-- The command of an entry. -/
def entryCmd (q : Fin 16) (e read : List Byte) : MCmd :=
  { q := q, tag := BitVec.ofNat 16 (fld e 0 31 16), ctx := BitVec.ofNat 2 (fld e 0 35 34), barrier := entryBarrier e,
    payload := entryPayload e read, outLen := fld e 8 63 32, outAddr := u64At e 0x10 }

/-- An entry is malformed: a length out of range (BAD_LEN), or a reserved bit or an address that is no multiple of 64
(DESC_INVALID, DEDUCED, log entry 62). -/
def entryErr (e : List Byte) : Nat :=
  let ind := bit (fld e 0 32 32) 0
  if (if ind then 0x1000000 else 40) < fld e 8 31 0 then Code.BAD_LEN
  else if fld e 0 63 36 != 0 || u64At e 0x10 % 64 != 0 || (ind && u64At e 0x18 % 64 != 0) then Code.DESC_INVALID
  else 0

/-- An entry's command starts, or is refused for its own form once its session's checks have passed. -/
def runCommand (e : List Byte) (m : MCmd) (s : State) : Host.Outcome State Fault Refusal :=
  let code := entryCode e
  let err := entryErr e
  let refuse (st : Nat) : Host.Outcome State Fault Refusal :=
    .next (startCmd (specNone code) m s (fun s =>
      answer s code m st (if st = Code.DESC_INVALID then 0xFFFF else 0)))
  match commandOf code with
  | none => refuse Code.BAD_CODE
  | some f => if err != 0 then refuse err else f m s

/-! ## Fetch turns (R543, R553, R554) -/

/-- A host queue holds entries that Mule may fetch (R543). -/
def State.holdsEntry (s : State) (q : Fin 16) : Bool :=
  let k := s.mbx.queues.get q
  q.val != 0 && k.enable && k.fetchIdx != k.cmdDbl && decide (k.outstanding < 2 ^ k.sizeLog2)

/-- The entry at the head of a queue. -/
def headOf (fe : FetchedEntry) (q : Fin 16) : Option (List Byte) := (fe.entries.find? (fun e => e.1 = q)).map (·.2)

/-- Limits and barriers let the head entry start (R554, R556). -/
def State.ready (s : State) (fe : FetchedEntry) (q : Fin 16) : Bool :=
  match headOf fe q with
  | some e => s.mayStart (entryCmd q e [])
  | none => false

/-- The next of some queues after another, round-robin. -/
def nextQueue (qs : List (Fin 16)) (last : Nat) : Option (Fin 16) :=
  (qs.find? (fun q => decide (last < q.val))).or qs.head?

/-- The queue whose turn it is (R553), and whether the turn is of Priority 1. -/
def State.turn (s : State) (fe : FetchedEntry) : Option (Fin 16 × Bool) :=
  let qs := (List.finRange 16).filter (fun q => s.holdsEntry q && s.ready fe q)
  let hi := qs.filter (fun q => (s.mbx.queues.get q).priority)
  let lo := qs.filter (fun q => !(s.mbx.queues.get q).priority)
  if hi.isEmpty || (s.mbx.turns = 3 && !lo.isEmpty) then (nextQueue lo s.mbx.lastLo).map (·, false)
  else (nextQueue hi s.mbx.lastHi).map (·, true)

/-- Queues that hold an entry their limits hold back are held from now on (R557). -/
def holdQueues (s : State) (fe : FetchedEntry) : State :=
  ((List.finRange 16).filter (fun q => s.holdsEntry q && (headOf fe q).isSome && !s.ready fe q)).foldl (fun s q =>
    s.updQueue q (fun k => { k with heldSince := some (k.heldSince.getD s.now), heldLast := some s.now })) s

/-- The entry taken: the indices move on, and the turn is noted. -/
def takeEntry (s : State) (q : Fin 16) (hi : Bool) : State :=
  let s := { s with mbx := { s.mbx with
    turns := (s.mbx.turns + 1) % 4, lastHi := if hi then q.val else s.mbx.lastHi, lastLo := if hi then s.mbx.lastLo else q.val } }
  s.updQueue q (fun k => { k with
    fetchIdx := (k.fetchIdx + 1) % 2 ^ k.sizeLog2, outstanding := k.outstanding + 1, cancelled := k.cancelled.filter (· != k.fetchIdx) })

/-- MBX_FETCH: one turn. A cancelled entry, and every entry of a closing queue, ends with ABORTED (R558). -/
def mbxFetch (fe : FetchedEntry) (s : State) : Host.Outcome State Fault Refusal :=
  if !s.serving then .next s
  else
    let s := holdQueues s fe
    match s.turn fe with
    | none => .next s
    | some (q, hi) =>
      match headOf fe q with
      | none => .next s
      | some e =>
        let k := s.mbx.queues.get q
        let s := if fe.parity then cfgParity s (0x10000 + 0x40 * q.val) else s
        let s := takeEntry s q hi
        let m := { entryCmd q e fe.payload with
          payloadErr := fe.payloadErr, outErr := fe.outErr, answers := fe.answers, answerBytes := fe.answerBytes }
        if k.closing || k.cancelled.contains k.fetchIdx then .next (finishCloses (answer s (entryCode e) m Code.ABORTED))
        else runCommand e m s

def execMbxFetch (fe : FetchedEntry) (s : State) : Host.Outcome State Fault Refusal := mbxFetch fe s

/-! ## The management port (R639 to R641) -/

/-- The port answers (R639). -/
def State.mgmtUp (s : State) : Bool := s.sys.muleUp && (s.power.state = .on || s.power.state = .island)

/-- The 7-bit SMBus address (R639). -/
def State.mgmtAddress (s : State) : Nat := 0x58 + s.pins.mgmtAddr % 8

/-- A transaction of the port: not acknowledged while the port does not answer, or with a bad PEC, which I3C does not send. -/
def transaction (pecOk : Bool) (s : State) (act : State → Host.Outcome State Fault Refusal) : Host.Outcome State Fault Refusal :=
  let nack (s : State) : State := { s with pins := { s.pins with mgmtAck := false, mgmtData := [] } }
  if !s.mgmtUp || !(pecOk || s.pins.dynAddr.isSome) then .next (nack s)
  else act { s with pins := { s.pins with mgmtAck := true, mgmtData := [] } }

/-- MGMT_COMMAND_WRITE (code 0x10): one command at a time; its entry carries no indirection and no OutAddr. -/
def mgmtCommandWrite (pecOk : Bool) (entry : List Byte) (answers : List Nat) (s : State) : Host.Outcome State Fault Refusal :=
  transaction pecOk s (fun s =>
    let refuse (s : State) : State := { s with pins := { s.pins with mgmtAck := false } }
    if entry.length != 64 then .next (refuse s)
    else if s.mbx.q0Busy || s.mbx.q0Resp.isSome then .next (bump (refuse s) { code := Cnt.MBX_BUSY })
    else
      let m := { entryCmd 0 entry [] with outLen := 4096, answers := answers }
      if bit (fld entry 0 32 32) 0 || u64At entry 0x10 != 0 then
        .next (answer s (entryCode entry) m (if q0Code (entryCode entry) then Code.DESC_INVALID else Code.BAD_CODE)
          (if q0Code (entryCode entry) then 0xFFFF else 0))
      else runCommand entry m s)

def execMgmtCommandWrite (pecOk : Bool) (entry : List Byte) (answers : List Nat) (s : State) : Host.Outcome State Fault Refusal :=
  mgmtCommandWrite pecOk entry answers s

/-- MGMT_RESPONSE_READ (code 0x11): the response is read, and Q0 is free again. With no response waiting the bytes are free
(DESIGN CHOICE, log entry 63). -/
def mgmtResponseRead (pecOk : Bool) (s : State) : Host.Outcome State Fault Refusal :=
  transaction pecOk s (fun s =>
    match s.mbx.q0Resp with
    | some r => .next { s with pins := { s.pins with mgmtData := r }, mbx := { s.mbx with q0Resp := none } }
    | none =>
      let odd := (List.range 32).map (fun i => Config.freeByte (s.free + i))
      .next { s with free := s.free + 32, pins := { s.pins with mgmtData := odd } })

def execMgmtResponseRead (pecOk : Bool) (s : State) : Host.Outcome State Fault Refusal := mgmtResponseRead pecOk s

/-- MGMT_OUTPUT_READ (code 0x12). -/
def mgmtOutputRead (pecOk : Bool) (off : BitVec 32) (s : State) : Host.Outcome State Fault Refusal :=
  transaction pecOk s (fun s => .next { s with pins := { s.pins with mgmtData := (s.mbx.q0Out.drop off.toNat).take 240 } })

def execMgmtOutputRead (pecOk : Bool) (off : BitVec 32) (s : State) : Host.Outcome State Fault Refusal := mgmtOutputRead pecOk off s

/-- The status byte (code 0x13). -/
def State.mgmtStatus (s : State) : Nat :=
  b2n s.mbx.q0Busy + place (b2n s.mbx.q0Resp.isSome) 1 + place (b2n (!s.log.collector.isEmpty)) 2 + place (b2n (s.sys.service = .foal)) 3

/-- MGMT_STATUS_READ. -/
def mgmtStatusRead (s : State) : Host.Outcome State Fault Refusal :=
  transaction true s (fun s => .next { s with pins := { s.pins with mgmtData := [BitVec.ofNat 8 s.mgmtStatus] } })

def execMgmtStatusRead (s : State) : Host.Outcome State Fault Refusal := mgmtStatusRead s

/-- MGMT_ADDRESS_ASSIGN (R639): the port moves to I3C. -/
def mgmtAddressAssign (addr : BitVec 7) (s : State) : Host.Outcome State Fault Refusal :=
  transaction true s (fun s => .next { s with pins := { s.pins with dynAddr := some addr.toNat } })

def execMgmtAddressAssign (addr : BitVec 7) (s : State) : Host.Outcome State Fault Refusal := mgmtAddressAssign addr s

/-! ## Writes of the host to BAR0 (R580, R581, R590) -/

/-- REGISTER_WRITE: an aligned 32-bit write of the host. Off drops it (R590); a location with no register is an
unimplemented one (R581), and the registers that have a row of their own act as it says (a reset
samples straps that have not changed). -/
def registerWrite (off : Nat) (v : BitVec 32) (s : State) : State :=
  if (s.regRaw off).isNone then unimplementedAccess { bar4 := false, off := off, isWrite := true, malformed := off % 4 != 0, mule := false } s
  else if guarded.contains off then guardArm false off v s
  else if off = 0x4004 then (if s.completes false 0x4000 v then flashUnlock false v s else complementWrite false off v s)
  else if off = 0x400C then (if s.completes false 0x4008 v then fuseCommit false v s else complementWrite false off v s)
  else if off = 0x0024 then (if s.completes false 0x0020 v then idRoleWrite false v s else complementWrite false off v s)
  else if off = 0x1014 then
    (if s.completes false 0x1010 v then moduleReset false v { beatSrc := s.pins.beatSrc, mgmtAddr := BitVec.ofNat 3 s.pins.mgmtAddr } s
     else complementWrite false off v s)
  else if off = 0x201C then (if s.completes false 0x2018 v then orderlyOff false v s else complementWrite false off v s)
  else if s.sys.service = .off then s
  else if off = 0x2010 then pwrCapWrite v s
  else if off = 0x3000 then evtStatusWrite v s
  else if off = 0x5000 then wideSelLoWrite v false s
  else if 0x10040 ≤ off && off % 0x40 = 0x10 then
    mbxQctlWrite ⟨(off - 0x10000) / 0x40 % 17, Nat.mod_lt _ (by decide)⟩ v s
  else plainWrite s off v

def execRegisterWrite (off : Nat) (v : BitVec 32) (s : State) : Host.Outcome State Fault Refusal := .next (registerWrite off v s)


end Sys2Proof.Machine
end

