-- ==== Sys2Proof/Machine/Row.lean ====
section
/-! DEFINITION. The row instructions: softmax without max subtraction and RMS normalisation (R193 to R198). -/

namespace Sys2Proof.Machine

/-- A row block (R194). -/
structure RowBlk where
  src : Nat
  dst : Nat
  dstScale : Nat
  srcStride : Nat
  dstStride : Nat
  n : Nat
  rows : Nat
  scale : Nat
  srcFmt : Nat
  dstFmt : Nat
  rnd : Nat
  sat : Bool
  stream : Nat
  scaleStride : Nat
  idxBase : Nat
  gain : Nat
  gainUse : Bool
  gainFmt : Nat
  rsv : Nat
  deriving DecidableEq, Repr

/-- The row block 64 bytes hold. -/
def RowBlk.of (b : List Byte) : RowBlk :=
  let f (off hi lo : Nat) : Nat := bits (u32At b off) hi lo
  { src := f 0 21 0, dst := f 4 21 0, dstScale := f 8 21 0, srcStride := f 0xC 15 0, dstStride := f 0xC 31 16,
    n := f 0x10 16 0, rows := f 0x10 21 17, scale := u32At b 0x14, srcFmt := f 0x18 4 0, dstFmt := f 0x18 9 5,
    rnd := f 0x18 11 10, sat := f 0x18 12 12 = 1, stream := f 0x18 20 13, scaleStride := f 0x1C 15 0,
    idxBase := u64At b 0x20, gain := f 0x28 21 0, gainUse := f 0x28 22 22 = 1, gainFmt := f 0x28 27 23,
    rsv := f 0 31 22 + f 4 31 22 + f 8 31 22 + f 0x10 31 22 + f 0x18 31 21 + f 0x1C 31 16 + f 0x28 31 28 +
      ofBytes (slice b 0x2C 20) }

/-- The row block breaks a rule of R194: a reserved bit, format or range. `rms` is VRMS. -/
def RowBlk.illegal (r : RowBlk) (rms : Bool) : Bool :=
  match Fmt.ofCode r.dstFmt with
  | none => true
  | some f => !f.okTst || 1 < r.srcFmt || 2 ≤ r.rnd || r.rsv != 0 || r.n = 0 || 65536 < r.n || r.rows = 0 || 16 < r.rows ||
      (rms && r.gainUse && 1 < r.gainFmt) || (!rms && (r.gainUse || r.gain != 0 || r.gainFmt != 0)) ||
      (!f.isMx && r.dstScale != 0)

/-- Bytes of an element of a source format of a row block: FP32 or BF16. -/
def srcW (fmt : Nat) : Nat := if fmt = 0 then 4 else 2

/-- The byte ranges of a row block: sources, destinations, scales and gain. -/
def RowBlk.ranges (r : RowBlk) (f : Fmt) (rms : Bool) : List (Nat × Nat) :=
  (List.range r.rows).flatMap (fun i =>
    [(r.src + i * r.srcStride, r.n * srcW r.srcFmt), (r.dst + i * r.dstStride, rowBytes f.width r.n)] ++
      (if f.isMx then [(r.dstScale + i * r.scaleStride, cdiv r.n 32)] else [])) ++
    (if rms && r.gainUse then [(r.gain, r.n * srcW r.gainFmt)] else [])

/-- FP32 codes of a row of FP32 or BF16 elements. -/
def rowVals (bs : List Byte) (fmt n : Nat) : List Nat :=
  (List.range n).map (fun j => if fmt = 0 then u32At bs (4 * j) else place (ofBytes (slice bs (2 * j) 2)) 16)

/-- A row's bytes and its scales written (R55 to R59, R182). -/
def putRow (s : State) (c : Cl) (l : Launch) (r : RowBlk) (f : Fmt) (i : Nat) (ys : List Nat) : State × Nat × List (Nat × Byte) :=
  let md (j : Nat) : Rnd := rndOf r.rnd (srRnd (s.srW0 l.ctx) (s.srKey c l.ctx r.stream) (srW2Ve (r.idxBase + i * r.n + j)))
  let at_ := r.dst + i * r.dstStride
  let old := s.csRdW c l.ctx at_ (rowBytes f.width r.n)
  let (bs, sc, note) := storeRow f r.sat md ys old
  let sb := sc.map (BitVec.ofNat 8)
  let s := s.csWrW c l.ctx l.desc.val at_ bs
  let s := if sb.isEmpty then s else s.csWrW c l.ctx l.desc.val (r.dstScale + i * r.scaleStride) sb
  (s, note.nanInt, bs.zipIdx.map (fun (b, k) => (at_ + k, b)) ++ sb.zipIdx.map (fun (b, k) => (r.dstScale + i * r.scaleStride + k, b)))

/-! ## Softmax -/

/-- What one pass over a row of exponent arguments finds: the exponentials, their sum, and whether an argument was out
of range or an addition overflowed. -/
structure SmxPass where
  es : List Nat
  sum : Nat
  events : Nat
  deriving DecidableEq, Repr

/-- Entry `i` of a list of lane values replaced. -/
def bumpLane (l : List (Nat × Nat)) (i e : Nat) : List (Nat × Nat) :=
  l.zipIdx.map (fun p => if p.2 = i then (let r := wxAdd p.1.1 e; (r.1, p.1.2 + b2n r.2)) else p.1)

/-- Step 2 of R193 with an offset: exponentials, accumulation by lane in ascending j, and the tree of R184. -/
def smxPass (zs : List Nat) (cOff : Nat) : SmxPass :=
  let args := zs.map (fun z => if cOff = 0 then z else f32Sub z cOff)
  let es := args.map sfuExp
  let out := (args.filter (fun a => expOutOfRange (FF.fp32.decode a))).length
  let lanes := es.zipIdx.foldl (fun a p => bumpLane a (p.2 % 128) p.1) (List.replicate 128 (0, 0))
  let root := treeReduce (fun (a b : Nat × Nat) => let r := wxAdd a.1 b.1; (r.1, a.2 + b.2 + b2n r.2)) (0, 0) lanes
  { es := es, sum := root.1, events := out + root.2 }

/-- The outcome of a row: FP32 results, WX_RANGE events, a re-run, and a row that stays unresolved (R193). -/
structure SmxRow where
  ys : List Nat
  events : Nat := 0
  rerun : Bool := false
  unresolved : Bool := false
  empty : Nat := 0
  nans : Nat := 0
  deriving DecidableEq, Repr

/-- Step 4 of R193. -/
def smxOut (p : SmxPass) : SmxRow :=
  let qs := p.es.map (fun e => wxQuot e p.sum)
  { ys := qs.map (·.1), events := p.events, empty := (qs.filter (·.2)).length,
    nans := (qs.filter (fun q => (FF.fp32.decode q.1).isNan)).length }

/-- One row of VSMX (R193). A NaN makes every output NaN and never causes a re-run. -/
def smxRow (xs : List Nat) (alpha : Nat) : SmxRow :=
  let zs := xs.map (fun x => f32Mul x alpha)
  let nan := zs.map (fun _ => FF.fp32.nanCode)
  let p := smxPass zs 0
  if zs.any (fun z => (FF.fp32.decode z).isNan) then { ys := nan, events := p.events, nans := zs.length }
  else if p.events = 0 then smxOut p
  else
    match zs.find? (fun z => (FF.fp32.decode z).isFinite) with
    | none => { ys := nan, events := p.events, unresolved := true, nans := zs.length }
    | some c =>
      let q := smxPass zs c
      if q.events = 0 then { smxOut q with events := p.events, rerun := true }
      else { ys := nan, events := p.events + q.events, rerun := true, unresolved := true, nans := zs.length }

/-- The frame of both row instructions: the row block is read and checked, `row` computes each row's results and counts,
and the rows are stored (R194). -/
def rowInstr (rms : Bool) (row : State → RowBlk → List Nat → List Nat × (State → State)) (c : Cl) (t : Th) (u : Upset)
    (s : State) (w : VeW) (th : Thread) (l : Launch) : State :=
  let sa := (th.sreg w.sa).toNat
  if sa % 8 != 0 then veFault s c t .align
  else if (List.range 64).any (fun k => !s.inRegion c l.ctx (sa + k)) then veFault s c t .addrRange
  else
    let r := RowBlk.of (s.csRdW c l.ctx sa 64)
    match Fmt.ofCode r.dstFmt with
    | none => veFault s c t .illegalVe
    | some f =>
      if r.illegal rms then veFault s c t .illegalVe
      else if r.src % 8 != 0 || r.dst % 8 != 0 || r.srcStride % 8 != 0 || r.dstStride % 8 != 0 || (rms && r.gainUse && r.gain % 8 != 0) then
        veFault s c t .align
      else if (r.ranges f rms).any (fun p => !(s.inRegion c l.ctx p.1 && s.inRegion c l.ctx (p.1 + p.2 - 1))) then veFault s c t .addrRange
      else
        let done := (List.range r.rows).foldl (fun (acc : State × Nat × List (Nat × Byte)) i =>
          let s := acc.1
          let xs := rowVals (s.csRdW c l.ctx (r.src + i * r.srcStride) (r.n * srcW r.srcFmt)) r.srcFmt r.n
          let (ys, count) := row s r xs
          let ys := if i = 0 then (match u, ys with
            | .check _ _ flip, y :: rest => (BitVec.ofNat 32 y ^^^ flip).toNat :: rest
            | _, _ => ys) else ys
          if th.suspect then (count s, acc.2.1, acc.2.2)
          else
            let (s, n, o) := putRow (count s) c l r f i ys
            (s, acc.2.1 + n, acc.2.2 ++ o)) (s, 0, [])
        let s := done.1
        let s := bumpC s Cnt.NAN_TO_INT c (some l.ctx) done.2.1
        let s := s.updThread c t (fun k => { k.advance with out := done.2.2.foldl (fun o p => Seen.put o p.1 p.2) k.out })
        let s := capture s th.replay 8 ((sa, 64) :: r.ranges f rms)
        match u with
        | .check st rows _ => veCheck s c t w st rows
        | .none => s
        | u => csUpset s c l.ctx (s.win c l.ctx r.src) u

/-- VSMX's counts and its event, once per command (R193). -/
def smxCount (c : Cl) (l : Launch) (o : SmxRow) (s : State) : State :=
  let x := some l.ctx
  let s := bumpC (bumpC s Cnt.WX_RANGE c x o.events) Cnt.EMPTY_ROW c x o.empty
  let s := bumpC (bumpC s Cnt.SOFTMAX_RERUN c x (b2n o.rerun)) Cnt.VE_NAN c x o.nans
  if !o.unresolved then s
  else
    let s := bumpC s Cnt.SOFTMAX_UNRESOLVED c x
    match s.cmd c l.ctx l.desc with
    | none => s
    | some k =>
      if k.unresolved then s
      else raiseCtx (s.updCmd c l.ctx l.desc (fun k => { k with unresolved := true })) Code.SOFTMAX_UNRESOLVED (some l.ctx) (veUnit c)
        (s.beatNo c l.ctx) l.desc.val

/-- VSMX (R193). -/
def doVsmx (c : Cl) (t : Th) (u : Upset) (s : State) (w : VeW) (th : Thread) (l : Launch) : State :=
  rowInstr false (fun _ r xs => let o := smxRow xs r.scale; (o.ys, smxCount c l o)) c t u s w th l

def execVsmx (c : Cl) (t : Th) (u : Upset) (s : State) : Host.Outcome State Fault Refusal :=
  .next (veRow 0x38 (doVsmx c t u) c t s)

/-! ## RMS normalisation -/

/-- The sum of squares of a row (R196). -/
def rmsSum (xs : List Nat) : Nat :=
  let lanes := xs.zipIdx.foldl (fun (a : List Nat) p => a.modify (p.2 % 128) (fun v => f32Fma p.1 p.1 v)) (List.replicate 128 0)
  treeReduce f32Add 0 lanes

/-- One row of VRMS (R196, R197): results, and whether the sum overflowed from finite inputs. -/
def rmsRow (xs : List Nat) (eps : Nat) (gain : Option (List Nat)) : List Nat × Bool × Bool :=
  let nan := xs.map (fun _ => FF.fp32.nanCode)
  if xs.any (fun x => !(FF.fp32.decode x).isFinite) then (nan, false, true)
  else
    let sm := rmsSum xs
    if (FF.fp32.decode sm).isInf then (nan, true, true)
    else
      let inv := quotCode .fp32 (.num false 1 0) (FVal.ofInt xs.length)
      let q := sfuRsqrt (f32Add (f32Mul sm inv) eps)
      let ys := xs.map (fun x => f32Mul x q)
      let ys := match gain with | some g => ys.zipWith f32Mul g | none => ys
      (ys, false, ys.any (fun y => (FF.fp32.decode y).isNan))

/-- VRMS (R196, R197). -/
def doVrms (c : Cl) (t : Th) (u : Upset) (s : State) (w : VeW) (th : Thread) (l : Launch) : State :=
  rowInstr true (fun s' r xs =>
    let g := if r.gainUse then some (rowVals (s'.csRdW c l.ctx r.gain (r.n * srcW r.gainFmt)) r.gainFmt r.n) else none
    let (ys, far, nan) := rmsRow xs r.scale g
    (ys, fun s => bumpC (bumpC s Cnt.RMS_RANGE c (some l.ctx) (b2n far)) Cnt.VE_NAN c (some l.ctx) (b2n nan))) c t u s w th l

def execVrms (c : Cl) (t : Th) (u : Upset) (s : State) : Host.Outcome State Fault Refusal :=
  .next (veRow 0x39 (doVrms c t u) c t s)

end Sys2Proof.Machine
end

