-- ==== Sys2Proof/Machine/Dispatch.lean ====
section
/-! DEFINITION. One arm for each command: what it does is the meaning its arm calls. -/

namespace Sys2Proof.Machine

def exec (i : Instr) (s : State) : Host.Outcome State Fault Refusal :=
  match i with
  | .tclr c e u => Sys2Proof.Machine.execTclr c e u s
  | .tlda c e u => Sys2Proof.Machine.execTlda c e u s
  | .tldb c e u => Sys2Proof.Machine.execTldb c e u s
  | .mcastLoadRead c mc u => Sys2Proof.Machine.execMcastLoadRead c mc u s
  | .tcrd c e u => Sys2Proof.Machine.execTcrd c e u s
  | .tmma c e u => Sys2Proof.Machine.execTmma c e u s
  | .tmmat c e u => Sys2Proof.Machine.execTmmat c e u s
  | .tst c e u => Sys2Proof.Machine.execTst c e u s
  | .tsync c e u => Sys2Proof.Machine.execTsync c e u s
  | .tsyncToken c e => Sys2Proof.Machine.execTsyncToken c e s
  | .engineReload c e => Sys2Proof.Machine.execEngineReload c e s
  | .steal c e => Sys2Proof.Machine.execSteal c e s
  | .run c x => Sys2Proof.Machine.execRun c x s
  | .setbnd c x => Sys2Proof.Machine.execSetbnd c x s
  | .wait c x => Sys2Proof.Machine.execWait c x s
  | .endProg c x => Sys2Proof.Machine.execEndProg c x s
  | .commandComplete c x d => Sys2Proof.Machine.execCommandComplete c x d s
  | .fusedTileChain c x d => Sys2Proof.Machine.execFusedTileChain c x d s
  | .beat x msg => Sys2Proof.Machine.execBeat x msg s
  | .beatBoundary x => Sys2Proof.Machine.execBeatBoundary x s
  | .beatInEdge highNs => Sys2Proof.Machine.execBeatInEdge highNs s
  | .beatMiss x => Sys2Proof.Machine.execBeatMiss x s
  | .handoverHeaderLand c x inp slot hdr => Sys2Proof.Machine.execHandoverHeaderLand c x inp slot hdr s
  | .slotCredit c x out consumer => Sys2Proof.Machine.execSlotCredit c x out consumer s
  | .slotAck c x out slot consumer => Sys2Proof.Machine.execSlotAck c x out slot consumer s
  | .beatCommit c x => Sys2Proof.Machine.execBeatCommit c x s
  | .overrun c x inp mb => Sys2Proof.Machine.execOverrun c x inp mb s
  | .stepDone x dev => Sys2Proof.Machine.execStepDone x dev s
  | .period x msg => Sys2Proof.Machine.execPeriod x msg s
  | .periodTimeout x => Sys2Proof.Machine.execPeriodTimeout x s
  | .veLaunch c => Sys2Proof.Machine.execVeLaunch c s
  | .vadd c t u => Sys2Proof.Machine.execVadd c t u s
  | .vsub c t u => Sys2Proof.Machine.execVsub c t u s
  | .vmul c t u => Sys2Proof.Machine.execVmul c t u s
  | .vfma c t u => Sys2Proof.Machine.execVfma c t u s
  | .vmin c t u => Sys2Proof.Machine.execVmin c t u s
  | .vmax c t u => Sys2Proof.Machine.execVmax c t u s
  | .vcmp c t u => Sys2Proof.Machine.execVcmp c t u s
  | .vsel c t u => Sys2Proof.Machine.execVsel c t u s
  | .vaddw c t u => Sys2Proof.Machine.execVaddw c t u s
  | .vmulw c t u => Sys2Proof.Machine.execVmulw c t u s
  | .vnrmw c t u => Sys2Proof.Machine.execVnrmw c t u s
  | .vcvtw c t u => Sys2Proof.Machine.execVcvtw c t u s
  | .vcvtf c t u => Sys2Proof.Machine.execVcvtf c t u s
  | .vaddi c t u => Sys2Proof.Machine.execVaddi c t u s
  | .vaddl c t u => Sys2Proof.Machine.execVaddl c t u s
  | .vlogi c t u => Sys2Proof.Machine.execVlogi c t u s
  | .vcvti c t u => Sys2Proof.Machine.execVcvti c t u s
  | .vred c t u => Sys2Proof.Machine.execVred c t u s
  | .vredw c t u => Sys2Proof.Machine.execVredw c t u s
  | .vrmax c t u => Sys2Proof.Machine.execVrmax c t u s
  | .vfirstf c t u => Sys2Proof.Machine.execVfirstf c t u s
  | .vperm c t u => Sys2Proof.Machine.execVperm c t u s
  | .vbcast c t u => Sys2Proof.Machine.execVbcast c t u s
  | .vsfu c t u => Sys2Proof.Machine.execVsfu c t u s
  | .sfuGrant c => Sys2Proof.Machine.execSfuGrant c s
  | .vsmx c t u => Sys2Proof.Machine.execVsmx c t u s
  | .vrms c t u => Sys2Proof.Machine.execVrms c t u s
  | .vld c t u => Sys2Proof.Machine.execVld c t u s
  | .vst c t u => Sys2Proof.Machine.execVst c t u s
  | .vgath c t u => Sys2Proof.Machine.execVgath c t u s
  | .vscat c t u => Sys2Proof.Machine.execVscat c t u s
  | .vfence c t u => Sys2Proof.Machine.execVfence c t u s
  | .smovi c t u => Sys2Proof.Machine.execSmovi c t u s
  | .sadd c t u => Sys2Proof.Machine.execSadd c t u s
  | .smul c t u => Sys2Proof.Machine.execSmul c t u s
  | .br c t u => Sys2Proof.Machine.execBr c t u s
  | .veSetbnd c t u => Sys2Proof.Machine.execVeSetbnd c t u s
  | .vrange c t u => Sys2Proof.Machine.execVrange c t u s
  | .vend c t u => Sys2Proof.Machine.execVend c t u s
  | .cacheFill c line u => Sys2Proof.Machine.execCacheFill c line u s
  | .attentionBlockStep c x d far u => Sys2Proof.Machine.execAttentionBlockStep c x d far u s
  | .attentionBackwardStep c x d far u => Sys2Proof.Machine.execAttentionBackwardStep c x d far u s
  | .ponyWalk c x seq va write pref => Sys2Proof.Machine.execPonyWalk c x seq va write pref s
  | .ringStepEnd x ring => Sys2Proof.Machine.execRingStepEnd x ring s
  | .transferRequestIssue c x d => Sys2Proof.Machine.execTransferRequestIssue c x d s
  | .mcastFetchIssue c x d => Sys2Proof.Machine.execMcastFetchIssue c x d s
  | .requestReturn c x d req remote status => Sys2Proof.Machine.execRequestReturn c x d req remote status s
  | .transferResume c x d => Sys2Proof.Machine.execTransferResume c x d s
  | .hbmRead addr len unit err => Sys2Proof.Machine.execHbmRead addr len unit err s
  | .hbmWrite addr data unit err => Sys2Proof.Machine.execHbmWrite addr data unit err s
  | .channelRetire ch => Sys2Proof.Machine.execChannelRetire ch s
  | .scrubGranule ch errs => Sys2Proof.Machine.execScrubGranule ch errs s
  | .scrubForced ch errs => Sys2Proof.Machine.execScrubForced ch errs s
  | .scrubPositionSave => Sys2Proof.Machine.execScrubPositionSave s
  | .nmAdd addr type operand ret party err => Sys2Proof.Machine.execNmAdd addr type operand ret party err s
  | .llmAccess addr len data ctx err => Sys2Proof.Machine.execLlmAccess addr len data ctx err s
  | .moveStart handle => Sys2Proof.Machine.execMoveStart handle s
  | .moveComplete handle data err => Sys2Proof.Machine.execMoveComplete handle data err s
  | .anchorRecall addr x => Sys2Proof.Machine.execAnchorRecall addr x s
  | .bar2Read off len => Sys2Proof.Machine.execBar2Read off len s
  | .bar2Write off data => Sys2Proof.Machine.execBar2Write off data s
  | .bar2HoldTimeout => Sys2Proof.Machine.execBar2HoldTimeout s
  | .codecEncodeSlot h => Sys2Proof.Machine.execCodecEncodeSlot h s
  | .codecDecodeSlot h => Sys2Proof.Machine.execCodecDecodeSlot h s
  | .linkTrainingStart p => Sys2Proof.Machine.execLinkTrainingStart p s
  | .negotiationRecord p r => Sys2Proof.Machine.execNegotiationRecord p r s
  | .flitReceive p f => Sys2Proof.Machine.execFlitReceive p f s
  | .linkFault p cause => Sys2Proof.Machine.execLinkFault p cause s
  | .retrainAttemptEnd p ok lanes => Sys2Proof.Machine.execRetrainAttemptEnd p ok lanes s
  | .packetForward p k => Sys2Proof.Machine.execPacketForward p k s
  | .packetReceive p k => Sys2Proof.Machine.execPacketReceive p k s
  | .tAck peer cls epoch seq => Sys2Proof.Machine.execTAck peer cls epoch seq s
  | .tNak peer cls epoch seq => Sys2Proof.Machine.execTNak peer cls epoch seq s
  | .tAckTimer peer cls => Sys2Proof.Machine.execTAckTimer peer cls s
  | .retransmitTimeout peer cls => Sys2Proof.Machine.execRetransmitTimeout peer cls s
  | .flowContextClose isSource peer cls => Sys2Proof.Machine.execFlowContextClose isSource peer cls s
  | .load k => Sys2Proof.Machine.execLoad k s
  | .store k => Sys2Proof.Machine.execStore k s
  | .add k => Sys2Proof.Machine.execAdd k s
  | .readBulk k => Sys2Proof.Machine.execReadBulk k s
  | .loadData k => Sys2Proof.Machine.execLoadData k s
  | .done k => Sys2Proof.Machine.execDone k s
  | .readData k => Sys2Proof.Machine.execReadData k s
  | .write k => Sys2Proof.Machine.execWrite k s
  | .drain k => Sys2Proof.Machine.execDrain k s
  | .drainRet k => Sys2Proof.Machine.execDrainRet k s
  | .heartbeatSend => Sys2Proof.Machine.execHeartbeatSend s
  | .heartbeat dev => Sys2Proof.Machine.execHeartbeat dev s
  | .heartbeatTimeout dev => Sys2Proof.Machine.execHeartbeatTimeout dev s
  | .faultNotice dev => Sys2Proof.Machine.execFaultNotice dev s
  | .fabCongest p vc => Sys2Proof.Machine.execFabCongest p vc s
  | .mule msg => Sys2Proof.Machine.execMule msg s
  | .freeze sender r => Sys2Proof.Machine.execFreeze sender r s
  | .collTrigger x group inst => Sys2Proof.Machine.execCollTrigger x group inst s
  | .collPacket src x payload u => Sys2Proof.Machine.execCollPacket src x payload u s
  | .collTimeout x group inst => Sys2Proof.Machine.execCollTimeout x group inst s
  | .oxGranule ch fails => Sys2Proof.Machine.execOxGranule ch fails s
  | .localReplay item => Sys2Proof.Machine.execLocalReplay item s
  | .replayComplete item => Sys2Proof.Machine.execReplayComplete item s
  | .refereePackage src item => Sys2Proof.Machine.execRefereePackage src item s
  | .refereeRunEnd digest => Sys2Proof.Machine.execRefereeRunEnd digest s
  | .refereeResult item r => Sys2Proof.Machine.execRefereeResult item r s
  | .refereeReoffer item => Sys2Proof.Machine.execRefereeReoffer item s
  | .refereeLost item => Sys2Proof.Machine.execRefereeLost item s
  | .gooseFail => Sys2Proof.Machine.execGooseFail s
  | .testGranule pass => Sys2Proof.Machine.execTestGranule pass s
  | .testOverdue c => Sys2Proof.Machine.execTestOverdue c s
  | .cperSummary => Sys2Proof.Machine.execCperSummary s
  | .faultLogWrite => Sys2Proof.Machine.execFaultLogWrite s
  | .mediaFrameDecode f => Sys2Proof.Machine.execMediaFrameDecode f s
  | .mediaConceal stream => Sys2Proof.Machine.execMediaConceal stream s
  | .mediaOverload stream => Sys2Proof.Machine.execMediaOverload stream s
  | .mbxFetch e => Sys2Proof.Machine.execMbxFetch e s
  | .cmdSlow => Sys2Proof.Machine.execCmdSlow s
  | .mbxOverload q => Sys2Proof.Machine.execMbxOverload q s
  | .msixCoalesce q => Sys2Proof.Machine.execMsixCoalesce q s
  | .dblCmd q index => Sys2Proof.Machine.execDblCmd q index s
  | .dblCpl q index => Sys2Proof.Machine.execDblCpl q index s
  | .dblEvt index => Sys2Proof.Machine.execDblEvt index s
  | .pcieReset => Sys2Proof.Machine.execPcieReset s
  | .mbxOpen m => Sys2Proof.Machine.execMbxOpen m s
  | .mbxClose m => Sys2Proof.Machine.execMbxClose m s
  | .mbxNop m => Sys2Proof.Machine.execMbxNop m s
  | .mbxCancel m => Sys2Proof.Machine.execMbxCancel m s
  | .jobOpen m => Sys2Proof.Machine.execJobOpen m s
  | .jobStart m => Sys2Proof.Machine.execJobStart m s
  | .jobClose m => Sys2Proof.Machine.execJobClose m s
  | .jobHalt m => Sys2Proof.Machine.execJobHalt m s
  | .jobRewind m => Sys2Proof.Machine.execJobRewind m s
  | .jobQuery m => Sys2Proof.Machine.execJobQuery m s
  | .beatPeriod m => Sys2Proof.Machine.execBeatPeriod m s
  | .stageLoad m => Sys2Proof.Machine.execStageLoad m s
  | .stageUnload m => Sys2Proof.Machine.execStageUnload m s
  | .memPlace m => Sys2Proof.Machine.execMemPlace m s
  | .memFree m => Sys2Proof.Machine.execMemFree m s
  | .memMove m => Sys2Proof.Machine.execMemMove m s
  | .memQuery m => Sys2Proof.Machine.execMemQuery m s
  | .memPoolConfig m => Sys2Proof.Machine.execMemPoolConfig m s
  | .memLlmConfig m => Sys2Proof.Machine.execMemLlmConfig m s
  | .memF2Open m => Sys2Proof.Machine.execMemF2Open m s
  | .memF2Flush m => Sys2Proof.Machine.execMemF2Flush m s
  | .memF2Close m => Sys2Proof.Machine.execMemF2Close m s
  | .memStreamEst m => Sys2Proof.Machine.execMemStreamEst m s
  | .memEncode m => Sys2Proof.Machine.execMemEncode m s
  | .kvSeqDefine m => Sys2Proof.Machine.execKvSeqDefine m s
  | .kvInval m => Sys2Proof.Machine.execKvInval m s
  | .kvRetry m => Sys2Proof.Machine.execKvRetry m s
  | .kvRingDefine m => Sys2Proof.Machine.execKvRingDefine m s
  | .oxDesignate m => Sys2Proof.Machine.execOxDesignate m s
  | .oxRun m => Sys2Proof.Machine.execOxRun m s
  | .oxQuery m => Sys2Proof.Machine.execOxQuery m s
  | .ckptSave m => Sys2Proof.Machine.execCkptSave m s
  | .ckptRestore m => Sys2Proof.Machine.execCkptRestore m s
  | .fabPortConfig m => Sys2Proof.Machine.execFabPortConfig m s
  | .fabRouteLoad m => Sys2Proof.Machine.execFabRouteLoad m s
  | .fabRouteSwap m => Sys2Proof.Machine.execFabRouteSwap m s
  | .fabStatus m => Sys2Proof.Machine.execFabStatus m s
  | .collDefine m => Sys2Proof.Machine.execCollDefine m s
  | .collFuse m => Sys2Proof.Machine.execCollFuse m s
  | .collArm m => Sys2Proof.Machine.execCollArm m s
  | .collQuery m => Sys2Proof.Machine.execCollQuery m s
  | .collUndefine m => Sys2Proof.Machine.execCollUndefine m s
  | .cntConfig m => Sys2Proof.Machine.execCntConfig m s
  | .cntCatalog m => Sys2Proof.Machine.execCntCatalog m s
  | .cntFreeze m => Sys2Proof.Machine.execCntFreeze m s
  | .cntRelease m => Sys2Proof.Machine.execCntRelease m s
  | .cntSnapshot m => Sys2Proof.Machine.execCntSnapshot m s
  | .cntLogRead m => Sys2Proof.Machine.execCntLogRead m s
  | .henWatch m => Sys2Proof.Machine.execHenWatch m s
  | .henRelease m => Sys2Proof.Machine.execHenRelease m s
  | .henUnwatch m => Sys2Proof.Machine.execHenUnwatch m s
  | .mediaOpen m => Sys2Proof.Machine.execMediaOpen m s
  | .mediaFeed m => Sys2Proof.Machine.execMediaFeed m s
  | .mediaRelease m => Sys2Proof.Machine.execMediaRelease m s
  | .mediaClose m => Sys2Proof.Machine.execMediaClose m s
  | .mediaConfig m => Sys2Proof.Machine.execMediaConfig m s
  | .pwrStatus m => Sys2Proof.Machine.execPwrStatus m s
  | .pwrCapSet m => Sys2Proof.Machine.execPwrCapSet m s
  | .faultPolicy m => Sys2Proof.Machine.execFaultPolicy m s
  | .faultTimeSet m => Sys2Proof.Machine.execFaultTimeSet m s
  | .faultCperRead m => Sys2Proof.Machine.execFaultCperRead m s
  | .faultRetireClear m => Sys2Proof.Machine.execFaultRetireClear m s
  | .idRead m => Sys2Proof.Machine.execIdRead m s
  | .idCapRead m => Sys2Proof.Machine.execIdCapRead m s
  | .idAssume m => Sys2Proof.Machine.execIdAssume m s
  | .flashRead m => Sys2Proof.Machine.execFlashRead m s
  | .flashErase m => Sys2Proof.Machine.execFlashErase m s
  | .flashWrite m => Sys2Proof.Machine.execFlashWrite m s
  | .flashImageCommit m => Sys2Proof.Machine.execFlashImageCommit m s
  | .registerWrite off v => Sys2Proof.Machine.execRegisterWrite off v s
  | .unimplementedAccess a => Sys2Proof.Machine.execUnimplementedAccess a s
  | .guardArm mule off v => Sys2Proof.Machine.execGuardArm mule off v s
  | .guardExpire mule => Sys2Proof.Machine.execGuardExpire mule s
  | .moduleReset mule v straps => Sys2Proof.Machine.execModuleReset mule v straps s
  | .orderlyOff mule v => Sys2Proof.Machine.execOrderlyOff mule v s
  | .flashUnlock mule v => Sys2Proof.Machine.execFlashUnlock mule v s
  | .fuseCommit mule v => Sys2Proof.Machine.execFuseCommit mule v s
  | .idRoleWrite mule v => Sys2Proof.Machine.execIdRoleWrite mule v s
  | .evtStatusWrite v => Sys2Proof.Machine.execEvtStatusWrite v s
  | .pwrCapWrite v => Sys2Proof.Machine.execPwrCapWrite v s
  | .wideSelLoWrite v parity => Sys2Proof.Machine.execWideSelLoWrite v parity s
  | .wideFetchDone => Sys2Proof.Machine.execWideFetchDone s
  | .mbxQctlWrite ring v => Sys2Proof.Machine.execMbxQctlWrite ring v s
  | .powerGood straps => Sys2Proof.Machine.execPowerGood straps s
  | .muleStart => Sys2Proof.Machine.execMuleStart s
  | .foalEntry => Sys2Proof.Machine.execFoalEntry s
  | .hbmTrainingDone failed => Sys2Proof.Machine.execHbmTrainingDone failed s
  | .serviceFull failed => Sys2Proof.Machine.execServiceFull failed s
  | .inputLoss => Sys2Proof.Machine.execInputLoss s
  | .inputOvervoltage => Sys2Proof.Machine.execInputOvervoltage s
  | .converterFault => Sys2Proof.Machine.execConverterFault s
  | .thermalTrip sensor => Sys2Proof.Machine.execThermalTrip sensor s
  | .powerManagerTick p10 withhold parity => Sys2Proof.Machine.execPowerManagerTick p10 withhold parity s
  | .thermalLimitTick => Sys2Proof.Machine.execThermalLimitTick s
  | .holdupSample mv => Sys2Proof.Machine.execHoldupSample mv s
  | .telemetrySample t => Sys2Proof.Machine.execTelemetrySample t s
  | .perstAssert => Sys2Proof.Machine.execPerstAssert s
  | .perstDeassert => Sys2Proof.Machine.execPerstDeassert s
  | .freezeIn highNs => Sys2Proof.Machine.execFreezeIn highNs s
  | .mgmtCommandWrite pecOk entry answers => Sys2Proof.Machine.execMgmtCommandWrite pecOk entry answers s
  | .mgmtResponseRead pecOk => Sys2Proof.Machine.execMgmtResponseRead pecOk s
  | .mgmtOutputRead pecOk off => Sys2Proof.Machine.execMgmtOutputRead pecOk off s
  | .mgmtStatusRead => Sys2Proof.Machine.execMgmtStatusRead s
  | .mgmtAddressAssign addr => Sys2Proof.Machine.execMgmtAddressAssign addr s
  | .jtagInstruction j => Sys2Proof.Machine.execJtagInstruction j s
  | .lanesLocked p lanes => Sys2Proof.Machine.execLanesLocked p lanes s
  | .negotiationRecordSend p => Sys2Proof.Machine.execNegotiationRecordSend p s
  | .retrainAttemptStart p => Sys2Proof.Machine.execRetrainAttemptStart p s
  | .ff2Response p r => Sys2Proof.Machine.execFf2Response p r s
  | .complementWrite mule off v => Sys2Proof.Machine.execComplementWrite mule off v s
  | .fabricHoldExpiry => Sys2Proof.Machine.execFabricHoldExpiry s
  | .muleSramUe => Sys2Proof.Machine.execMuleSramUe s
  | .flashOpDone verified => Sys2Proof.Machine.execFlashOpDone verified s
  | .islandStop => Sys2Proof.Machine.execIslandStop s

end Sys2Proof.Machine
end

