-- ==== Sys2Proof/Machine/Step.lean ====
section
/-! DEFINITION. One step: the command at the front of the queue, or, with no command waiting, one nanosecond
(DESIGN CHOICE, log entry 1). -/

namespace Sys2Proof.Machine

/-- Takes the front command and runs it on the state with the queue's rest; with an empty queue the block
lets one nanosecond pass, and a kv.inval whose accesses have ended completes. -/
def step (s : State) : Host.Outcome State Fault Refusal :=
  match s.pending with
  | [] => .next (finishInvals (tick s))
  | i :: rest => exec i { s with pending := rest }

/-- `s` with the command a word spells put at the front of its queue. -/
def State.withFetchWord (s : State) (nbits w : Nat) : State :=
  match decodeTableWord nbits w with
  | some i => { s with pending := i :: s.pending }
  | none => s

end Sys2Proof.Machine
end

