-- ==== Sys2Proof/Safety.lean ====
section
/-! DEFINITION. What statements about every state take for granted of a sound one: the stored bytes are in canonical form, and
the software-visible registers keep the relations the manual gives them. -/

namespace Sys2Proof.Machine

/-- Every stored memory is in its canonical form. -/
def State.memOk (s : State) : Prop :=
  Mem.wf 0 s.mem.mem = true ∧ Mem.wf 0 s.mbx.hostMem = true ∧ Mem.wf 0xFF s.ident.flash = true ∧
    ∀ c : Cl, Mem.wf 0 (s.clusters.get c).store = true

/-- The event registers (R599, R600): with nothing to acknowledge, no summary bit is set. -/
def State.evtOk (s : State) : Prop := s.regs.evtStatus = 0 → s.regs.evtSummary = 0

/-- The wide-value mailbox (R605): data words read 0 until Valid, and no fetch is in progress once it is set. -/
def State.wideOk (s : State) : Prop :=
  (s.regs.wideValid = false → s.regs.wideError = false ∧ s.regs.wideData = Vector.replicate 4 0) ∧
    (s.regs.wideFetch.isSome = true → s.regs.wideValid = false)

/-- The power cap stays in its range (R618). -/
def State.capOk (s : State) : Prop := 600 ≤ s.power.cap ∧ s.power.cap ≤ 1250

/-! ## What a command leaves beside its own effect -/

/-- A command answers a state, but for the counters and the freezes and packets they trigger (R516, R521). -/
def Answers (o : Host.Outcome State Fault Refusal) (s' : State) : Prop :=
  ∃ obs fab, o = .next { s' with obs := obs, fab := fab }

/-- A command answers a state, but for what events, fault records and responses change: the counters, the fabric, the event
registers, the mailbox and the fault log. -/
def Reports (o : Host.Outcome State Fault Refusal) (s' : State) : Prop :=
  ∃ obs fab regs mbx log, o = .next { s' with obs := obs, fab := fab, regs := regs, mbx := mbx, log := log }

/-- A command answers a next state with a property. -/
def Leaves (o : Host.Outcome State Fault Refusal) (P : State → Prop) : Prop := ∃ s', o = .next s' ∧ P s'

/-- A command answers a state, but for its counters and its fabric, of which `P` holds. -/
def Fabs (o : Host.Outcome State Fault Refusal) (s' : State) (P : Fabric → Prop) : Prop :=
  ∃ obs fab, o = .next { s' with obs := obs, fab := fab } ∧ P fab

/-- Nothing counted or raised triggers a freeze (R521, R523). -/
def State.calm (s : State) : Prop :=
  s.obs.freezeOn = 0 ∧ ∀ i, (s.obs.pcs.get i).used = true → (s.obs.pcs.get i).mode ≠ 2

/-- One byte of device-local memory. -/
def State.byte (s : State) (a : Nat) : Byte := Mem.get 0 s.mem.mem a

/-! ## Matrix engines -/

/-- An engine in service stands at a legal instruction `q` of its queue (R69, R86, R87). -/
structure EngineReady (s : State) (c : Cl) (e : En) (q : QEntry) (qs : List QEntry) : Prop where
  up : s.clusterUp c = true
  serving : ((s.clusters.get c).engines.get e).fenced = false
  running : ((s.clusters.get c).engines.get e).stopped = none
  head : ((s.clusters.get c).engines.get e).queue = q :: qs
  legal : illegal ((s.clusters.get c).engines.get e) q.word = none

/-- The state in which `f` has changed one engine, the instruction and what it read captured where it belongs to a replay (R457). -/
def issued (s : State) (c : Cl) (e : En) (q : QEntry) (reads : List (Nat × Nat)) (f : Engine → Engine) : State :=
  capture (s.updEngine c e f) q.replay 16 reads

/-! ## Vector engine -/

/-- A thread of a cluster's vector engine. -/
def State.thread (s : State) (c : Cl) (t : Th) : Thread := (s.clusters.get c).threads.get t

/-- A thread runs a launch, waits for nothing, and its next instruction has the fields `w` (R168, R169, R172). -/
structure VeReady (s : State) (c : Cl) (t : Th) (l : Launch) (w : VeW) : Prop where
  up : s.clusterUp c = true
  active : (s.thread c t).active = true
  launch : (s.thread c t).launch = some l
  ready : (s.thread c t).waiting = false
  inside : (s.thread c t).pc < imemSize
  word : VeW.of (((s.clusters.get c).seq.get l.ctx).fetch (s.thread c t).pc) = w

/-- The state in which one thread is `k`, its instruction and what it read captured where it runs a replay (R457). -/
def ran (s : State) (c : Cl) (t : Th) (k : Thread) (reads : List (Nat × Nat) := []) : State :=
  capture (s.updThread c t (fun _ => k)) (s.thread c t).replay 8 reads

/-- The thread has gone on by one instruction with register `d` taking `f` in the lanes of `m`, every other lane and register
as it was (R178), and the range flags of the lanes `g` set (R191). -/
def Lanes (th k : Thread) (d : Nat) (m : BitVec 128) (f : Fin 128 → BitVec 32) (g : Fin 128 → Bool) : Prop :=
  (∃ v r, k = { th with v := v, range := r, pc := th.pc + 1 }) ∧
    (∀ (r : Nat) (i : Fin 128), (k.vreg r).get i = if r = d ∧ m.getLsbD i.val = true then f i else (th.vreg r).get i) ∧
    ∀ i : Fin 128, k.range.getLsbD i.val = (th.range.getLsbD i.val || (m.getLsbD i.val && g i))

/-- The thread has gone on by one instruction with scalar register `d` holding `v`; S0 keeps reading 0 (R167). -/
def SetsScalar (th k : Thread) (d : Nat) (v : BitVec 64) : Prop :=
  (∃ sv, k = { th with s := sv, pc := th.pc + 1 }) ∧ ∀ r : Nat, k.sreg r = if r = d ∧ r ≠ 0 then v else th.sreg r

/-- The thread has gone on by one instruction with bit `i` of mask `d` set to `f i` in the lanes of `m`; M0 keeps reading ones
(R167, R178). -/
def SetsMask (th k : Thread) (d : Nat) (m : BitVec 128) (f : Fin 128 → Bool) : Prop :=
  (∃ mv, k = { th with m := mv, pc := th.pc + 1 }) ∧
    ∀ (r : Nat) (i : Fin 128), (k.mreg r).getLsbD i.val =
      if r = d ∧ r ≠ 0 ∧ m.getLsbD i.val = true then f i else (th.mreg r).getLsbD i.val

/-! ## Transfers -/

/-- The first `n` requests that have not been issued, issued at their own addresses (R246). -/
def issueFirst : Nat → List XReq → List XReq
  | 0, rs => rs
  | _, [] => []
  | n + 1, r :: rs => if r.st = 0 then { r with st := 1, phys := r.ext } :: issueFirst n rs else r :: issueFirst (n + 1) rs

/-! ## Mailbox commands -/

/-- The mailbox commands, each with what the tables say of it (R538, R566 to R578). -/
def commands (m : MCmd) : List (CmdSpec × Instr) :=
  [(specOpen, .mbxOpen m), (specClose, .mbxClose m), (specNop, .mbxNop m), (specCancel, .mbxCancel m),
   (specJobOpen, .jobOpen m), (specJobStart, .jobStart m), (specJobClose, .jobClose m), (specJobHalt, .jobHalt m),
   (specJobRewind, .jobRewind m), (specJobQuery, .jobQuery m), (specBeatPeriod, .beatPeriod m),
   (specStageLoad, .stageLoad m)] ++
  [(specStageUnload, .stageUnload m), (specMemPlace, .memPlace m), (specMemFree, .memFree m), (specMemMove, .memMove m),
   (specMemQuery, .memQuery m), (specPoolConfig, .memPoolConfig m), (specLlmConfig, .memLlmConfig m),
   (specF2Open, .memF2Open m), (specF2Flush, .memF2Flush m), (specF2Close, .memF2Close m), (specStreamEst, .memStreamEst m),
   (specEncode, .memEncode m)] ++
  [(specSeqDefine, .kvSeqDefine m), (specInval, .kvInval m), (specRetry, .kvRetry m), (specRingDefine, .kvRingDefine m),
   (specOxDesignate, .oxDesignate m), (specOxRun, .oxRun m), (specOxQuery, .oxQuery m), (specCkptSave, .ckptSave m),
   (specCkptRestore, .ckptRestore m), (specPortConfig, .fabPortConfig m), (specRouteLoad, .fabRouteLoad m),
   (specRouteSwap, .fabRouteSwap m)] ++
  [(specFabStatus, .fabStatus m), (specCollDefine, .collDefine m), (specCollFuse, .collFuse m), (specCollArm, .collArm m),
   (specCollQuery, .collQuery m), (specCollUndefine, .collUndefine m), (specCntConfig, .cntConfig m),
   (specCntCatalog, .cntCatalog m), (specCntFreeze, .cntFreeze m), (specCntRelease, .cntRelease m),
   (specCntSnapshot, .cntSnapshot m), (specCntLogRead, .cntLogRead m)] ++
  [(specHenWatch, .henWatch m), (specHenRelease, .henRelease m), (specHenUnwatch, .henUnwatch m),
   (specMediaOpen, .mediaOpen m), (specMediaFeed, .mediaFeed m), (specMediaRelease, .mediaRelease m),
   (specMediaClose, .mediaClose m), (specMediaConfig, .mediaConfig m), (specPwrStatus, .pwrStatus m),
   (specCapSet, .pwrCapSet m), (specPolicy, .faultPolicy m), (specTimeSet, .faultTimeSet m)] ++
  [(specCperRead, .faultCperRead m), (specRetireClear, .faultRetireClear m), (specIdRead, .idRead m),
   (specCapRead, .idCapRead m), (specAssume, .idAssume m), (specFlashRead, .flashRead m), (specFlashErase, .flashErase m),
   (specFlashWrite, .flashWrite m), (specImageCommit, .flashImageCommit m)]

/-- Nothing that every command meets at its start turns command `m` of table row `sp` away (R538 to R540, R548 to R556, R562). -/
structure Starts (sp : CmdSpec) (m : MCmd) (s : State) : Prop where
  may : s.canStart m = true
  session : s.sessionErr sp m = 0
  payload : m.payloadErr = false
  length : sp.lenOk m.payload = true
  foal : s.sys.service = .foal → m.q.val ≠ 0 → sp.foal s m.payload = true
  context : m.ctx ≠ 3
  fields : sp.bad m.payload = none
  job : sp.ctx = true → ∃ x, m.ctxt = some x ∧ (s.jobs.get x).isOpen = true

end Sys2Proof.Machine
end

