-- ==== Sys2Proof/Certificates/Slice0/Obligations.lean ====
section
/-! DEFINITION. The statements for the provers, in the order of the command table's families. -/

open Sys2Proof Sys2Proof.Machine

/-- A step with a command at the front of the queue is that command's meaning on the state with the queue's rest; with none waiting, one
nanosecond passes (the model's choice, log entry 1), and no memory, job or started command changes. -/
def Obligations.StepRunsFront : Prop :=
  (∀ (c : Instr) (q : List Instr) (s : State), step { s with pending := c :: q } = exec c { s with pending := q }) ∧
  ∀ s : State, s.pending = [] → (∀ k ∈ s.mbx.started, k.code ≠ CmdCode.kvInval) →
    Leaves (step s) (fun t => t.now = s.now + 1 ∧ t.pending = [] ∧ t.mem = s.mem ∧ t.jobs = s.jobs ∧ t.clusters = s.clusters ∧
      t.mbx = s.mbx ∧ t.regs = s.regs ∧ t.power = s.power)

/-- What reset leaves (R306, R344, R351, R360, R439, R479, R536, R561, R589, R590, R599, R605, R608, R618, R627): the time at 0 and the service Off, no job,
object or open queue, the last-level memory all cache and open to both contexts, no link up, the cap and the thermal limit at 1,250 W, and the
registers served in Off alone reading other than 0. Registers with no value of the manual's take the model's: log entries 11 to 15. -/
def Obligations.ResetHolds : Prop :=
  let s := State.reset
  s.memOk ∧ s.evtOk ∧ s.wideOk ∧ s.capOk ∧ s.now = 0 ∧ s.pending = [] ∧ s.sys.service = .off ∧ s.sys.muleUp = false ∧
  (∀ x, s.jobs.get x = {}) ∧ s.mem.objs = [] ∧ s.mem.pages = [] ∧ s.mem.mem = [] ∧ s.mem.llm.es = 0 ∧
  (∀ e, s.mem.llm.eighths.get e = .both) ∧ (∀ ch, (s.mem.chans.get ch).privileged = false) ∧
  (∀ q, (s.mbx.queues.get q).enable = false ∧ (s.mbx.queues.get q).isOpen = false ∧ (s.mbx.queues.get q).phase = true) ∧
  s.mbx.evt.enable = false ∧ s.regs.evtStatus = 0 ∧ s.regs.evtSummary = 0 ∧ s.regs.evtLost = 0 ∧ s.regs.flashUnlock = false ∧
  s.regs.scratch = 0 ∧ s.regs.accCount = 0 ∧ s.regs.grdCause = 0 ∧ s.power.cap = 1250 ∧ s.power.thermalLimit = 1250 ∧
  (∀ p, (s.fab.ports.get p).link ≠ .up) ∧ s.obs.frozen = false ∧ s.obs.counters = [] ∧
  (∀ off, servedOff off = false → s.bar0 off = none ∨ s.bar0 off = some 0) ∧ s.bar0 0x0000 = some 0x9A01 ∧ s.bar0 0x0004 = some 0xB0 ∧
  s.bar0 0x1000 = some 0

/-- Every step keeps the stored memories in canonical form: device-local memory, the cluster stores, host memory and flash. -/
def Obligations.StepKeepsMemories : Prop :=
  ∀ s t : State, s.memOk → step s = .next t → t.memOk

/-- Every step keeps the relations of the registers (R599, R600, R603, R605, R618): no summary bit without an event to acknowledge, no data
word without Valid, no fetch under way with it, and a power cap in its range. -/
def Obligations.StepKeepsRegisters : Prop :=
  ∀ s t : State, s.evtOk → s.wideOk → s.capOk → step s = .next t → t.evtOk ∧ t.wideOk ∧ t.capOk

/-- TCLR, TCRD and TSYNC (R80, R85): TCLR zeroes the accumulators its mask names and clears their Suspect flags; TCRD sets an
accumulator's tile coordinates; TSYNC puts its token on the way to the sequencer. Each leaves the queue and touches nothing else.

An illegal tile instruction (R87, R88): an engine that reaches it stops and reports its opcode and the first condition it breaks,
whichever tile command finds it at the head; nothing else changes. A stopped engine executes nothing. -/
def Obligations.TileControlAndStops : Prop :=
  (∀ (s : State) (c : Cl) (e : En) (q : QEntry) (qs : List QEntry), EngineReady s c e q qs →
     (tw q.word 7 0 = opTclr → Answers (exec (.tclr c e .none) s) (issued s c e q [] (fun k => { k with
       queue := qs
       acc := Vector.ofFn (fun (i : Fin 4) => if q.word.getLsbD (8 + i.val) then
         { k.acc.get i with vals := Vector.replicate 1024 0, suspect := false } else k.acc.get i) }))) ∧
     (tw q.word 7 0 = opTcrd → Answers (exec (.tcrd c e .none) s) (issued s c e q [] (fun k => { k with
       queue := qs
       acc := upd k.acc (accIdx (tw q.word 9 8)) (fun a => { a with row := tw q.word 59 32, col := tw q.word 83 60 }) }))) ∧
     (tw q.word 7 0 = opTsync → Answers (exec (.tsync c e .none) s) (issued s c e q [] (fun k => { k with
       queue := qs
       tokens := k.tokens ++ [{ ctx := q.ctx, desc := q.desc, group := q.group, value := tw q.word 31 16, replay := q.replay }] })))) ∧
  (∀ (s : State) (c : Cl) (e : En) (q : QEntry) (qs : List QEntry) (cond : Nat) (op : Nat) (i : Instr), s.clusterUp c = true →
     (op, i) ∈ [(opTclr, Instr.tclr c e .none), (opTlda, .tlda c e .none), (opTldb, .tldb c e .none), (opTcrd, .tcrd c e .none),
       (opTmma, .tmma c e .none), (opTmmat, .tmmat c e .none), (opTst, .tst c e .none), (opTsync, .tsync c e .none)] →
     let k := (s.clusters.get c).engines.get e
     k.fenced = false → k.queue = q :: qs →
     (k.stopped = none → (tw q.word 7 0 = op ∨ tw q.word 7 0 ∉ tileOps) → illegal k q.word = some cond →
       exec i s = .next (s.updEngine c e (fun k => { k with stopped := some (tw q.word 7 0, 0, cond) }))) ∧
     (k.stopped.isSome = true → exec i s = .next s))

/-- TLDA, TLDB and the one read of a merged load (R71 to R74): the half the word names holds the operand the cluster store holds, zero
beyond its valid lines and positions; a merged load's copies all take the same operand. Nothing else changes but the queues.

TST of a matrix nest (R77 to R79): row after row, the elements of the accumulator, converted, and their scales go to the cluster
store at the addresses of the word; ClearAfter zeroes the accumulator; every byte outside the rows and their scales keeps its
value. -/
def Obligations.TileLoadsAndStores : Prop :=
  ((∀ (s : State) (c : Cl) (e : En) (q : QEntry) (qs : List QEntry) (f : Fmt), EngineReady s c e q qs → q.mc = 0 →
     let l := LoadW.of q.word
     Fmt.ofCode l.fmt = some f →
     let h := readHalf s c q.ctx l f
     let loaded (k : Engine) : Engine := { k with queue := qs, loaded := upd k.loaded (halfIdx l) (fun _ => some (noMask q.word)) }
     let i : Fin 2 := ⟨l.half % 2, Nat.mod_lt _ (by decide)⟩
     (tw q.word 7 0 = opTlda → Answers (exec (.tlda c e .none) s) (issued s c e q (l.reads f) (fun k =>
       { loaded k with halfA := upd k.halfA i (fun _ => h) }))) ∧
     (tw q.word 7 0 = opTldb → Answers (exec (.tldb c e .none) s) (issued s c e q (l.reads f) (fun k =>
       { loaded k with halfB := upd k.halfB i (fun _ => h) })))) ∧
   (∀ (s : State) (c : Cl) (mc : Nat) (q : QEntry) (f : Fmt), s.clusterUp c = true → mc ≠ 0 →
     ((copiesAt s c mc).head?.map (·.2)) = some q →
     let l := LoadW.of q.word
     ((copiesAt s c mc).map (fun p => 2 ^ p.1.val)).sum = l.engMask → Fmt.ofCode l.fmt = some f →
     ∃ s', exec (.mcastLoadRead c mc .none) s = .next s' ∧ s'.mem = s.mem ∧ (s'.clusters.get c).store = (s.clusters.get c).store ∧
       ∀ e : En,
         let k := (s.clusters.get c).engines.get e
         (s'.clusters.get c).engines.get e =
           match (copiesAt s c mc).find? (fun p => p.1 = e) with
           | some p => { setHalf k l p.2.word (readHalf s c q.ctx l f) with queue := k.queue.drop 1 }
           | none => k)) ∧
  (∀ (s : State) (c : Cl) (e : En) (q : QEntry) (qs : List QEntry) (f : Fmt), EngineReady s c e q qs → tw q.word 7 0 = opTst →
     q.fused = false →
     let t := StoreW.of q.word
     Fmt.ofCode t.fmt = some f → Mem.wf 0 (s.clusters.get c).store = true →
     let acc := ((s.clusters.get c).engines.get e).acc.get (accIdx t.acc)
     let md (r i : Nat) : Rnd := rndOf t.rnd (srRnd (s.srW0 q.ctx) (s.srKey c q.ctx t.stream) (srW2Engine acc.row acc.col (64 * r + i)))
     let vals (r : Nat) : List Nat := (List.range t.cols).map (fun n => (acc.vals.getD (64 * r + n) 0).toNat)
     let rows := ((List.range t.rows).foldl (tstRow c q t f t.elem t.scale md vals) (s, [], {})).1
     ∃ s', exec (.tst c e .none) s = .next s' ∧ s'.mem = s.mem ∧ (s'.clusters.get c).store = (rows.clusters.get c).store ∧
       ((s'.clusters.get c).engines.get e).queue = qs ∧
       ((s'.clusters.get c).engines.get e).acc.get (accIdx t.acc) =
         (if t.clearAfter then { acc with vals := Vector.replicate 1024 0, suspect := false } else acc) ∧
       ∀ a, (∀ r < t.rows, (a < s.win c q.ctx (t.elem + r * t.rowStride) ∨
           s.win c q.ctx (t.elem + r * t.rowStride) + rowBytes f.width t.cols ≤ a) ∧
           (f.scaled = true → a < s.win c q.ctx (t.scale + r * t.scaleStride) ∨
             s.win c q.ctx (t.scale + r * t.scaleStride) + cdiv t.cols 32 ≤ a)) →
         Mem.get 0 (s'.clusters.get c).store a = Mem.get 0 (s.clusters.get c).store a)

/-- TMMA and TMMAT (R43 to R47, R66, R75, R76): every cell of the accumulator takes the rounded sums of the exact products of its row
of A and its column of B, on its old value or, with ZeroAcc, on none; the group has started. Nothing else of the engine changes but
the queue. -/
def Obligations.TileMultiply : Prop :=
  ∀ (s : State) (c : Cl) (e : En) (q : QEntry) (qs : List QEntry) (fa fb : Fmt), EngineReady s c e q qs → q.replay = none →
    let w := q.word
    Fmt.ofCode (tw w 20 16) = some fa → Fmt.ofCode (tw w 25 21) = some fb →
    let k := (s.clusters.get c).engines.get e
    let ha := k.halfA.get ⟨tw w 10 10 % 2, Nat.mod_lt _ (by decide)⟩
    let hb := k.halfB.get ⟨tw w 11 11 % 2, Nat.mod_lt _ (by decide)⟩
    let ai := accIdx (tw w 9 8)
    let kk := 32 * tw w 31 26
    let does (o : Host.Outcome State Fault Refusal) (tr : Bool) : Prop :=
      ∃ (vals : Vector (BitVec 32) 1024) (b : Bool),
        Answers o ((issued s c e q [] (fun k => { k with queue := qs, acc := upd k.acc ai (fun a => { a with vals := vals }) })).updGroup
          c q.ctx q.desc q.group (fun r => { r with started := true, unchecked := r.unchecked || b })) ∧
        ∀ i : Fin 1024, vals.get i = BitVec.ofNat 32 (macCell (pairG fa fb) (decide (tw w 12 12 = 1)) ((k.acc.get ai).vals.get i).toNat
          (ha.aRow fa kk (i.val / 64)) (hb.bCol fb tr kk (i.val % 64))).1
    (tw w 7 0 = opTmma → does (exec (.tmma c e .none) s) false) ∧ (tw w 7 0 = opTmmat → does (exec (.tmmat c e .none) s) true)

/-- TSYNC_TOKEN and ENGINE_RELOAD (R85, R88): the oldest token on its way reaches the sequencer and its group is done; a reload empties
the queue of a stopped engine and lets it run, and every command with an instruction in the queue fails with ILLEGAL_TILE.

STEAL (R119 to R121): an idle engine takes the unstarted group of the highest ordinal of the engine that holds the most stealable tiles:
the group's owner is the thief, it is marked stolen, and it is not started. -/
def Obligations.TileReloadAndSteal : Prop :=
  ((∀ (s : State) (c : Cl) (e : En) (t : Token) (ts : List Token), ((s.clusters.get c).engines.get e).tokens = t :: ts →
     t.replay = none → (∀ g, s.group? c t.ctx t.desc t.group = some g → g.unchecked = false) →
     exec (.tsyncToken c e) s = .next ((s.updEngine c e (fun k => { k with tokens := ts })).updGroup c t.ctx t.desc t.group
       (fun g => { g with done := true }))) ∧
   (∀ (s : State) (c : Cl) (e : En) (q : QEntry) (qs : List QEntry), ((s.clusters.get c).engines.get e).stopped.isSome = true →
     ((s.clusters.get c).engines.get e).queue = q :: qs →
     (∀ r ∈ q :: qs, ∀ k, s.cmd c r.ctx r.desc = some k → k.xfer = none ∧ k.att = none) →
     ∃ s', exec (.engineReload c e) s = .next s' ∧ ((s'.clusters.get c).engines.get e).stopped = none ∧
       ((s'.clusters.get c).engines.get e).queue = [] ∧
       ∀ r ∈ q :: qs, (s.cmd c r.ctx r.desc).isSome = true → s'.cmd c r.ctx r.desc = none ∧
         ∃ b, s'.run c r.ctx = some b ∧ ∃ k ∈ b.cmds, k.desc = r.desc ∧ k.st = .failed Code.ILLEGAL_TILE ∧ k.report = [q.desc.val])) ∧
  (∀ (s : State) (c : Cl) (e : En), s.clusterUp c = true →
     let k := (s.clusters.get c).engines.get e
     let load (v : En) : Nat := ((stealGroups (s.stealable c e) v).map (fun p => p.2.tiles.length)).sum
     k.fenced = false → k.stopped = none → k.idle = true → s.unstarted c e = 0 → (∃ v, v ≠ e ∧ load v ≠ 0) →
     ∃ s' v cm g, exec (.steal c e) s = .next s' ∧ v ≠ e ∧ (∀ o, o ≠ e → load o ≤ load v) ∧
       (cm, g) ∈ stealGroups (s.stealable c e) v ∧ (∀ p ∈ stealGroups (s.stealable c e) v, p.2.ord ≤ g.ord) ∧
       (∀ h, s'.group? c cm.ctx cm.desc g.ord = some h → h.owner = e.val ∧ h.stolen = true ∧ h.started = false))

/-- RUN (R105, R109 to R111, R114, R115, R133): the entry at the program counter starts a command with its snapshot of the bound
registers. A command with an empty level ends at once; an attention command takes its steps and a transfer (other than an outbound
one) its requests; a matrix nest forms its tile groups in loop order and gives them to the engines in service in turn. A level
longer than its plan fails the command with SHAPE_OVER and reports the level, its register, the extent and the plan. -/
def Obligations.SeqRun : Prop :=
  ∀ (s : State) (c : Cl) (x : Ctx) (e : ProgEnt) (dn : Fin 64) (r : BeatRun), s.entry c x = some e → e.op = 1 → e.desc = dn.val →
    s.run c x = some r → s.cmd c x dn = none →
    let d := s.desc c x dn
    let ext := d.extents ((s.clusters.get c).seq.get x).bnd
    let n := ext.getD d.kLevel 0
    let es := s.enginesIn c d.engMask
    let begins (P : Cmd → Prop) : Prop :=
      ∃ s' r' k, exec (.run c x) s = .next s' ∧ s'.run c x = some r' ∧ r'.pc = r.pc + 1 ∧ r'.cmds = r.cmds ++ [k] ∧ k.desc = dn ∧
        k.ctx = x ∧ k.extents = ext ∧ s'.mem = s.mem ∧ P k
    (d.shapeOver ext = none → extEmpty ext = true → begins (fun k => k.st = .done ∧ k.empty = true)) ∧
    (d.shapeOver ext = none → extEmpty ext = false → d.kind = 3 →
      begins (fun k => k.st = .running ∧ k.att = some { steps := d.attSteps ext })) ∧
    (d.shapeOver ext = none → extEmpty ext = false → d.kind = 4 → d.xfer.dir ≠ 1 → n % 8 = 0 →
      (d.xfer.dir = 4 → ∀ l, d.lvls[d.kLevel]? = some l → n % l.tile = 0) → d.xfer.dir ≠ 4 ∨ (d.lvls[d.kLevel]?).isSome = true →
      begins (fun k => k.st = .running ∧ k.xfer = some (s.newXfer x dn d ext r.beat))) ∧
    (d.shapeOver ext = none → extEmpty ext = false → (d.kind = 1 ∨ d.kind = 2) → es ≠ [] →
      begins (fun k => k.st = .running ∧ k.groups.map (·.tiles) = groupsOf (d.accGroup + 1) d.groupLevel (d.tiles ext) ∧
        ∀ g ∈ k.groups, g.started = false ∧ g.done = false ∧ (es[g.ord % es.length]?).map (·.val) = some g.owner)) ∧
    (∀ i, d.shapeOver ext = some i → ∃ s' r' k, exec (.run c x) s = .next s' ∧ s'.run c x = some r' ∧ k ∈ r'.cmds ∧ k.desc = dn ∧
      k.st = .failed Code.SHAPE_OVER ∧
      k.report = [i, ((d.lvls[i]?).map (·.bndReg)).getD 0, ext.getD i 0, ((d.lvls[i]?).map (·.plan)).getD 0])

/-- SETBND, WAIT and END of a stage program, and COMMAND_COMPLETE (R108, R128, R133, R134): SETBND writes a bound register; WAIT and END
go on, or end the program, once every command of the beat has completed, and hold the program until then; a command whose work is
finished and none of whose work is to be replayed is done.

FUSED_TILE_CHAIN (R125): a tile that is with the codec is encoded into its place and its slot is free; else the first stored tile
whose group has sent its token goes to the vector engine, with the launch of R170, or to the codec where the nest has no VE
step. -/
def Obligations.SeqEntriesAndChain : Prop :=
  ((∀ (s : State) (c : Cl) (x : Ctx) (e : ProgEnt) (r : BeatRun), s.entry c x = some e → s.run c x = some r →
     let at_ (pc : Nat) (ended : Bool) : State := s.updRun c x (fun r => { r with pc := pc, ended := ended })
     (e.op = 2 → exec (.setbnd c x) s = .next ((at_ (r.pc + 1) r.ended).updSeq c x (fun q => { q with
       bnd := upd q.bnd ⟨e.bndReg % 32, Nat.mod_lt _ (by decide)⟩ (fun _ => BitVec.ofNat 24 e.value) }))) ∧
     (e.op = 3 → exec (.wait c x) s = .next (if r.cmds.all (fun k => k.st == .done) then at_ (r.pc + 1) r.ended else s)) ∧
     (e.op = 4 → exec (.endProg c x) s = .next (if r.cmds.all (fun k => k.st == .done) then at_ r.pc true else s))) ∧
   (∀ (s : State) (c : Cl) (x : Ctx) (d : Fin 64) (k : Cmd), s.cmd c x d = some k → s.clusterUp c = true →
     cmdFinished (s.desc c x d) k = true → s.replaysOpen c x d = false →
     exec (.commandComplete c x d) s = .next (s.updCmd c x d (fun q => { q with st := .done, empty := k.empty })))) ∧
  (∀ (s : State) (c : Cl) (x : Ctx) (dn : Fin 64) (k : Cmd), s.cmd c x dn = some k → s.clusterUp c = true →
     (s.desc c x dn).kind = 2 →
     let d := s.desc c x dn
     let inCodec := k.slots.zipIdx.findSome? (fun p => match p.1 with | SlotSt.codec g j => some (p.2, g, j) | _ => none)
     let stored := k.order.findSome? (fun (i : Nat) => match k.slots.getD i SlotSt.free with
       | SlotSt.stored g j => if k.groups.any (fun q => q.ord = g && q.done) then some (i, g, j) else none
       | _ => none)
     (∀ i g j t, inCodec = some (i, g, j) → k.tileAt g j = some t →
       exec (.fusedTileChain c x dn) s = .next ((encodeTile s c x dn d i t).updCmd c x dn (fun q => { q with
         slots := q.slots.set i .free, order := q.order.filter (· != i) }))) ∧
     (∀ i g j t, inCodec = none → stored = some (i, g, j) → k.tileAt g j = some t → d.veEntry = 0 →
       exec (.fusedTileChain c x dn) s = .next (s.updCmd c x dn (fun q => { q with
         slots := q.slots.set i (.codec g j), order := q.order.filter (· != i) }))) ∧
     (∀ i g j t, inCodec = none → stored = some (i, g, j) → k.tileAt g j = some t → d.veEntry ≠ 0 →
       ∃ s' k', exec (.fusedTileChain c x dn) s = .next s' ∧
         (s'.clusters.get c).launchQ = (s.clusters.get c).launchQ ++ [slotLaunch d x dn i g j t k.launched] ∧
         s'.cmd c x dn = some k' ∧ k'.slots = k.slots.set i (.ve g j) ∧ k'.launches = k.launches + 1))

/-- BEAT (R137, R139, R141, R142): on a device that does not send the beat, a message of the sender with the number expected joins the
boundaries that are due, at its time; another number is a BEAT_SLIP, after which no message is taken. On the device that sends the
beat, the row sends the message its state calls for and takes it itself. Nothing else changes but what messages and events
change.

STEP_DONE, PERIOD and PERIOD_TIMEOUT (R160, R161): the master notes a device's step-done, and after the last, with no period asked
for, the next step may start; the last acknowledgement agrees a candidate; a refusal or a silence of 1 ms ends the negotiation with
BEAT_PERIOD_REFUSED; a candidate is answered and changes nothing here; a proposal is kept by the master. -/
def Obligations.BeatMessageAndSteps : Prop :=
  (∀ (s : State) (x : Ctx) (m : BeatMsg),
     let j := s.jobs.get x
     let taken (m : BeatMsg) : State := s.updJob x (fun j => { j with
       due := j.due ++ [{ msg := m, arrived := s.now, at_ := s.dueTime x }], arrivedAt := s.now, missed := 0 })
     let follows (m : BeatMsg) : Prop := (j.begun = false ∧ j.due = []) ∨ m.beat = j.expected
     (j.isOpen = true → j.slip = false → j.sender ≠ s.ident.devNum → m.master = j.sender → follows m →
       Reports (exec (.beat x m) s) (taken m)) ∧
     (j.isOpen = true → j.slip = false → j.sender ≠ s.ident.devNum → m.master = j.sender → ¬ follows m →
       Reports (exec (.beat x m) s) (s.updJob x (fun j => { j with slip := true }))) ∧
     (j.isOpen = true → j.slip = false → j.sender = s.ident.devNum → s.mayBeat x = true →
       Reports (exec (.beat x m) s) (taken (s.nextBeat x))) ∧
     (s.pins.beatSrc = false → j.missed = 0 → s.dueTime x = some (s.now + j.beatDelay))) ∧
  (∀ (s : State) (x : Ctx) (dev ns : Nat),
     let j := s.jobs.get x
     let refused : State := s.updJob x (fun j => { j with neg := none, requested := none, stepStartReady := true, refused := true })
     (j.isOpen = true → j.sender = s.ident.devNum → (∃ m ∈ j.members, m.1 = dev) → dev ∉ j.stepDone →
       (j.members.all (fun m => (dev :: j.stepDone).contains m.1) = false →
         exec (.stepDone x dev) s = .next (s.updJob x (fun j => { j with stepDone := dev :: j.stepDone }))) ∧
       (j.members.all (fun m => (dev :: j.stepDone).contains m.1) = true → j.proposals = [] → j.requested = none →
         exec (.stepDone x dev) s = .next (s.updJob x (fun j => { j with stepDone := dev :: j.stepDone, stepStartReady := true })))) ∧
     (j.isOpen = true → j.sender = s.ident.devNum →
       exec (.period x (.propose dev ns)) s = .next (s.updJob x (fun j => { j with proposals := ns :: j.proposals }))) ∧
     (j.isOpen = true → Reports (exec (.period x (.candidate ns)) s) s) ∧
     (∀ n, j.isOpen = true → j.neg = some n → n.refusedBy = none → j.members.all (fun m => (dev :: n.acks).contains m.1) = true →
       exec (.period x (.ack dev)) s = .next (s.updJob x (fun j => { j with
         neg := none, requested := none, agreed := some n.candidate, stepStartReady := true }))) ∧
     (∀ n, j.isOpen = true → j.neg = some n → n.refusedBy = none → Reports (exec (.period x (.refuse dev)) s) refused) ∧
     (∀ n, j.neg = some n → n.sentAt + 1000000 ≤ s.now → Reports (exec (.periodTimeout x) s) refused) ∧
     (∀ n, j.neg = some n → s.now < n.sentAt + 1000000 → exec (.periodTimeout x) s = .next s))

/-- BEAT_BOUNDARY (R136, R139, R140, R152): the oldest message whose time has come gives the context its beat number, with
PeriodNew its period and with StepStart its step, and is no longer due; BEAT_OUT is driven 50 ns later.

BEAT_IN_EDGE and BEAT_MISS (R140, R141, R636): an edge that stays high for 20 ns gives each context's oldest message that arrived
2 µs before its boundary, 40 ns later, and a shorter one gives nothing; a device that has waited in vain for a message applies the next
beat's boundary itself and counts the miss, a job of one device (Diag) counting none. -/
def Obligations.BeatBoundary : Prop :=
  (∀ (s : State) (x : Ctx) (d : Due) (rest : List Due) (t : Nat), (s.jobs.get x).due = d :: rest → d.at_ = some t → t ≤ s.now →
     ∃ s', exec (.beatBoundary x) s = .next s' ∧ s'.now = s.now ∧
       (s'.jobs.get x).beat = d.msg.beat ∧ (s'.jobs.get x).begun = true ∧ (s'.jobs.get x).boundaryAt = s.now ∧
       (s'.jobs.get x).due = rest ∧ (s'.jobs.get x).period = (if d.msg.periodNew then d.msg.period else (s.jobs.get x).period) ∧
       (s'.jobs.get x).step = (if d.msg.stepStart then d.msg.step else (s.jobs.get x).step) ∧
       s'.pins.beatOut = some (s.now + 50) ∧ s'.power = s.power ∧ s'.ident = s.ident) ∧
  ((∀ (s : State) (ns : Nat) (x : Ctx), s.pins.beatSrc = true →
     (ns < 20 → exec (.beatInEdge ns) s = .next s) ∧
     (20 ≤ ns → ∀ d rest, (s.jobs.get x).due = d :: rest → d.at_ = none → d.arrived + 2000 ≤ s.now →
       ∃ s', exec (.beatInEdge ns) s = .next s' ∧ (s'.jobs.get x).due = { d with at_ := some (s.now + 40) } :: rest ∧
         s'.clusters = s.clusters ∧ s'.mem = s.mem ∧ s'.obs = s.obs)) ∧
   (∀ (s : State) (x : Ctx),
     let j := s.jobs.get x
     j.isOpen = true → j.begun = true → j.sender ≠ s.ident.devNum → j.due = [] → j.arrivedAt + j.period + max 1000 j.beatDelay ≤ s.now →
     ∃ s', exec (.beatMiss x) s = .next s' ∧ (s'.jobs.get x).beat = j.beat + 1 ∧ (s'.jobs.get x).boundaryAt = s.now ∧
       (s'.jobs.get x).missed = (if j.diag then 0 else j.missed + 1) ∧ (s'.jobs.get x).arrivedAt = j.arrivedAt + j.period ∧
       (s'.jobs.get x).period = j.period))

/-- HANDOVER_HEADER_LAND and OVERRUN (R149, R150, R157): a header with the context, the next MbIdx, a payload that fits and a good CRC makes
its slot READY and the next MbIdx is awaited; any other raises HANDOVER_BAD and marks the input, and no slot changes; an overrun notice is
noted for its MbIdx.

SLOT_CREDIT and SLOT_ACK (R150, R151): a credit adds to its consumer's, three at most, and with no packet held nothing else changes;
when one packet is held and every consumer then has a credit, the packet is sent and each credit falls by one; an acknowledgement is
noted, and the last of a packet's frees its slot.

BEAT_COMMIT (R155, R450): a beat whose program has ended, whose work has passed every check and before which every stage of the context
has committed is committed: the stage runs nothing and stands at its next schedule entry, its input and output sequences have moved
on, and the stores it held are let out. A beat that may not commit changes nothing. -/
def Obligations.HandoverAndCommit : Prop :=
  ((∀ (s : State) (c : Cl) (x : Ctx) (i : Fin 2) (sl : Fin 3) (hdr : List Byte) (g : Stage), s.stage c x = some g →
     let q := g.ins.get i
     let own : Bool := decide (q.prodDev = s.ident.devNum)
     let hb := if own then s.csRd c (q.at_ sl.val) 64 else slice hdr 0 64
     let h := HoHdr.of hb
     let ok : Bool := h.ctx = ctxNo x && h.mb = q.nextLand && (if h.isEmpty then h.payload = 0 else h.payload + 64 ≤ q.slotBytes) && h.crcOk
     q.used = true → (q.slots.get sl = .free ∨ q.slots.get sl = .filling) →
     (ok = true → ∃ s', exec (.handoverHeaderLand c x i sl hdr) s = .next s' ∧
       s'.inp c x i = { q with slots := upd q.slots sl (fun _ => .ready h.mb h.isEmpty), nextLand := q.nextLand + 1 } ∧
       s'.mem = s.mem ∧ s'.jobs = s.jobs) ∧
     (ok = false → ∃ s', exec (.handoverHeaderLand c x i sl hdr) s = .next s' ∧ s'.inp c x i = { q with bad := true } ∧
       s'.mem = s.mem ∧ s'.jobs = s.jobs)) ∧
   (∀ (s : State) (c : Cl) (x : Ctx) (i : Fin 2) (mb : Nat) (g : Stage), s.stage c x = some g → (g.ins.get i).used = true →
     (g.ins.get i).nextMb ≤ mb → mb ∉ (g.ins.get i).overrun →
     ∃ s', exec (.overrun c x i mb) s = .next s' ∧ s'.inp c x i = { g.ins.get i with overrun := mb :: (g.ins.get i).overrun } ∧
       s'.mem = s.mem ∧ s'.jobs = s.jobs)) ∧
  (∀ (s : State) (c : Cl) (x : Ctx) (o : Fin 2) (n : Fin 4) (g : Stage), s.stage c x = some g →
     let k := g.outs.get o
     let credits := k.credits.modify n.val (fun v => min 3 (v + 1))
     n.val < k.consumers.length →
     ((∀ i b m, k.slots.get i ≠ .held b m) →
       exec (.slotCredit c x o n) s = .next (s.updOut c x o (fun q => { q with credits := credits }))) ∧
     (∀ i b m, k.slots.get i = .held b m → (∀ i' b' m', i' ≠ i → k.slots.get i' ≠ .held b' m') → (∀ v ∈ credits, v ≠ 0) →
       ∃ s', exec (.slotCredit c x o n) s = .next s' ∧
         s'.outp c x o = { k with credits := credits.map (· - 1), slots := upd k.slots i (fun _ => .sending b m []) } ∧
         s'.mem = s.mem ∧ s'.jobs = s.jobs) ∧
     (∀ i b m acked, k.slots.get i = .sending b m acked → n.val ∉ acked →
       exec (.slotAck c x o i n) s = .next (s.updOut c x o (fun q => { q with slots := upd q.slots i (fun _ =>
         if acked.length + 1 = k.consumers.length then .free else .sending b m (n.val :: acked)) })))) ∧
  (∀ (s : State) (c : Cl) (x : Ctx) (g : Stage), s.stage c x = some g →
     (s.committable c x = none → exec (.beatCommit c x) s = .next s) ∧
     (∀ r, s.committable c x = some r → ∃ s' g', exec (.beatCommit c x) s = .next s' ∧ s'.stage c x = some g' ∧ g'.run = none ∧
       g'.committed = some r.beat ∧ g'.pos = g.pos + 1 ∧ ((s'.clusters.get c).seq.get x).remoteWrites = [] ∧
       (∀ (i : Fin 2) sl, r.inSel = some (i.val, sl) → sl < 3 → (s'.inp c x i).nextMb = (g.ins.get i).nextMb + 1) ∧
       (∀ (o : Fin 2) sl, r.outSel = some (o.val, sl) → sl < 2 → (s'.outp c x o).nextMb = (g.outs.get o).nextMb + 1) ∧
       ∀ w ∈ s'.goose.items, w.cluster = c → w.ctx = x → False))

/-- VADD, VSUB, VMUL, VFMA, VMIN and VMAX (R177, R178): each active lane of Vd takes the result of the FP32 operation on the lane's
operands, every other lane and register keeps its value, and the thread goes on.

VADDW, VMULW, VNRMW, VCVTW and VCVTF (R57, R58, R62, R177, R191, R192): each active lane takes the WX32 sum or product, the
quotient of two WX32 values in FP32, or the conversion to or from WX32; an overflowing sum or product sets the lane's range
flag. -/
def Obligations.VeFloat : Prop :=
  (∀ (s : State) (c : Cl) (t : Th) (l : Launch) (w : VeW), VeReady s c t l w →
     let th := s.thread c t
     let a (r : Nat) (i : Fin 128) : Nat := ((th.vreg r).get i).toNat
     let does (o : Host.Outcome State Fault Refusal) (f : Fin 128 → Nat) : Prop :=
       ∃ k, Answers o (ran s c t k) ∧ Lanes th k w.vd (th.mreg w.msk) (fun i => BitVec.ofNat 32 (f i)) (fun _ => false)
     (w.op = 0x01 → does (exec (.vadd c t .none) s) (fun i => f32Add (a w.va i) (a w.vb i))) ∧
     (w.op = 0x02 → does (exec (.vsub c t .none) s) (fun i => f32Sub (a w.va i) (a w.vb i))) ∧
     (w.op = 0x03 → does (exec (.vmul c t .none) s) (fun i => f32Mul (a w.va i) (a w.vb i))) ∧
     (w.op = 0x04 → does (exec (.vfma c t .none) s) (fun i => f32Fma (a w.va i) (a w.vb i) (a w.vc i))) ∧
     (w.op = 0x05 → does (exec (.vmin c t .none) s) (fun i => f32Min (a w.va i) (a w.vb i))) ∧
     (w.op = 0x06 → does (exec (.vmax c t .none) s) (fun i => f32Max (a w.va i) (a w.vb i)))) ∧
  (∀ (s : State) (c : Cl) (t : Th) (l : Launch) (w : VeW), VeReady s c t l w →
     let th := s.thread c t
     let m := th.mreg w.msk
     let a (r : Nat) (i : Fin 128) : Nat := ((th.vreg r).get i).toNat
     let does (o : Host.Outcome State Fault Refusal) (f : Fin 128 → Nat) (g : Fin 128 → Bool) : Prop :=
       ∃ k, Answers o (ran s c t k) ∧ Lanes th k w.vd m (fun i => BitVec.ofNat 32 (f i)) g
     (w.op = 0x10 → does (exec (.vaddw c t .none) s) (fun i => (wxAdd (a w.va i) (a w.vb i)).1) (fun i => (wxAdd (a w.va i) (a w.vb i)).2)) ∧
     (w.op = 0x11 → does (exec (.vmulw c t .none) s) (fun i => (wxMul (a w.va i) (a w.vb i)).1) (fun i => (wxMul (a w.va i) (a w.vb i)).2)) ∧
     (w.op = 0x12 → does (exec (.vnrmw c t .none) s) (fun i => (wxQuot (a w.va i) (a w.vb i)).1) (fun _ => false)) ∧
     (w.op = 0x13 → does (exec (.vcvtw c t .none) s) (fun i => f32ToWx w.sat (a w.va i)) (fun _ => false)) ∧
     (w.op = 0x14 → w.rnd < 2 → does (exec (.vcvtf c t .none) s)
       (fun i => (FF.fp32.round (rndOf w.rnd (veRnd s c l.ctx w.stream (th.sreg w.sb).toNat i.val)) w.sat
         (FF.wx32.decode (a w.va i))).1) (fun _ => false)))

/-- VCMP and VSEL (R177, R178): VCMP writes the comparison Fn names into the bits of mask Vd of the active lanes; VSEL writes every
lane of Vd, with Va where Msk is set and Vb elsewhere.

VPERM and VBCAST (R177, R178): a lane of Vd takes the lane of Va that its lane of Vb names modulo 128, or the low 32 bits of Sa;
Msk is ignored.

VADDI, VADDL, VLOGI and VCVTI (R59, R167, R177): 32-bit wrapping sums; 64-bit wrapping sums of register pairs, the even register
holding the low word; the bitwise functions and shifts; conversions between FP32 and INT32. -/
def Obligations.VeSelectPermuteInteger : Prop :=
  (∀ (s : State) (c : Cl) (t : Th) (l : Launch) (w : VeW), VeReady s c t l w →
     let th := s.thread c t
     let m := th.mreg w.msk
     (w.op = 0x07 → w.fn ≤ 5 → ∃ k, Answers (exec (.vcmp c t .none) s) (ran s c t k) ∧
       SetsMask th k (w.vd % 4) m (fun i => cmpF w.fn ((th.vreg w.va).get i).toNat ((th.vreg w.vb).get i).toNat)) ∧
     (w.op = 0x08 → ∃ k, Answers (exec (.vsel c t .none) s) (ran s c t k) ∧
       Lanes th k w.vd (BitVec.allOnes 128) (fun i => if m.getLsbD i.val then (th.vreg w.va).get i else (th.vreg w.vb).get i)
         (fun _ => false))) ∧
  (∀ (s : State) (c : Cl) (t : Th) (l : Launch) (w : VeW), VeReady s c t l w →
     let th := s.thread c t
     (w.op = 0x24 → ∃ k, Answers (exec (.vperm c t .none) s) (ran s c t k) ∧
       Lanes th k w.vd (BitVec.allOnes 128) (fun i =>
         (th.vreg w.va).get ⟨((th.vreg w.vb).get i).toNat % 128, Nat.mod_lt _ (by decide)⟩) (fun _ => false)) ∧
     (w.op = 0x25 → ∃ k, Answers (exec (.vbcast c t .none) s) (ran s c t k) ∧
       Lanes th k w.vd (BitVec.allOnes 128) (fun _ => (th.sreg w.sa).extractLsb' 0 32) (fun _ => false))) ∧
  (∀ (s : State) (c : Cl) (t : Th) (l : Launch) (w : VeW), VeReady s c t l w →
     let th := s.thread c t
     let m := th.mreg w.msk
     let v (r : Nat) (i : Fin 128) : BitVec 32 := (th.vreg r).get i
     let pair (r : Nat) (i : Fin 128) : BitVec 64 := v (r / 2 * 2 + 1) i ++ v (r / 2 * 2) i
     let does (o : Host.Outcome State Fault Refusal) (f : Fin 128 → BitVec 32) : Prop :=
       ∃ k, Answers o (ran s c t k) ∧ Lanes th k w.vd m f (fun _ => false)
     (w.op = 0x18 → does (exec (.vaddi c t .none) s) (fun i => v w.va i + v w.vb i)) ∧
     (w.op = 0x19 → ∃ k, Answers (exec (.vaddl c t .none) s) (ran s c t k) ∧ (∃ vv, k = { th with v := vv, pc := th.pc + 1 }) ∧
       ∀ (r : Nat) (i : Fin 128), (k.vreg r).get i =
         if r / 2 = w.vd / 2 ∧ m.getLsbD i.val = true then
           (pair w.va i + pair w.vb i).extractLsb' (32 * (r % 2)) 32
         else (th.vreg r).get i) ∧
     (w.op = 0x1A → w.fn ≤ 5 → does (exec (.vlogi c t .none) s) (fun i => logI w.fn (v w.va i) (v w.vb i))) ∧
     (w.op = 0x1B → w.fn = 0 → w.rnd < 2 → does (exec (.vcvti c t .none) s) (fun i =>
       BitVec.ofNat 32 (toIntCode 32 (rndOf w.rnd (veRnd s c l.ctx w.stream (th.sreg w.sb).toNat i.val))
         (FF.fp32.decode (v w.va i).toNat)).1)) ∧
     (w.op = 0x1B → w.fn = 1 → does (exec (.vcvti c t .none) s) (fun i =>
       BitVec.ofNat 32 (FF.fp32.rne (FVal.ofInt (v w.va i).toInt)))))

/-- VRED, VREDW, VRMAX and VFIRSTF (R178, R184, R185): every lane of a segment takes the pairwise-tree sum or maximum of the segment,
or its first finite value, +0 with the lane's bit of M3 set where there is none; Msk is ignored.

VSFU and SFU_GRANT (R189, R190): VSFU queues one request for each active lane and awaits the lanes; a grant to one waiting
request writes the function of its argument into the lane and awaits it no longer. -/
def Obligations.VeReduceAndSpecial : Prop :=
  (∀ (s : State) (c : Cl) (t : Th) (l : Launch) (w : VeW) (n : Nat), VeReady s c t l w → segLen w.seg = some n →
     let th := s.thread c t
     let seg (i : Fin 128) : List (BitVec 32) := segOf (th.vreg w.va) n i.val
     let does (o : Host.Outcome State Fault Refusal) (f : Fin 128 → BitVec 32) (g : Fin 128 → Bool) : Prop :=
       ∃ k, Answers o (ran s c t k) ∧ Lanes th k w.vd (BitVec.allOnes 128) f g
     (w.op = 0x20 → does (exec (.vred c t .none) s)
       (fun i => BitVec.ofNat 32 (treeReduce f32Add 0 ((seg i).map (·.toNat)))) (fun _ => false)) ∧
     (w.op = 0x21 → does (exec (.vredw c t .none) s) (fun i => BitVec.ofNat 32 (treeW (seg i)).1) (fun i => (treeW (seg i)).2)) ∧
     (w.op = 0x22 → does (exec (.vrmax c t .none) s)
       (fun i => BitVec.ofNat 32 (treeReduce f32Max 0 ((seg i).map (·.toNat)))) (fun _ => false)) ∧
     (w.op = 0x23 → ∃ k, Answers (exec (.vfirstf c t .none) s) (ran s c t k) ∧
       (∃ v m, k = { th with v := v, m := m, pc := th.pc + 1 }) ∧
       (∀ (r : Nat) (i : Fin 128), (k.vreg r).get i = if r = w.vd then (firstFinite (seg i)).getD 0 else (th.vreg r).get i) ∧
       ∀ (r : Nat) (i : Fin 128), (k.mreg r).getLsbD i.val =
         ((th.mreg r).getLsbD i.val || (decide (r = 3) && (firstFinite (seg i)).isNone)))) ∧
  ((∀ (s : State) (c : Cl) (t : Th) (l : Launch) (w : VeW), VeReady s c t l w → w.op = 0x30 → w.fn ≤ 8 →
     let th := s.thread c t
     let act := lanesOf (th.mreg w.msk)
     let s' := ran s c t { th with pc := th.pc + 1, sfuLeft := act.map (·.val) }
     Answers (exec (.vsfu c t .none) s) (s'.updCluster c (fun k => { k with sfuQ := k.sfuQ ++ act.map (fun i =>
       { thread := t, lane := i.val, fn := w.fn, arg := (th.vreg w.va).get i, vd := w.vd : SfuReq }) }))) ∧
   (∀ (s : State) (c : Cl) (r : SfuReq), s.clusterUp c = true → (s.clusters.get c).sfuQ = [r] → (s.clusters.get c).sfuBusy < 32 →
     r.lane < 128 → r.vd < 32 →
     let th := s.thread c r.thread
     ∃ v rg k, k = { th with v := v, range := rg, sfuLeft := th.sfuLeft.filter (· != r.lane) } ∧
       (∀ (d : Nat) (i : Fin 128), (k.vreg d).get i =
         if d = r.vd ∧ i.val = r.lane then BitVec.ofNat 32 (sfuEval r.fn r.arg.toNat) else (th.vreg d).get i) ∧
       Answers (exec (.sfuGrant c) s) ((s.updThread c r.thread (fun _ => k)).updCluster c (fun q => { q with
         sfuQ := [], sfuLast := r.lane, sfuBusy := if sfuCost r.fn = 2 then 1 else 0 }))))

/-- SMOVI, SADD, SMUL and BR (R167, R176, R177): the scalar result in Sd, with S0 left reading 0; BR goes to PC + Imm when Cond holds
and to the next instruction otherwise.

SETBND, VRANGE, VFENCE and VEND (R177, R186, R187): SETBND writes a bound register of the launch's context; VRANGE moves the range
flags to a mask and clears them; VFENCE changes nothing of the thread but its place; VEND ends a launch that is neither suspect nor
a replay: the thread is idle, the command has one launch fewer, and a fused tile's slot is free or goes to the codec. -/
def Obligations.VeScalarAndControl : Prop :=
  (∀ (s : State) (c : Cl) (t : Th) (l : Launch) (w : VeW), VeReady s c t l w → w.rsv = 0 →
     let th := s.thread c t
     let a := th.sreg w.sSa
     let b := th.sreg w.sSb
     let imm := BitVec.ofInt 64 w.imm
     let does (o : Host.Outcome State Fault Refusal) (v : BitVec 64) : Prop :=
       ∃ k, Answers o (ran s c t k) ∧ SetsScalar th k w.sd v
     let holds := w.cond = 0 ∨ (w.cond = 1 ∧ a = b) ∨ (w.cond = 2 ∧ a ≠ b) ∨ (w.cond = 3 ∧ a.toInt < b.toInt) ∨
       (w.cond = 4 ∧ b.toInt ≤ a.toInt)
     (w.op = 0x50 → does (exec (.smovi c t .none) s) imm) ∧
     (w.op = 0x51 → does (exec (.sadd c t .none) s) (a + b + imm)) ∧
     (w.op = 0x52 → does (exec (.smul c t .none) s) (a * imm)) ∧
     (w.op = 0x58 → w.cond ≤ 4 → holds → 0 ≤ (th.pc : Int) + w.imm → (th.pc : Int) + w.imm < 8192 →
       Answers (exec (.br c t .none) s) (ran s c t { th with pc := ((th.pc : Int) + w.imm).toNat })) ∧
     (w.op = 0x58 → w.cond ≤ 4 → ¬ holds → Answers (exec (.br c t .none) s) (ran s c t { th with pc := th.pc + 1 }))) ∧
  (∀ (s : State) (c : Cl) (t : Th) (l : Launch) (w : VeW), VeReady s c t l w →
     let th := s.thread c t
     let next : Thread := { th with pc := th.pc + 1 }
     (w.op = 0x59 → w.rsv = 0 → (th.sreg w.sSa).toNat < 2 ^ 24 →
       Answers (exec (.veSetbnd c t .none) s)
         ((ran s c t next).updSeq c l.ctx (fun q => { q with
           bnd := q.bnd.set (w.imm % 32).toNat (BitVec.ofNat 24 (th.sreg w.sSa).toNat) (by omega) }))) ∧
     (w.op = 0x5A → ∃ k, Answers (exec (.vrange c t .none) s) (ran s c t { k with range := 0 }) ∧
       SetsMask th k (w.vd % 4) (BitVec.allOnes 128) (fun i => th.range.getLsbD i.val)) ∧
     (w.op = 0x48 → w.vc = 0 → Answers (exec (.vfence c t .none) s) (ran s c t next)) ∧
     (w.op = 0x5F → w.rsv = 0 → th.replay = none → s.itemOf .launch c l.ctx l.desc l.ord = none →
       let d := s.desc c l.ctx l.desc
       Answers (exec (.vend c t .none) s)
         ((s.updThread c t (fun _ => { th with active := false, launch := none, suspect := false })).updCmd c l.ctx l.desc
           (fun k => { k with
             launches := k.launches - 1,
             slots := if d.kind = 2 then k.slots.set l.slot (if d.codecOp = 0 then .free else .codec l.group l.tile) else k.slots }))))

/-- VE_FAULT (R183): a thread whose instruction is illegal (an opcode the table does not assign, a reserved function, rounding or
segment code, a reserved bit) or lies outside the instruction memory stops before it, and its running command fails with VE_FAULT
and reports the cause and the program counter.

A check that fails on a VE instruction of a first run of a VE with no strike (R199, R447): the instruction's result stands with its error, the launch is
suspect, and its work item joins Goose's items, failed, at the next number. -/
def Obligations.VeFaults : Prop :=
  (∀ (s : State) (c : Cl) (t : Th) (l : Launch) (w : VeW) (cm : Cmd), VeReady s c t l w → s.cmd c l.ctx l.desc = some cm →
     let stops (o : Host.Outcome State Fault Refusal) (cause : Nat) : Prop :=
       ∃ s' r, o = .next s' ∧ (s'.thread c t) = { s.thread c t with active := false } ∧ s'.run c l.ctx = some r ∧
         ∃ k ∈ r.cmds, k.desc = l.desc ∧ k.st = .failed Code.VE_FAULT ∧ k.report = [cause, (s.thread c t).pc]
     (w.op ∉ veOps → stops (exec (.vadd c t .none) s) 1) ∧
     (w.op = 0x07 → 5 < w.fn → stops (exec (.vcmp c t .none) s) 1) ∧
     (w.op = 0x14 → 2 ≤ w.rnd → stops (exec (.vcvtf c t .none) s) 1) ∧
     (w.op = 0x1A → 5 < w.fn → stops (exec (.vlogi c t .none) s) 1) ∧
     (w.op = 0x20 → segLen w.seg = none → stops (exec (.vred c t .none) s) 1) ∧
     (w.op = 0x30 → 8 < w.fn → stops (exec (.vsfu c t .none) s) 1) ∧
     (w.op = 0x50 → w.rsv ≠ 0 → stops (exec (.smovi c t .none) s) 1) ∧
     (w.op = 0x59 → w.rsv = 0 → 2 ^ 24 ≤ ((s.thread c t).sreg w.sSa).toNat → stops (exec (.veSetbnd c t .none) s) 4) ∧
     (w.op = 0x58 → w.rsv = 0 → w.cond = 0 → ((s.thread c t).pc : Int) + w.imm < 0 → stops (exec (.br c t .none) s) 5)) ∧
  (∀ (s : State) (c : Cl) (t : Th) (l : Launch) (w : VeW) (st : Nat) (rows : BitVec 16) (flip : BitVec 32), VeReady s c t l w →
     w.op = 0x01 → (s.thread c t).replay = none → s.itemOf .launch c l.ctx l.desc l.ord = none →
     s.strikesOf (veUnit c) = 0 →
     let th := s.thread c t
     let m := th.mreg w.msk
     let sum (i : Fin 128) : BitVec 32 := BitVec.ofNat 32 (f32Add ((th.vreg w.va).get i).toNat ((th.vreg w.vb).get i).toNat)
     ∃ s' k o, exec (.vadd c t (.check st rows flip)) s = .next s' ∧ s'.thread c t = { k with suspect := true } ∧
       Lanes th k w.vd m (fun i => if rows.getLsbD (i.val / 8) then sum i ^^^ flip else sum i) (fun _ => false) ∧
       s'.goose.items = s.goose.items ++ [o] ∧ o.id = s.goose.nextItem ∧ o.kind = .launch ∧ o.cluster = c ∧ o.ctx = l.ctx ∧
       o.desc = l.desc ∧ o.ord = l.ord ∧ o.failing = veUnit c ∧ o.rows = rows ∧ o.struct = st ∧
       s'.goose.strikes = s.goose.strikes ++ [(veUnit c, s.now)])

/-- VLD and VGATH (R177, R180, R181) from the cluster store: each active lane takes its element, an FP32 element unchanged and any
other converted exactly, a block-scaled one with the scale of its block; the captured reads are the bytes touched.

VST and VSCAT (R177, R180 to R182) to the cluster store, of a thread that is not suspect: the store takes the bytes the
instruction's active lanes write, in their order, at the places their offsets name, and every other byte keeps its value.

VLD of FP32 elements from device-local memory (R173, R177, R257, R317): when the access may be made, holds no poison and the
cluster cache holds every line, the lanes take their four bytes; when a line is missing, no prefetch depth is set and the cluster has a
place for the request, the thread waits and stands at the same instruction. Neither changes a byte of memory or of a cluster store. -/
def Obligations.VeMemory : Prop :=
  (∀ (s : State) (c : Cl) (t : Th) (l : Launch) (w : VeW) (f : Fmt) (mf : MemForm), VeReady s c t l w → w.space = false →
     memIllegal mf w = false → Fmt.ofCode w.fmt = some f → memMisaligned mf w (s.thread c t) f = false →
     (∀ a ∈ memBytes mf w (s.thread c t) f, s.inRegion c l.ctx a = true) →
     let th := s.thread c t
     let reads := (memBytes mf w th f).map (fun a => (a, 1))
     let rd (a : Nat) : Byte := (s.csRdW c l.ctx (a % 2 ^ 64) 1).getD 0 0
     let base := (th.sreg w.sa).toNat
     (w.op = 0x40 → mf = ⟨false, false⟩ → ∃ k, Answers (exec (.vld c t .none) s) (ran s c t k reads) ∧
       Lanes th k w.vd (th.mreg w.msk) (fun i =>
         let code := bits (ofBytes ((elemBytes f.width i.val).map (fun b => rd (base + b))))
           (i.val * f.width % 8 + f.width - 1) (i.val * f.width % 8)
         toLane f w.raw code (if f.isMx then (rd ((th.sreg w.sb).toNat + i.val / 32)).toNat else 0)) (fun _ => false)) ∧
     (w.op = 0x42 → mf = ⟨false, true⟩ → ∃ k, Answers (exec (.vgath c t .none) s) (ran s c t k reads) ∧
       Lanes th k w.vd (th.mreg w.msk) (fun i =>
         toLane f w.raw (ofBytes ((List.range (f.width / 8)).map (fun b => rd (wrap64 (base + ((th.vreg w.vb).get i).toNat) + b)))) 0)
         (fun _ => false))) ∧
  (∀ (s : State) (c : Cl) (t : Th) (l : Launch) (w : VeW) (f : Fmt) (mf : MemForm), VeReady s c t l w → w.space = false →
     memIllegal mf w = false → Fmt.ofCode w.fmt = some f → memMisaligned mf w (s.thread c t) f = false →
     (∀ a ∈ memBytes mf w (s.thread c t) f, s.inRegion c l.ctx a = true) → (s.thread c t).suspect = false →
     queueFull ((s.clusters.get c).seq.get l.ctx).remoteWrites [] = false → Mem.wf 0 (s.clusters.get c).store = true →
     let th := s.thread c t
     let does (o : Host.Outcome State Fault Refusal) (cells : List (Nat × Byte)) : Prop :=
       ∃ out, Answers o ((ran s c t { th with pc := th.pc + 1, out := out }).updCluster c (fun k =>
           { k with store := cells.foldl (fun m p => Mem.set 0 m (s.win c l.ctx p.1) p.2) k.store })) ∧
         ∀ a, (∀ p ∈ cells, s.win c l.ctx p.1 ≠ a) →
           Mem.get 0 (cells.foldl (fun m p => Mem.set 0 m (s.win c l.ctx p.1) p.2) (s.clusters.get c).store) a =
             Mem.get 0 (s.clusters.get c).store a
     (w.op = 0x41 → mf = ⟨true, false⟩ → does (exec (.vst c t .none) s) (vstCells s c l w th f .none).1) ∧
     (w.op = 0x43 → mf = ⟨true, true⟩ → does (exec (.vscat c t .none) s) (vscatCells s c l w th f .none).1)) ∧
  (∀ (s : State) (c : Cl) (t : Th) (l : Launch) (w : VeW), VeReady s c t l w → w.op = 0x40 → w.space = true → w.fmt = 0 → w.vc = 0 →
     w.raw = false → ((s.thread c t).sreg w.sa).toNat % 8 = 0 →
     let th := s.thread c t
     let bs := memBytes ⟨false, false⟩ w th .fp32
     (∀ a ∈ bs, s.isLocal a = true ∧ s.poisoned (localOff a) 1 = false) → s.localAccess (s.party l.ctx) false bs = .ok →
     let has (a : Nat) : Bool := (s.clusters.get c).cache.any (·.line = localOff a / 128)
     let kept (s' : State) : Prop := s'.mem = s.mem ∧ ∀ d, (s'.clusters.get d).store = (s.clusters.get d).store
     ((∀ a ∈ bs, has a = true) → ∃ s' k, exec (.vld c t .none) s = .next s' ∧ s'.thread c t = { k with got := [], remoteData := [] } ∧
       Lanes th k w.vd (th.mreg w.msk) (fun i => BitVec.ofNat 32 (ofBytes ((elemBytes 32 i.val).map (fun b =>
         (s.rd (localOff (wrap64 ((th.sreg w.sa).toNat + b))) 1).getD 0 0)))) (fun _ => false) ∧ kept s') ∧
     ((∃ a ∈ bs, has a = false ∧ localOff a / 128 ∉ th.got) → 0 < s.vePlaces c → s.pfDepth l.ctx = 0 →
       ∃ s', exec (.vld c t .none) s = .next s' ∧ (s'.thread c t).waiting = true ∧ (s'.thread c t).pc = th.pc ∧
         (s'.thread c t).v = th.v ∧ kept s'))

/-- VSMX and VRMS (R193, R194, R196): with a legal row block, aligned and inside the context's region, each row is read, its softmax
or its RMS normalisation computed, and stored at its destination, in row order; no other byte of the store changes.

VE_LAUNCH and CACHE_FILL (R169, R173, R257, R259): the oldest launch takes the lowest-numbered idle thread, whose registers are zero but
for the scalars the launch defines; a line that arrives is no longer in flight, no thread waits for it, and the cache holds it where it
can be read and is not poisoned; a parity error leaves the line in flight. -/
def Obligations.VeRuns : Prop :=
  (∀ (s : State) (c : Cl) (t : Th) (l : Launch) (w : VeW) (f : Fmt) (rms : Bool), VeReady s c t l w → (s.thread c t).suspect = false →
     let th := s.thread c t
     let sa := (th.sreg w.sa).toNat
     let r := RowBlk.of (s.csRdW c l.ctx sa 64)
     sa % 8 = 0 → (∀ k < 64, s.inRegion c l.ctx (sa + k) = true) → Fmt.ofCode r.dstFmt = some f → r.illegal rms = false →
     (r.src % 8 = 0 ∧ r.dst % 8 = 0 ∧ r.srcStride % 8 = 0 ∧ r.dstStride % 8 = 0 ∧ (r.gainUse = true → r.gain % 8 = 0)) →
     (∀ p ∈ r.ranges f rms, s.inRegion c l.ctx p.1 = true ∧ s.inRegion c l.ctx (p.1 + p.2 - 1) = true) →
     let does (o : Host.Outcome State Fault Refusal) (row : State → List Nat → List Nat) : Prop :=
       ∃ s' out, o = .next s' ∧ s'.thread c t = { th with pc := th.pc + 1, out := out } ∧ s'.mem = s.mem ∧
         (s'.clusters.get c).store = (((List.range r.rows).foldl (fun q i => (putRow q c l r f i
           (row q (rowVals (q.csRdW c l.ctx (r.src + i * r.srcStride) (r.n * srcW r.srcFmt)) r.srcFmt r.n))).1) s).clusters.get c).store
     (w.op = 0x38 → rms = false → does (exec (.vsmx c t .none) s) (fun _ xs => (smxRow xs r.scale).ys)) ∧
     (w.op = 0x39 → rms = true → does (exec (.vrms c t .none) s) (fun q xs => (rmsRow xs r.scale
       (if r.gainUse then some (rowVals (q.csRdW c l.ctx r.gain (r.n * srcW r.gainFmt)) r.gainFmt r.n) else none)).1))) ∧
  ((∀ (s : State) (c : Cl) (l : Launch) (ls : List Launch) (t : Th), s.clusterUp c = true → (s.clusters.get c).launchQ = l :: ls →
     (∀ u, u < t → ((s.clusters.get c).threads.get u).active = true) → ((s.clusters.get c).threads.get t).active = false →
     ∃ k : Thread, exec (.veLaunch c) s = .next ((s.updThread c t (fun _ => k)).updCluster c (fun k => { k with launchQ := ls })) ∧
       k.active = true ∧ k.launch = some l ∧ k.pc = l.entry ∧ k.range = 0 ∧ k.waiting = false ∧ k.suspect = false ∧
       (∀ r i, (k.vreg r).get i = 0) ∧ (∀ r, r ≠ 0 → k.mreg r = 0) ∧
       ∀ r, r < 16 → k.sreg r = if r = 0 then 0 else l.scalars.getD r 0) ∧
   (∀ (s : State) (c : Cl) (line : Nat) (u : Upset) (r : CReq), (s.clusters.get c).inFlight.find? (·.line = line) = some r →
     (u ≠ .none → Answers (exec (.cacheFill c line u) s) s) ∧
     (u = .none → ∃ s', exec (.cacheFill c line u) s = .next s' ∧ (∀ q ∈ (s'.clusters.get c).inFlight, q.line ≠ line) ∧
       (∀ t, line ∉ (s'.thread c t).waitLines) ∧ s'.mem = s.mem ∧ (s'.clusters.get c).store = (s.clusters.get c).store ∧
       (s.mapped (128 * line) = true → s.poisoned (128 * line) 128 = false →
         (s'.clusters.get c).cache.any (·.line = line) = true))))

/-- ATTENTION_BLOCK_STEP and ATTENTION_BACKWARD_STEP (R220 to R223, R226): when the keys and values (and the gradient tiles of a backward
step) can be read through the walker and the gradients written, the step is done: the row states, outputs and gradients it computes are
written, the work area holds free values, and the command stands at its next step. -/
def Obligations.AttentionSteps : Prop :=
  ∀ (s : State) (c : Cl) (x : Ctx) (dn : Fin 64) (far : List Host.Cell) (cm : Cmd) (at_ : Att) (idx : List Nat) (first last : Bool)
    (rest : List (List Nat × Bool × Bool)) (qf kf pf of : Fmt),
    s.cmd c x dn = some cm → cm.att = some at_ → at_.steps = (idx, first, last) :: rest → at_.held = none → s.clusterUp c = true →
    s.itemOf .attStep c x dn at_.total = none →
    let d := s.desc c x dn
    let a := d.att
    Fmt.ofCode d.a.fmt = some qf → Fmt.ofCode a.kvFmt = some kf → Fmt.ofCode a.pFmt = some pf → Fmt.ofCode d.out.fmt = some of →
    s.enginesIn c d.engMask ≠ [] →
    let k0 := (d.attKeys cm.extents idx).1
    let n := cdiv (d.attKeys cm.extents idx).2 64
    let r1 := readTiles (s.updAtt c x dn (fun t => { t with held := none })) c x a.seq
      ((List.range n).map (fun i => a.tileVa kf (k0 + 64 * i))) (tileBytes kf a.headDim) far
    let gvas := (List.range n).map (fun i => a.gradVa (k0 / 64 + i))
    let r2 := if a.mode then readTiles r1.1 c x a.seq gvas (512 * a.headDim) far else (r1.1, [])
    (∀ r ∈ r1.2 ++ r2.2, ∃ bs, r = .bytes bs) →
    (a.mode = true → gradRefuse r2.1 c x dn a.seq (gvas.map (fun v => (v, 512 * a.headDim))) = none) →
    let o := if a.mode then bwdStep r2.1 c x d cm.extents idx first qf kf (r1.2.map KvRead.got) (r2.2.map KvRead.got)
      else fwdStep r2.1 c x d cm.extents idx first last qf kf pf of (r1.2.map KvRead.got)
    let w := attApply r2.1 c x dn d kf pf o
    ∃ s' k', (if a.mode then exec (.attentionBackwardStep c x dn far .none) s else exec (.attentionBlockStep c x dn far .none) s) = .next s' ∧
      s'.cmd c x dn = some k' ∧ k'.att = some { at_ with steps := rest, total := at_.total + 1 } ∧
      (s'.clusters.get c).store = (w.clusters.get c).store ∧ s'.mem.mem = w.mem.mem ∧ s'.jobs = s.jobs

/-- PONY_WALK (R204, R205, R207, R210 to R212): an address below the limit of its context's sequence, with no look-aside entry and both table
entries present, readable and of the context, enters the walker's look-aside buffer with the frame of its leaf entry; a page that is
not present raises KV_PAGE_FAULT and is held, or for a prefetch is only counted; nothing else changes.

RING_STEP_END of a ring without gradients (R230, R234): a shard that is held leaves once its releases are counted and its bytes have been
acknowledged: the device holds none, or, where the next shard is already its own, begins the next step with it. Until then nothing
changes. -/
def Obligations.AttentionRing : Prop :=
  (∀ (s : State) (c : Cl) (x : Ctx) (seq va : Nat) (write pref : Bool) (r : SeqRec), s.clusterUp c = true → s.seqRec x seq = some r →
     r.ctx = x → va < r.limit → (write = true → s.ringOwned x seq va = false) →
     let vpn := va / 2 ^ r.pgShift
     let lab := s.mem.labs.get (walkerOf c)
     let hit (e : LabEntry) : Bool := e.ctx = x && e.seq = seq && e.vpn = vpn
     lab.find? hit = none →
     let at1 := r.root + 8 * (vpn / 512)
     let dir := ofBytes (s.rd at1 8)
     let at2 := bits dir 47 12 * 4096 + 8 * (vpn % 512)
     let pte := ofBytes (s.rd at2 8)
     s.access (s.party x) at1 8 = .ok → s.poisoned at1 8 = false →
     (dir.testBit 0 = true → s.access (s.party x) at2 8 = .ok → s.poisoned at2 8 = false → pte.testBit 0 = true →
       (pte.testBit 2 = true ↔ x = .j1) → (write = true → pte.testBit 1 = true) →
       (pte.testBit 3 = true → podOf (bits pte 63 48) = podOf s.ident.devNum) →
       exec (.ponyWalk c x seq va write pref) s = .next { s with mem := { s.mem with labs := upd s.mem.labs (walkerOf c) (fun l =>
         ({ ctx := x, seq := seq, vpn := vpn, frame := bits pte 47 12 * 4096, dev := bits pte 63 48, far := pte.testBit 3,
            w := pte.testBit 1 : LabEntry } :: l.filter (fun o => !hit o)).take 128) } }) ∧
     (dir.testBit 0 = false → pref = false →
       Reports (exec (.ponyWalk c x seq va write pref) s) (holdKv s { ctx := x, seq := seq, va := va, cluster := c.val, desc := 64 })) ∧
     (dir.testBit 0 = false → pref = true → Answers (exec (.ponyWalk c x seq va write pref) s) s)) ∧
  (∀ (s : State) (x : Ctx) (id : Nat) (g : KvRing), s.ring x id = some g → s.ringGrad x g = false →
     ((g.held = false ∨ (g.releases < g.releaseCount ∧ g.homing = false) ∨ s.shardLanded x g = false) →
       exec (.ringStepEnd x id) s = .next s) ∧
     (g.held = true → (g.releaseCount ≤ g.releases ∨ g.homing = true) → s.shardLanded x g = true → ∃ s' g',
       exec (.ringStepEnd x id) s = .next s' ∧ s'.ring x id = some g' ∧ s'.jobs = s.jobs ∧
       (g.passed = false → g' = { g with held := false }) ∧
       (g.passed = true → g'.held = true ∧ g'.step = (g.step + 1) % max 1 g.n ∧ g'.cur = !g.cur ∧ g'.releases = 0 ∧ g'.passed = false ∧
         g'.gotBytes = 0)))

/-- TRANSFER_REQUEST_ISSUE and MCAST_FETCH_ISSUE (R246, R247, R249, R252, R262, R264): an inbound transfer of device-local addresses, and a
multicast fetch whose receivers are all armed and agree with it, issue their next requests, as many as the cluster has places for, up
to 48; a hint uses up one request; a transpose writes one block; an outbound transfer all of whose destinations have passed pins
their objects and is pinned. None changes a byte of memory.

REQUEST_RETURN and TRANSFER_RESUME (R245, R269, R317): a device-local request in flight takes the bytes memory holds; a transfer of one
tile and one request then has its tile in the cluster store; a request whose page is Moving stays in flight; a held transfer whose fault
has been resolved is held no more, and one whose fault has not stays as it is. -/
def Obligations.Transfers : Prop :=
  (∀ (s : State) (c : Cl) (x : Ctx) (dn : Fin 64) (cm : Cmd) (t : Xfer), s.clusterUp c = true → s.cmd c x dn = some cm →
     cm.xfer = some t → t.held = none →
     let d := s.desc c x dn
     let leaves (o : Host.Outcome State Fault Refusal) (P : Xfer → State → Prop) : Prop :=
       ∃ s' k' t', o = .next s' ∧ s'.cmd c x dn = some k' ∧ k'.xfer = some t' ∧ s'.mem.mem = s.mem.mem ∧ s'.jobs = s.jobs ∧ P t' s'
     let issues (o : Host.Outcome State Fault Refusal) : Prop :=
       leaves o (fun t' s' => (s'.clusters.get c).store = (s.clusters.get c).store ∧
         ∃ n, 0 < n ∧ n ≤ 48 ∧ t' = { t with reqs := issueFirst n t.reqs })
     let ready := d.xfer.kv = false ∧ 0 < s.xferPlaces c ∧ (∃ r ∈ t.reqs, r.st = 0) ∧ ∀ r ∈ t.reqs, r.st = 0 → s.isLocal r.ext = true
     (d.xfer.dir = 0 → d.xfer.recvMask = 0 → ready → issues (exec (.transferRequestIssue c x dn) s)) ∧
     (d.xfer.dir = 0 → d.xfer.recvMask ≠ 0 → ready →
       (∀ r ∈ s.mcTargets c d, ∃ k, s.mcPair c x dn r = some k ∧ s.stepOfCmd r x k.desc = s.stepOfCmd c x dn ∧
         k.xfer.map Xfer.bytes = some t.bytes) → issues (exec (.mcastFetchIssue c x dn) s)) ∧
     (d.xfer.dir = 3 → ∀ i r, t.reqs.findIdx? (fun r => r.st = 0) = some i → t.reqs[i]? = some r →
       leaves (exec (.transferRequestIssue c x dn) s) (fun t' s' => t' = { t with reqs := t.reqs.set i { r with st := 2 } } ∧
         (s'.clusters.get c).store = (s.clusters.get c).store)) ∧
     (d.xfer.dir = 4 → ∀ idx src dst len, t.tiles[t.delivered]? = some (idx, src, dst, len) →
       leaves (exec (.transferRequestIssue c x dn) s) (fun t' s' => t' = { t with delivered := t.delivered + 1 } ∧
         let w := (transposeShape d.a.fmt).1
         let n := (transposeShape d.a.fmt).2
         let row (r : Nat) : List Byte := s.csRdW c x (src + r * d.xfer.extRowStride) 64
         (s'.clusters.get c).store = (List.range n).foldl (fun m q => Mem.write 0 m (s.win c x (dst + q * d.a.rowStride))
           ((List.range n).flatMap (fun r => slice (row r) (q * w) w))) (s.clusters.get c).store)) ∧
     (d.xfer.dir = 1 → t.pinned = false → (∀ r ∈ t.reqs, r.st ≠ 0) →
       leaves (exec (.transferRequestIssue c x dn) s) (fun t' s' => t'.pinned = true ∧ t'.reqs = t.reqs ∧
         s'.mem.objs = s.mem.objs.map (fun o => if (s.xferObjs t).contains o.index then { o with pins := o.pins + 1 } else o)))) ∧
  (∀ (s : State) (c : Cl) (x : Ctx) (dn : Fin 64) (cm : Cmd) (t : Xfer), s.cmd c x dn = some cm → cm.xfer = some t →
     (∀ i r, t.reqs[i]? = some r → r.st = 1 → s.isLocal r.phys = true →
       (s.access (s.party x) (localOff r.phys) r.len = .ok → s.poisoned (localOff r.phys) r.len = false →
         ∃ s' k' t', exec (.requestReturn c x dn i [] 0) s = .next s' ∧ s'.cmd c x dn = some k' ∧ k'.xfer = some t' ∧
           t'.reqs = t.reqs.set i { r with st := 2, data := s.rd (localOff r.phys) r.len } ∧ s'.mem = s.mem ∧
           (∀ idx ext store, t.tiles = [(idx, ext, store, r.len)] → t.reqs = [r] → r.tile = 0 → t.delivered = 0 → t.held = none →
             (s.desc c x dn).xfer.recvMask = 0 → t'.delivered = 1 ∧
             (s'.clusters.get c).store = Mem.write 0 (s.clusters.get c).store (s.win c x store) (s.rd (localOff r.phys) r.len))) ∧
       (s.access (s.party x) (localOff r.phys) r.len = .hold → Reports (exec (.requestReturn c x dn i [] 0) s) s)) ∧
     (∀ h, t.held = some h →
       (s.resolved c x dn h = true → (s.desc c x dn).xfer.dir ≠ 1 →
         exec (.transferResume c x dn) s = .next (s.updXfer c x dn (fun t => { t with held := none }))) ∧
       (s.resolved c x dn h = false → exec (.transferResume c x dn) s = .next s)))

/-- HBM_READ and HBM_WRITE (R278 to R281, R286): a read changes no byte; one that meets an uncorrectable error poisons its codeword, unless
it was already unreadable, and no other codeword. A write is performed whole, changing its own bytes alone, or, where a codeword of it
is on a fenced channel or is poisoned or suspect and covered in part, not at all.

LLM_ACCESS (R302 to R305): a hit makes its line the most recently used, dirty where the access writes; a miss puts a line of its class
into an eighth that takes the context and has room, none for the class NoAlloc; a write changes its own bytes alone, and a context that
reaches the other context's scratchpad changes nothing. -/
def Obligations.MemoryAccesses : Prop :=
  (∀ (s : State) (a : Nat) (u : UnitId) (l : Loc), s.locate (a / 32 * 32) = some l →
     (∀ len err, 0 < len → a + len ≤ s.hbmEnd → Leaves (exec (.hbmRead a len u err) s) (fun s' =>
       s'.mem.mem = s.mem.mem ∧ s'.clusters = s.clusters ∧ s'.jobs = s.jobs ∧ s'.mem.objs = s.mem.objs ∧
       (∀ ch, ch ≠ l.ch → (s'.mem.chans.get ch).poison = (s.mem.chans.get ch).poison) ∧
       (s'.mem.chans.get l.ch).poison =
         match err with
         | .ue _ => if s.badCoff l.ch l.coff then (s.mem.chans.get l.ch).poison else l.coff / 32 :: (s.mem.chans.get l.ch).poison
         | _ => (s.mem.chans.get l.ch).poison)) ∧
     (∀ data err, s.writeErr a data.length ≠ 0 → exec (.hbmWrite a data u err) s = .next s) ∧
     (∀ data, data ≠ [] → a + data.length ≤ s.hbmEnd → s.writeErr a data.length = 0 → Mem.wf 0 s.mem.mem = true →
       Leaves (exec (.hbmWrite a data u .ok) s) (fun s' => s'.jobs = s.jobs ∧ s'.mem.objs = s.mem.objs ∧
         ∀ b, s'.byte b = if a ≤ b ∧ b < a + data.length then data.getD (b - a) 0 else s.byte b))) ∧
  (∀ (s : State) (a len : Nat) (data : Option (List Byte)) (x : CtxNo), len ≠ 0 → a / 256 = (a + len - 1) / 256 →
     Mem.wf 0 s.mem.mem = true →
     (∀ c : Ctx, s.inScratch a = true → x = some c →
       s.mem.llm.eighths.getD (eighthOf a) .both = (match c with | .j0 => EighthCtx.j1 | .j1 => EighthCtx.j0) → ∀ err,
       exec (.llmAccess a len data x err) s = .next s) ∧
     (∀ l g, s.inScratch a = false → s.locate a = some l → s.locate (256 * (a / 256)) = some g →
       let lines := s.mem.llm.slices.get l.slice
       let cls := s.allocClass (256 * (a / 256))
       let used (e : Nat) : Nat := ((lines.filter (fun q => llmSet q.gran = llmSet (a / 256))).filter (fun q => q.eighth = e)).length
       let does (P : List LlmLine → State → Prop) : Prop :=
         Leaves (exec (.llmAccess a len data x .ok) s) (fun s' => P (s'.mem.llm.slices.get l.slice) s' ∧ s'.mem.objs = s.mem.objs ∧
           s'.jobs = s.jobs ∧ ∀ b, s'.byte b =
             match data with
             | none => s.byte b
             | some bs => if s.writeErr a (bs.take len).length = 0 ∧ a ≤ b ∧ b < a + (bs.take len).length then (bs.take len).getD (b - a) 0
               else s.byte b)
       (∀ q, lines.find? (fun q => q.gran = a / 256) = some q →
         does (fun v _ => v = { q with dirty := q.dirty || data.isSome } :: lines.filter (fun q => q.gran != a / 256))) ∧
       (lines.find? (fun q => q.gran = a / 256) = none →
         (cls = 2 → does (fun v _ => v = lines)) ∧
         ((cls = 0 ∨ cls = 1) → (s.mem.chans.get g.ch).privileged = false →
           (∃ e, e < 8 ∧ s.mem.llm.takes e x = true ∧ used e < 2) →
           does (fun v s' => ∃ e, e < 8 ∧ s.mem.llm.takes e x = true ∧ used e < 2 ∧
             let n : LlmLine := { gran := a / 256, eighth := e, dirty := data.isSome, poison := s'.poisoned (256 * (a / 256)) 256 }
             v = if cls = 1 then lines ++ [n] else n :: lines)))))

/-- NM_ADD (R292 to R294, R297): an add of a party that may make it puts the element sums in the place of the elements and changes no other
byte; one that touches a codeword that cannot be read adds no element; the granule's lines leave the last-level memory. -/
def Obligations.NearMemoryAdds : Prop :=
  ∀ (s : State) (a : Nat) (t : AddType) (operand : List Byte) (ret : Bool) (p : Party) (err : HbmErr),
    let n := operand.length
    let w := t.bytes
    addLegal a t n = true → s.access p a n = .ok → Mem.wf 0 s.mem.mem = true →
    (s.poisoned a n = true → Leaves (exec (.nmAdd a t operand ret p err) s) (fun s' => s'.mem.mem = s.mem.mem ∧ s'.mem.objs = s.mem.objs)) ∧
    (s.poisoned a n = false → Leaves (exec (.nmAdd a t operand ret p .ok) s) (fun s' =>
      s'.rd a n = (List.range (n / w)).flatMap (fun i =>
        toBytes w (t.sum (ofBytes (slice (s.rd a n) (i * w) w)) (ofBytes (slice operand (i * w) w))).1) ∧
      (∀ b, b < a ∨ a + n ≤ b → s'.byte b = s.byte b) ∧ s'.mem.objs = s.mem.objs ∧ s'.jobs = s.jobs ∧
      ∀ sl, ∀ l ∈ s'.mem.llm.slices.get sl, l.gran ≠ a / 256))

/-- CHANNEL_RETIRE, SCRUB_GRANULE, SCRUB_FORCED and SCRUB_POSITION_SAVE (R285, R286, R288 to R291): a channel that meets a condition of R285 is fenced, its
last-level memory lines are gone, and the objects with a byte on it are damaged; a scrub, after 1 µs without a request or 200 ms without a
granule, goes on by one granule and wraps; the positions are saved once an hour. None changes a byte of memory. -/
def Obligations.RetireAndScrub : Prop :=
  ∀ (s : State) (ch : Chan) (errs : List (Nat × HbmErr)),
    let k := s.mem.chans.get ch
    let scrubbed (o : Host.Outcome State Fault Refusal) : Prop :=
      Leaves o (fun s' => (s'.mem.chans.get ch).scrubPos = (k.scrubPos + 1) % 393216 ∧ (s'.mem.chans.get ch).scrubLast = s.now ∧
        s'.mem.mem = s.mem.mem ∧ s'.mem.objs = s.mem.objs ∧ s'.jobs = s.jobs)
    (k.fenced = false → k.absent = false → s.retireDue ch = true → Leaves (exec (.channelRetire ch) s) (fun s' =>
      (s'.mem.chans.get ch).fenced = true ∧ (∀ o, o ≠ ch → s'.mem.chans.get o = s.mem.chans.get o) ∧ s'.mem.mem = s.mem.mem ∧
      s'.mem.objs.map Obj.handle = s.mem.objs.map Obj.handle ∧
      (∀ o ∈ s.mem.objs, s.objOnChan ch o = true → { o with damaged := true } ∈ s'.mem.objs) ∧
      ∀ sl, ∀ l ∈ s'.mem.llm.slices.get sl, ∀ q, s.locate (256 * l.gran) = some q → q.ch ≠ ch)) ∧
    (s.retireDue ch = false → exec (.channelRetire ch) s = .next s) ∧
    (s.scrubs ch = true →
      (k.fgLast + 1000 ≤ s.now → scrubbed (exec (.scrubGranule ch errs) s)) ∧
      (s.now < k.fgLast + 1000 → exec (.scrubGranule ch errs) s = .next s) ∧
      (k.scrubLast + 200000000 ≤ s.now → scrubbed (exec (.scrubForced ch errs) s)) ∧
      (s.now < k.scrubLast + 200000000 → exec (.scrubForced ch errs) s = .next s)) ∧
    (s.mem.scrubSavedAt + 3600000000000 ≤ s.now → exec .scrubPositionSave s = .next { s with mem := { s.mem with
      scrubSaved := s.mem.chans.toList.map (·.scrubPos)
      scrubSavedAt := s.now } }) ∧
    (s.now < s.mem.scrubSavedAt + 3600000000000 → exec .scrubPositionSave s = .next s)

/-- MOVE_START, MOVE_COMPLETE and ANCHOR_RECALL (R318, R319, R322 to R324): an accepted move starts once nothing pins its object, and its source's pages
are then Moving; a plain move within this device copies every byte and the record names the new home; a change of owner moves no byte; an
uncorrectable error leaves the object where it was, Damaged; an owner's access to an Absent page has the object moved back to its
anchor.

CODEC_ENCODE_SLOT and CODEC_DECODE_SLOT (R332 to R336): the oldest slot of a hub's queue leaves it coded, or decoded; a slot that fails its checks fails its
move, and the object stays where it was. No byte of memory changes. -/
def Obligations.MovesAndCodecSlots : Prop :=
  ((∀ (s : State) (h : Nat) (m : Move) (o : Obj), s.move? h = some m → s.obj? h = some o → o.handle = h →
     ((m.started = true ∨ o.pins ≠ 0) → exec (.moveStart h) s = .next s) ∧
     (m.started = false → o.pins = 0 → Leaves (exec (.moveStart h) s) (fun s' => s'.mem.mem = s.mem.mem ∧ s'.mem.objs = s.mem.objs ∧
       s'.jobs = s.jobs ∧ (∃ m', s'.move? h = some m' ∧ m'.started = true) ∧
       ((o.tier = 1 ∨ o.tier = 2) → ∀ b, o.home ≤ b → b < o.home + o.size →
         (s'.pageOf b).map (fun r => (r.owner, r.st)) = some (s.ownerParty o.owner, .moving)))) ∧
     (m.started = true → s.mem.heldBar2 = [] →
       (m.ownerOnly = true → ∀ data, Leaves (exec (.moveComplete h data .ok) s) (fun s' => s'.mem.mem = s.mem.mem ∧ s'.jobs = s.jobs ∧
         s'.move? h = none ∧ ∃ o', s'.obj? h = some o' ∧ o'.owner = m.newOwner.getD o.owner ∧ o'.home = o.home ∧ o'.moving = false)) ∧
       (m.ownerOnly = false → (o.tier = 1 ∨ o.tier = 2) → (m.dstTier = 1 ∨ m.dstTier = 2) → m.comp = false → o.comp = false →
         s.poisoned o.home o.size = false → s.coding m = false → Mem.wf 0 s.mem.mem = true →
         ∀ data, Leaves (exec (.moveComplete h data .ok) s) (fun s' => s'.rd m.dstAddr o.size = s.rd o.home o.size ∧
           (∀ b, b < m.dstAddr ∨ m.dstAddr + o.size ≤ b → s'.byte b = s.byte b) ∧ s'.jobs = s.jobs ∧ s'.move? h = none ∧
           ∃ o', s'.obj? h = some o' ∧ o'.tier = m.dstTier ∧ o'.home = m.dstAddr ∧ o'.size = o.size ∧ o'.moving = false)) ∧
       (∀ data, Leaves (exec (.moveComplete h data .hbmUe) s) (fun s' => s'.mem.mem = s.mem.mem ∧ s'.jobs = s.jobs ∧ s'.move? h = none ∧
         ∃ o', s'.obj? h = some o' ∧ o' = { o with moving := false, damaged := true })))) ∧
   (∀ (s : State) (a : Nat) (x : Ctx) (r : MapRange) (o : Obj) (b : Nat), s.pageOf a = some r → r.st = .absent → r.owner = s.party x →
     s.mem.objs.find? (fun o => match o.anchor with | some b => b ≤ a && a < b + o.size | none => false) = some o → o.anchor = some b →
     o.moving = false →
     Leaves (exec (.anchorRecall a (some x)) s) (fun s' => s'.mem.mem = s.mem.mem ∧ s'.jobs = s.jobs ∧
       { o with moving := true } ∈ s'.mem.objs ∧ ∃ m ∈ s'.mem.moves, m.handle = o.handle ∧ m.recalled = true ∧ m.dstAddr = b))) ∧
  (∀ (s : State) (h : Hub) (j : CodecJob) (rest : List CodecJob),
     let at_ (s' : State) := s'.mem.codecs.get h
     ((at_ s).encIn = j :: rest → Leaves (exec (.codecEncodeSlot h) s) (fun s' => s'.mem.mem = s.mem.mem ∧ s'.mem.objs = s.mem.objs ∧
       (at_ s').encOut = [{ j with bytes := (encodeSlot (elemWidth j.elemW) j.bytes).2, tag := (encodeSlot (elemWidth j.elemW) j.bytes).1 }] ∧
       rest <+: (at_ s').encIn)) ∧
     ((at_ s).decIn = j :: rest →
       (∀ bs, decodeSlot (elemWidth j.elemW) j.tag j.bytes = some bs → Leaves (exec (.codecDecodeSlot h) s) (fun s' =>
         s'.mem.mem = s.mem.mem ∧ s'.mem.objs = s.mem.objs ∧ (at_ s').decOut = [{ j with bytes := bs }] ∧ rest <+: (at_ s').decIn)) ∧
       (decodeSlot (elemWidth j.elemW) j.tag j.bytes = none → s.mem.heldBar2 = [] → ∀ m o, s.move? j.handle = some m →
         s.obj? j.handle = some o → o.handle = j.handle → Leaves (exec (.codecDecodeSlot h) s) (fun s' => s'.mem.mem = s.mem.mem ∧
           s'.move? j.handle = none ∧ s'.obj? j.handle = some { o with moving := false }))))

/-- BAR2_READ, BAR2_WRITE and BAR2_HOLD_TIMEOUT (R282, R321, R584): an offset of a mapped aperture reaches its device-local address: a read answers its bytes, with
EP set where they are poisoned, and a write changes its own bytes alone; on a Moving page the access is held, and one held for 1 ms is
aborted; an unmapped aperture or a refused access is aborted. -/
def Obligations.Bar2Accesses : Prop :=
  ∀ (s : State) (off : Nat) (data : List Byte) (len : Nat),
    let done (r : Option (List Byte)) (ep : Bool) : State := { s with regs := { s.regs with
      lastRead := r
      lastAbort := r.isNone
      lastEp := ep } }
    0 < len → off % 2 ^ 36 + len ≤ 2 ^ 36 → data.length = len →
    (s.bar2Addr off = none → exec (.bar2Read off len) s = .next (done none false) ∧ exec (.bar2Write off data) s = .next (done none false)) ∧
    (∀ a, s.bar2Addr off = some a →
      (s.access s.hostParty a len = .ok → exec (.bar2Read off len) s = .next (done (some (s.rd a len)) (s.poisoned a len))) ∧
      (s.accessW s.hostParty a len = .ok → Mem.wf 0 s.mem.mem = true → Leaves (exec (.bar2Write off data) s) (fun s' =>
        s'.regs.lastAbort = false ∧ s'.jobs = s.jobs ∧ s'.mem.objs = s.mem.objs ∧
        ∀ b, s'.byte b = if a ≤ b ∧ b < a + len then data.getD (b - a) 0 else s.byte b)) ∧
      (s.access s.hostParty a len = .hold →
        exec (.bar2Read off len) s = .next { s with mem := { s.mem with
          heldBar2 := s.mem.heldBar2 ++ [{ addr := a, len := len, data := none, since := s.now }] } }) ∧
      (∀ st, s.access s.hostParty a len = .fail st → exec (.bar2Read off len) s = .next (done none false) ∧
        exec (.bar2Write off data) s = .next (done none false))) ∧
    (∀ h rest, s.mem.heldBar2 = h :: rest →
      (s.now < h.since + 1000000 → exec .bar2HoldTimeout s = .next s) ∧
      (h.since + 1000000 ≤ s.now → Answers (exec .bar2HoldTimeout s) { done none false with mem := { s.mem with heldBar2 := rest } }))

/-- The exact codec loses nothing (R332 to R335): every slot of 4 KiB, at every element width, decodes from its tag and stored bytes to
itself. -/
def Obligations.CodecIsExact : Prop :=
  ∀ (w : Nat) (bs : List Byte), w = 1 ∨ w = 2 ∨ w = 4 → bs.length = 4096 →
    decodeSlot w (encodeSlot w bs).1 (encodeSlot w bs).2 = some bs

/-- LINK_TRAINING_START, LANES_LOCKED, NEGOTIATION_RECORD_SEND and NEGOTIATION_RECORD (R351 to R356): a port whose time has come trains in its role, or
is DISABLED; locked lanes make it NOT_READY; its record goes out every 1 µs; a first copy of the peer's record is kept, a second ends in
LINK_MISMATCH, in a link UP with the width and credits of R355 and R350 once both ends are fabric-ready, or out of service with fewer
than 2 lanes. Nothing but the port, and the time the peer was heard, changes.

LINK_FAULT, RETRAIN_ATTEMPT_START, RETRAIN_ATTEMPT_END and FAB_CONGEST (R351, R381, R382, R387): a fault takes a link from UP to RETRAIN, its replay buffer and credits
kept; a good attempt brings it UP with the lanes both ends can use, a bad one is tried again after 50 µs, and the third makes it FAILED;
a virtual channel without credit for longer than the limit raises FAB_CONGEST once. -/
def Obligations.LinkStates : Prop :=
  (∀ (s : State) (p : Port) (r : NegRec) (lanes : BitVec 8),
     let q := s.fab.ports.get p
     let cfg := q.nextRole.getD (q.role, q.enable, q.congestNs)
     let copied (q : FPort) : FPort := { q with
       peer := some r
       peerSame := q.peerSame + 1 }
     (q.link = .training → q.peer = none →
       (s.now < q.trainAt.getD (s.trainStart p) → exec (.linkTrainingStart p) s = .next s) ∧
       (q.trainAt.getD (s.trainStart p) ≤ s.now → cfg.1 ≠ .unused → cfg.2.1 = true →
         exec (.linkTrainingStart p) s = .next (s.updPort p (fun q => { q with
           role := cfg.1
           enable := true
           congestNs := cfg.2.2
           nextRole := none
           trainAt := some (s.now + 10000000)
           attempts := q.attempts + 1
           peerSame := 0
           sent := 0
           sentRec := none }))) ∧
       (q.trainAt.getD (s.trainStart p) ≤ s.now → (cfg.1 = .unused ∨ cfg.2.1 = false) →
         exec (.linkTrainingStart p) s = .next (s.updPort p (fun q => { q with
           role := cfg.1
           enable := cfg.2.1
           congestNs := cfg.2.2
           nextRole := none
           link := .disabled })))) ∧
     (q.link = .training → q.attempts ≠ 0 → exec (.lanesLocked p lanes) s = .next (s.updPort p (fun q => { q with
       link := .notReady
       laneOk := lanes.toNat }))) ∧
     ((q.link = .training ∨ q.link = .notReady) → q.attempts ≠ 0 →
       ((q.sent = 0 ∨ q.sentAt + 1000 ≤ s.now) → Fabs (exec (.negotiationRecordSend p) s) s (fun f =>
         (f.ports.get p).sent = q.sent + 1 ∧ (f.ports.get p).sentRec = some (s.ownRec p))) ∧
       (q.sent ≠ 0 → s.now < q.sentAt + 1000 → exec (.negotiationRecordSend p) s = .next s) ∧
       (q.peer ≠ some r → exec (.negotiationRecord p r) s = .next (s.updPort p (fun q => { q with
         peer := some r
         peerSame := 1 }))) ∧
       (q.peer = some r → 1 ≤ q.peerSame → q.refuses p r = true →
         exec (.negotiationRecord p r) s = .next (raise (s.updPort p (fun q => { copied q with link := .disabled }))
           { code := Code.LINK_MISMATCH, unit := { cls := 8, unit := p.val }, detail := detailOf 0 p.val 0 })) ∧
       (q.peer = some r → 1 ≤ q.peerSame → q.refuses p r = false → q.link = .notReady → 2 ≤ q.sent →
         (widthOf (q.lanesBoth r) = 0 → exec (.negotiationRecord p r) s = .next (s.updPort p (fun q => { copied q with
           link := .disabled
           outOfService := true
           lanes := 0 }))) ∧
         (widthOf (q.lanesBoth r) ≠ 0 → s.sys.fabricReady = true → r.ready = true → q.txq = [] →
           Fabs (exec (.negotiationRecord p r) s) s (fun f => (f.ports.get p).link = .up ∧ (f.ports.get p).lanes = widthOf (q.lanesBoth r) ∧
             (∀ v : Fin 8, (f.ports.get p).credits.get v = creditsOf q.role v.val) ∧ (f.ports.get p).replay = [] ∧
             (r.devNum, s.now) ∈ f.heard ∧ ∀ o, o ≠ p → f.ports.get o = s.fab.ports.get o))))) ∧
  (∀ (s : State) (p : Port) (cause : LinkCause) (ok : Bool) (lanes : BitVec 8) (vc : Fin 8),
     let q := s.fab.ports.get p
     let w := widthOf (match q.peer with | some r => lanes.toNat &&& r.laneOk | none => lanes.toNat)
     (q.link = .up → exec (.linkFault p cause) s = .next (s.updPort p (fun q => { q with
       link := .retrain
       retrainSince := s.now
       attempts := 0
       attempting := true
       faultCause := cause.code
       lanesBefore := q.lanes }))) ∧
     (q.link ≠ .up → exec (.linkFault p cause) s = .next s) ∧
     (q.link = .retrain →
       (q.attempting = false → q.trainAt.getD 0 + 50000 ≤ s.now →
         exec (.retrainAttemptStart p) s = .next (s.updPort p (fun q => { q with attempting := true }))) ∧
       ((q.attempting = true ∨ s.now < q.trainAt.getD 0 + 50000) → exec (.retrainAttemptStart p) s = .next s) ∧
       (q.attempting = true → ok = true → w ≠ 0 → q.txq = [] → s.calm → Fabs (exec (.retrainAttemptEnd p ok lanes) s) s (fun f =>
         (f.ports.get p).link = .up ∧ (f.ports.get p).lanes = w ∧ (f.ports.get p).replay = q.replay ∧
         (f.ports.get p).credits = q.credits ∧ ∀ o, o ≠ p → f.ports.get o = s.fab.ports.get o)) ∧
       (q.attempting = true → (ok = false ∨ w = 0) → q.attempts + 1 < 3 →
         exec (.retrainAttemptEnd p ok lanes) s = .next (s.updPort p (fun q => { q with
           attempting := false
           attempts := q.attempts + 1
           trainAt := some s.now }))) ∧
       (q.attempting = true → (ok = false ∨ w = 0) → 3 ≤ q.attempts + 1 → Leaves (exec (.retrainAttemptEnd p ok lanes) s) (fun s' =>
         (s'.fab.ports.get p).link = .failed ∧ s'.mem = s.mem ∧ s'.jobs = s.jobs ∧ s'.clusters = s.clusters))) ∧
     (q.waitSince.get vc = none → exec (.fabCongest p vc) s = .next (s.updPort p (fun q => { q with congested := false }))) ∧
     (∀ t, q.waitSince.get vc = some t →
       ((s.now ≤ t + q.congestNs ∨ q.congested = true) → exec (.fabCongest p vc) s = .next s) ∧
       (t + q.congestNs < s.now → q.congested = false →
         exec (.fabCongest p vc) s = .next (raise (s.updPort p (fun q => { q with congested := true }))
           { code := Code.FAB_CONGEST, unit := { cls := 8, unit := p.val, sub := vc.val }, detail := detailOf 0 (p.val + place vc.val 8) 0 }))))

/-- FLIT_RECEIVE and PACKET_FORWARD (R349, R350, R376, R378): on a link that is UP a flit in order is taken, and a damaged or early one is discarded
with a Nak naming the last good one; an acknowledgement frees the flits it covers and credits are added; the eighth replay of a flit
starts a retrain. A packet for another device that has made 63 hops is dropped; another joins the queue of the port its route names,
with its hop counted.

PACKET_RECEIVE (R363, R366 to R368): the packet a flow expects next is delivered and the next one expected; one below it, or one held, is not
delivered again; one above it is held while the reorder store has room, and a Relaxed one is delivered at once; a damaged packet, one of
an older epoch, and one of an undefined operation are delivered never. A first packet, or a newer epoch, opens the flow.

T_ACK, T_NAK, T_ACK_TIMER, RETRANSMIT_TIMEOUT and FLOW_CONTEXT_CLOSE (R362, R364, R366): an acknowledgement of the flow's epoch lets the packets up to its SeqNum
go; a negative one, or 4 ms without one, sends them again, at most four times, after which the flow is closed; SeqNum 0 reopens the flow
under the next epoch, numbered from 1; an acknowledgement is sent 1 µs after a delivery; an idle context is closed. -/
def Obligations.PacketsTravel : Prop :=
  ((∀ (s : State) (p : Port) (f : Flit),
     let q := s.fab.ports.get p
     q.link = .up →
     (f.crcOk = false → exec (.flitReceive p f) s = .next (if q.rxDrop then s else s.updPort p (fun q => { q with
       rxDrop := true
       nakSent := some q.rxLast }))) ∧
     (f.crcOk = true → f.nak = false →
       (f.idle = true → q.txq = [] → Fabs (exec (.flitReceive p f) s) s (fun b =>
         (b.ports.get p).replay = q.replay.filter (fun g => !covered g.seq f.ackSeq) ∧ (b.ports.get p).rxLast = q.rxLast ∧
         ∀ v : Fin 8, (b.ports.get p).credits.get v = q.credits.get v + if v.val = f.crVc then f.crCount else 0)) ∧
       (f.idle = false → f.seq = (q.rxLast + 1) % 16384 → Fabs (exec (.flitReceive p f) s) s (fun b =>
         (b.ports.get p).rxLast = f.seq ∧ (b.ports.get p).rxDrop = false)) ∧
       (f.idle = false → f.seq ≠ (q.rxLast + 1) % 16384 → Fabs (exec (.flitReceive p f) s) s (fun b =>
         (b.ports.get p).rxLast = q.rxLast ∧ (b.ports.get p).rxDrop = true))) ∧
     (∀ g rest n, f.crcOk = true → f.nak = true → q.replay.filter (fun g => !covered g.seq f.ackSeq) = g :: rest →
       q.replayOf = some (g.seq, n) → 7 ≤ n → Leaves (exec (.flitReceive p f) s) (fun s' => (s'.fab.ports.get p).link = .retrain ∧
         s'.mem = s.mem ∧ s'.jobs = s.jobs))) ∧
   (∀ (s : State) (p : Port) (k : Pkt), k.dst ≠ s.ident.devNum →
     (63 ≤ k.hops → exec (.packetForward p k) s = .next (bump (oweCredits s p k) { code := Cnt.FAB_HOPS, unit := p.val })) ∧
     (∀ b e hall (o : Port), k.hops < 63 → s.calm → s.fab.bank? k.routeEpoch = some b → b.lookup s.ident.devNum k.dst = (o.val, e, hall) →
       k.detour = false → ((s.fab.ports.get o).role = .torus ∨ (s.fab.ports.get o).role = .uplink) →
       (s.fab.ports.get o).link = .retrain → Leaves (exec (.packetForward p k) s) (fun s' =>
         (s'.fab.ports.get o).txq = (s.fab.ports.get o).txq ++ [{ k with
           hops := k.hops + 1
           vc := s.vcOn k (decide (p.val / 2 = o.val / 2)) o.val }] ∧ s'.mem = s.mem ∧ s'.jobs = s.jobs)))) ∧
  (∀ (s : State) (p : Port) (k : Pkt), k.dst = s.ident.devNum →
     let does (delivers : List Pkt) (flow : Option (Nat × List Pkt × List Nat)) : Prop :=
       Leaves (exec (.packetReceive p k) s) (fun s' => s'.fab.delivered = s.fab.delivered ++ delivers ∧
         (s'.fab.dstFlow? k.cls k.src).map (fun g => (g.expect, g.held, g.early)) = flow ∧
         s'.mem = s.mem ∧ s'.jobs = s.jobs ∧ s'.clusters = s.clusters)
     let now_ (f : DstFlow) := some (f.expect, f.held, f.early)
     (defined k.cls k.op = false → exec (.packetReceive p k) s = .next (bump (oweCredits s p k) { code := Cnt.FAB_BADOP, unit := p.val })) ∧
     (defined k.cls k.op = true → k.crc ≠ k.e2e → does [] ((s.fab.dstFlow? k.cls k.src).bind now_)) ∧
     (defined k.cls k.op = true → k.crc = k.e2e → k.seq = 0 → exec (.packetReceive p k) s = .next (oweCredits s p k)) ∧
     (defined k.cls k.op = true → k.crc = k.e2e → k.seq ≠ 0 → (k.cls ≠ 0 ∨ k.op = 0x1F) →
       (∀ f, s.fab.dstFlow? k.cls k.src = some f → k.flowEpoch = f.epoch →
         ((k.seq < f.expect ∨ k.seq ∈ f.early ∨ ∃ o ∈ f.held, o.seq = k.seq) → does [] (now_ f)) ∧
         (k.seq = f.expect → f.held = [] → f.early = [] → does [k] (some (f.expect + 1, [], []))) ∧
         (f.expect < k.seq → k.seq ∉ f.early → (∀ o ∈ f.held, o.seq ≠ k.seq) →
           (k.relaxed = true → does [k] (some (f.expect, f.held, k.seq :: f.early))) ∧
           (k.relaxed = false → s.fab.reorderBytes + k.bytes ≤ 8388608 → does [] (some (f.expect, f.held ++ [k], f.early))) ∧
           (k.relaxed = false → 8388608 < s.fab.reorderBytes + k.bytes → does [] (now_ f)))) ∧
       (∀ f, s.fab.dstFlow? k.cls k.src = some f → k.flowEpoch ≠ f.epoch → epochNewer k.flowEpoch f.epoch = false →
         exec (.packetReceive p k) s = .next (bump (oweCredits s p k) { code := Cnt.T_STALE, unit := p.val })) ∧
       (k.seq = 1 → (s.fab.dstFlow? k.cls k.src = none ∧ s.fab.dst.length < 8192 ∨
           ∃ f, s.fab.dstFlow? k.cls k.src = some f ∧ k.flowEpoch ≠ f.epoch ∧ epochNewer k.flowEpoch f.epoch = true) →
         does [k] (some (2, [], []))) ∧
       (s.fab.dstFlow? k.cls k.src = none → k.seq ≠ 1 → does [] none))) ∧
  (∀ (s : State) (cls peer : Nat),
     (∀ f seq, s.fab.srcFlow? cls peer = some f →
       let sees (o : Host.Outcome State Fault Refusal) (P : Option SrcFlow → Prop) : Prop :=
         Leaves o (fun s' => P (s'.fab.srcFlow? cls peer) ∧ s'.mem = s.mem ∧ s'.jobs = s.jobs ∧ s'.clusters = s.clusters)
       let again (u : Unacked) : Unacked := { u with
         retries := u.retries + 1
         sentAt := s.now }
       (∀ epoch, epoch ≠ f.epoch → exec (.tAck peer cls epoch seq) s = .next s ∧ exec (.tNak peer cls epoch seq) s = .next s) ∧
       (f.waiting = [] → s.mem.ckptJobs = [] → sees (exec (.tAck peer cls f.epoch seq) s) (fun g => g = some { f with
         unacked := f.unacked.filter (fun u => seq < u.pkt.seq)
         lastUse := s.now })) ∧
       ((f.unacked.map (·.pkt.seq)).Nodup → (∀ u ∈ f.unacked, u.retries < 4) → s.calm →
         (seq ≠ 0 → sees (exec (.tNak peer cls f.epoch seq) s) (fun g => g.map (·.unacked) =
           some (f.unacked.map (fun u => if seq ≤ u.pkt.seq then again u else u)))) ∧
         sees (exec (.retransmitTimeout peer cls) s) (fun g => g.map (·.unacked) =
           some (f.unacked.map (fun u => if u.sentAt + 4000000 ≤ s.now then again u else u)))) ∧
       (s.calm → sees (exec (.tNak peer cls f.epoch 0) s) (fun g => g.map (fun h => (h.epoch, h.nextSeq, h.unacked.map (·.pkt.seq))) =
         some ((f.epoch + 1) % 256, f.unacked.length + 1, (List.range f.unacked.length).map (· + 1)))) ∧
       (∀ u, f.unacked = [u] → f.waiting = [] → 4 ≤ u.retries → u.sentAt + 4000000 ≤ s.now → u.pkt.cls = cls → cls ≠ 3 → s.fab.reqs = [] →
         s.fab.ctxWait = [] → s.calm → sees (exec (.retransmitTimeout peer cls) s) (fun g => g = none)) ∧
       (f.unacked = [] → f.waiting = [] → f.lastUse + 10000000 ≤ s.now → s.fab.ctxWait = [] →
         sees (exec (.flowContextClose true peer cls) s) (fun g => g = none)) ∧
       (f.unacked ≠ [] → exec (.flowContextClose true peer cls) s = .next s)) ∧
     (∀ f, s.fab.dstFlow? cls peer = some f →
       ((f.unackedN = 0 ∨ s.now < f.ackSince + 1000) → exec (.tAckTimer peer cls) s = .next s) ∧
       (f.unackedN ≠ 0 → f.ackSince + 1000 ≤ s.now → Leaves (exec (.tAckTimer peer cls) s) (fun s' =>
         (s'.fab.dstFlow? cls peer).map (fun g => (g.unackedN, g.expect)) = some (0, f.expect) ∧ s'.fab.delivered = s.fab.delivered ∧
         s'.mem = s.mem ∧ s'.jobs = s.jobs)) ∧
       (f.lastUse + 100000000 ≤ s.now → s.fab.dstWait = [] → exec (.flowContextClose false peer cls) s = .next { s with fab := { s.fab with
         dst := s.fab.dst.filter (fun g => !(g.cls = cls && g.peer = peer)) } }) ∧
       (s.now < f.lastUse + 100000000 → exec (.flowContextClose false peer cls) s = .next s)))

/-- LOAD, STORE, ADD, READ_BULK, WRITE and FABRIC_HOLD_EXPIRY (R292, R315, R317, R359, R361, R370, R374): a request whose sender may make it is performed on the bytes it names
and answered; a refused one is answered with the status of R361 and changes no byte; a LOAD or STORE from another pod is LEVEL_ILLEGAL;
one that meets a Moving page is held, and after 1 ms answered OWN_FAULT.

LOAD_DATA, DONE, READ_DATA, DRAIN and DRAIN_RET (R359, R361, R371 to R373, R379): a response goes to the request it answers and to nothing else: data join
what the requester has, the last of them completes the request, and DONE ends a store; a drain marker is answered with its class and
epoch, and the last answer empties the bank that was draining. -/
def Obligations.RequestsAndResponses : Prop :=
  ((∀ (s : State) (k : Pkt), k.dst = s.ident.devNum →
     let s0 : State := { s with fab := { s.fab with delivered := s.fab.delivered.erase k } }
     let a := localOff k.addr
     let reply (op status : Nat) (payload : List Byte) (last : Bool) : State :=
       send s0 { cls := 2, op := op, dst := k.src, src := 0, ctx := k.ctx, status := status, tag := k.tag, payload := payload,
                 len := payload.length, last := last }
     let writes (o : Host.Outcome State Fault Refusal) (n : Nat) (bs : List Byte) : Prop :=
       Leaves o (fun s' => s'.mem.objs = s.mem.objs ∧ s'.jobs = s.jobs ∧
         ∀ b, s'.byte b = if a ≤ b ∧ b < a + n then bs.getD (b - a) 0 else s.byte b)
     (k.cls = 1 → podOf k.src = podOf s.ident.devNum →
       (k.op = 1 →
         (s.pktAccess k k.len false = .ok →
           exec (.load k) s = .next (reply 0x01 (if s.poisoned a k.len then 2 else 0) (s.rd a k.len) false)) ∧
         (s.pktAccess k k.len false = .hold → exec (.load k) s = .next { s0 with fab := { s0.fab with
           heldReqs := s.fab.heldReqs ++ [{ pkt := k, since := s.now }] } }) ∧
         (∀ e, s.pktAccess k k.len false = .fail e → exec (.load k) s = .next (reply 0x01 (respStatus e) [] false))) ∧
       (k.op = 2 →
         (s.pktAccess k k.payload.length true = .ok → Mem.wf 0 s.mem.mem = true → writes (exec (.store k) s) k.payload.length k.payload) ∧
         (∀ e, s.pktAccess k k.payload.length true = .fail e → exec (.store k) s = .next (reply 0x02 (respStatus e) [] false)))) ∧
     (k.cls = 1 → podOf k.src ≠ podOf s.ident.devNum → (k.op = 1 → exec (.load k) s = .next (reply 0x01 6 [] false)) ∧
       (k.op = 2 → exec (.store k) s = .next (reply 0x02 6 [] false))) ∧
     (k.cls = 1 → k.op = 3 → let t := addTypeOf k.elemType
       let n := k.payload.length
       (s.pktAccess k n true = .ok → addLegal a t n = true → s.poisoned a n = false → Mem.wf 0 s.mem.mem = true →
         writes (exec (.add k) s) n ((List.range (n / t.bytes)).flatMap (fun i => toBytes t.bytes
           (t.sum (ofBytes (slice (s.rd a n) (i * t.bytes) t.bytes)) (ofBytes (slice k.payload (i * t.bytes) t.bytes))).1))) ∧
       (∀ e, s.pktAccess k n true = .fail e → exec (.add k) s = .next (reply 0x02 (respStatus e) [] false))) ∧
     (k.cls = 1 → k.op = 4 →
       (0 < k.len → k.len ≤ 1024 → s.pktAccess k k.len false = .ok →
         exec (.readBulk k) s = .next (reply 0x03 (if s.poisoned a k.len then 2 else 0) (s.rd a k.len) true)) ∧
       (∀ e, s.pktAccess k k.len false = .fail e → exec (.readBulk k) s = .next (reply 0x03 (respStatus e) [] true))) ∧
     (k.cls = 3 → k.op = 1 → a < 0xF00000000000 → hoSlot a = none → s.ringAt k = none →
       (s.pktAccess k k.payload.length true = .ok → Mem.wf 0 s.mem.mem = true → writes (exec (.write k) s) k.payload.length k.payload) ∧
       (∀ e, s.pktAccess k k.payload.length true = .fail e → e ≠ 0 → exec (.write k) s = .next s0))) ∧
   (∀ (s : State), (∀ h ∈ s.fab.heldReqs, s.now < h.since + 1000000) → exec .fabricHoldExpiry s = .next s) ∧
   (∀ (s : State) (h : HeldReq), s.fab.heldReqs = [h] → h.since + 1000000 ≤ s.now → h.pkt.cls = 1 → h.pkt.op = 1 →
     s.pktAccess h.pkt h.pkt.len false = .hold →
     exec .fabricHoldExpiry s = .next (send { s with fab := { s.fab with heldReqs := [] } }
       { cls := 2, op := 0x01, dst := h.pkt.src, src := 0, ctx := h.pkt.ctx, status := 1, tag := h.pkt.tag }))) ∧
  (∀ (s : State) (k : Pkt), k.dst = s.ident.devNum →
     let erased : Fabric := { s.fab with delivered := s.fab.delivered.erase k }
     (k.cls = 2 → s.reqFor k = none → (k.op = 1 → exec (.loadData k) s = .next { s with fab := erased }) ∧
       (k.op = 2 → exec (.done k) s = .next { s with fab := erased }) ∧ (k.op = 3 → exec (.readData k) s = .next { s with fab := erased })) ∧
     (∀ r, k.cls = 2 → s.reqFor k = some r → k.status = 0 →
       let ended : Fabric := { erased with reqs := s.fab.reqs.filter (fun q => q.tag != r.tag) }
       let gives (c : Cl) (t : Th) (data : List Byte) : State :=
         ({ s with fab := ended } : State).updThread c t (fun v => { v with
           waitRemote := v.waitRemote - 1
           remoteData := v.remoteData ++ data.zipIdx.map (fun p => (r.addr + p.2, p.1)) })
       (∀ (c : Cl) (t : Th), r.who = .thread c.val t.val →
         (k.op = 1 → exec (.loadData k) s = .next (gives c t k.payload)) ∧
         (k.op = 3 → k.last = true → exec (.readData k) s = .next (gives c t (r.got ++ k.payload)))) ∧
       (k.op = 3 → k.last = false → exec (.readData k) s = .next { s with fab := { erased with
         reqs := s.fab.reqs.map (fun q => if q.tag = r.tag then { q with got := q.got ++ k.payload } else q) } }) ∧
       (k.op = 2 → s.mem.ckptJobs = [] → exec (.done k) s = .next { s with fab := ended })) ∧
     (k.op = 0x1F → exec (.drain k) s = .next (send { s with fab := erased }
       (ctlPkt 0x07 k.src (toBytes 8 (k.cls + place (k.routeEpoch % 256) 8))))) ∧
     (k.cls = 0 → k.op = 0x07 → ∀ cls, bits (ofBytes (slice k.payload 0 8)) 7 0 = cls →
       ((cls, k.src) ∉ s.fab.drains → exec (.drainRet k) s = .next s) ∧
       ((cls, k.src) ∈ s.fab.drains → Leaves (exec (.drainRet k) s) (fun s' => s'.fab.drains = s.fab.drains.filter (· != (cls, k.src)) ∧
         s'.mem = s.mem ∧ s'.jobs = s.jobs ∧
         ((∀ d ∈ s.fab.drains, d = (cls, k.src)) → ∀ i, (s'.fab.banks.get i).st =
           if (s.fab.banks.get i).st = .draining then .emptySt else (s.fab.banks.get i).st)))))

/-- HEARTBEAT_SEND, HEARTBEAT, HEARTBEAT_TIMEOUT, FAULT_NOTICE, MULE and FREEZE (R143, R385, R386, R465, R524, R526, R527): a heartbeat is sent every 1 ms, and none after a fatal fault; one that
arrives is noted and its sender not failed; a neighbour silent for 5 ms, and a device a notice names, is failed; a message between Mules does
what it says; a freeze not seen before latches the counters, and one that is seen, or meets a frozen device, changes no snapshot. -/
def Obligations.MulesTalk : Prop :=
  (∀ (s : State) (dev : Nat),
    (s.now < s.fab.lastBeatSent + 1000000 ∨ s.sys.fatal = true → exec .heartbeatSend s = .next s) ∧
    (s.sys.fatal = false → s.power.state = .on → s.sys.muleUp = true → s.fab.lastBeatSent + 1000000 ≤ s.now →
      Leaves (exec .heartbeatSend s) (fun s' => s'.fab.lastBeatSent = s.now ∧ s'.mem = s.mem ∧ s'.jobs = s.jobs)) ∧
    exec (.heartbeat dev) s = .next { s with fab := { s.fab with
      heard := (dev, s.now) :: s.fab.heard.filter (fun h => h.1 != dev)
      failed := s.fab.failed.filter (· != dev) } } ∧
    (∀ h, s.fab.heard.find? (fun h => h.1 = dev) = some h →
      (s.now < h.2 + 5000000 → exec (.heartbeatTimeout dev) s = .next s) ∧
      (h.2 + 5000000 ≤ s.now → dev ∉ s.fab.failed → dev ∈ s.neighbours → s.shares dev = [] →
        Leaves (exec (.heartbeatTimeout dev) s) (fun s' => dev ∈ s'.fab.failed ∧ s'.mem = s.mem ∧ s'.jobs = s.jobs ∧ s'.clusters = s.clusters))) ∧
    (dev ∈ s.fab.failed → exec (.faultNotice dev) s = .next s) ∧
    (dev ∉ s.fab.failed → s.shares dev = [] →
      exec (.faultNotice dev) s = .next { s with fab := { s.fab with failed := dev :: s.fab.failed } }) ∧
    (dev ∉ s.fab.failed → s.fab.src = [] → s.fab.dstWait = [] → s.coll.insts = [] → s.goose.items = [] →
      Leaves (exec (.faultNotice dev) s) (fun s' => dev ∈ s'.fab.failed ∧ s'.mem = s.mem ∧ ∀ x ∈ s.shares dev, ∀ d,
        (s.jobs.get x).deputy = some d → (s.jobs.get x).sender = dev → d ∉ dev :: s.fab.failed → (s'.jobs.get x).sender = d))) ∧
  (∀ (s : State) (x : Ctx) (dev port : Nat) (failed : Bool),
    let j := s.jobs.get x
    (j.isOpen = true → j.halted = false →
      Reports (exec (.mule (.halt x dev)) s) (s.updJob x (fun j => { j with halted := true }))) ∧
    exec (.mule (.started x dev)) s = .next (s.updJob x (fun j => { j with
      startedBy := if j.startedBy.contains dev then j.startedBy else dev :: j.startedBy })) ∧
    exec (.mule (.linkReport dev port failed)) s = .next { s with coll := { s.coll with
      reports := s.coll.reports ++ [(dev, port, failed)] } }) ∧
  (∀ (s : State) (sender : Nat) (r : FreezeRec),
    ((r.origin, r.freezeId) ∈ s.obs.freezeSeen → exec (.freeze sender r) s = .next s) ∧
    ((r.origin, r.freezeId) ∉ s.obs.freezeSeen → s.obs.frozen = true → Leaves (exec (.freeze sender r) s) (fun s' =>
      s'.obs.snap = s.obs.snap ∧ s'.obs.frozen = true ∧ s'.mem = s.mem ∧ s'.jobs = s.jobs)) ∧
    ((r.origin, r.freezeId) ∉ s.obs.freezeSeen → s.obs.frozen = false → Leaves (exec (.freeze sender r) s) (fun s' =>
      s'.obs.frozen = true ∧ s'.obs.snap = some (latch s r.freezeId r.origin r.cause true) ∧ s'.mem = s.mem ∧ s'.jobs = s.jobs)))

/-- The trees of R400: for every owner the list of a ring or of a line names each position once, the owner last; and at every level a
member receives from another exactly where that one sends to it. -/
def Obligations.CollTrees : Prop :=
  (∀ (c j tree : Nat) (mode : Option Nat), j < c → (∀ st, mode = some st → st < c) →
    let l := treeList c mode tree j
    l.length = c ∧ l.Nodup ∧ (∀ k ∈ l, k < c) ∧ l.getLast? = some j) ∧
  (∀ c level a b : Nat, treeRole c level a = .receives b ↔ treeRole c level b = .sends a)

/-- COLL_TRIGGER, COLL_PACKET and COLL_TIMEOUT (R392, R401, R402, R407 to R409, R412): an armed instance starts, and takes its start time, once its trigger has come, the
instances before it have started and fewer than 8 are in flight, and fails where its buffers cannot be read; a packet for no group, or from
no member, is counted and dropped; one that breaks the shape, or carries Abort, ends the instance; one for a member further on is
relayed, one for an instance that has not started here is kept, and a part of a gathered half joins it; a running instance that has not
completed within its time ends. -/
def Obligations.CollRuns : Prop :=
  (∀ (s : State) (x : Ctx) (gid num : Nat) (i : CInst) (g : CGroup) (f : CFuse), s.cinst x gid num = some i → s.cgroup x gid = some g →
    s.cfuse x i.fuse = some f →
    let earlier := ∃ j ∈ s.coll.insts, j.ctx = x ∧ j.group = gid ∧ j.num < num ∧ j.running = false
    let flying := (s.coll.insts.filter (fun j => j.running && !j.completed)).length
    let readable := ∀ r ∈ collReads s i g f, r.2 ≠ 0 → s.poisoned r.1 r.2 = false
    ((i.running = true ∨ s.triggered i = false ∨ earlier ∨ 8 ≤ flying) → exec (.collTrigger x gid num) s = .next s) ∧
    (i.running = false → s.triggered i = true → ¬ earlier → flying < 8 → (s.jobs.get x).isOpen = true →
      (s.collAccess x (collRanges i g f) = .ok → readable → Leaves (exec (.collTrigger x gid num) s) (fun s' =>
        ∀ i', s'.cinst x gid num = some i' → i'.running = true ∧ i'.startAt = s.now)) ∧
      (∀ st, s.collAccess x (collRanges i g f) = .fail st →
        Leaves (exec (.collTrigger x gid num) s) (fun s' => i ∉ s'.coll.insts ∧ s'.mem.mem = s.mem.mem)))) ∧
  (∀ (s : State) (src : Nat) (x : Ctx) (payload : List Byte) (u : Upset),
    let num := bits (u64At payload 0) 31 0
    let gid := bits (u64At payload 0) 37 32
    let tree := bits (u64At payload 0) 39 39
    let part := bits (u64At payload 0) 54 40
    let level := bits (u64At payload 0) 58 55
    let op := bit (u64At payload 0) 38
    let rejected := exec (.collPacket src x payload u) s = .next (bump s { code := Cnt.COLL_REJECT, unit := tree })
    (s.cgroup x gid = none → rejected) ∧
    (∀ g, s.cgroup x gid = some g →
      (s.memberOf g src = false → rejected) ∧
      (s.memberOf g src = true →
        (∀ i, s.cinst x gid num = some i → (bits (u64At payload 8) 31 0 ≠ g.descCrc ∨ bit (u64At payload 0) 59 = true) →
          Leaves (exec (.collPacket src x payload u) s) (fun s' => i ∉ s'.coll.insts ∧ s'.mem.mem = s.mem.mem)) ∧
        (bits (u64At payload 8) 31 0 = g.descCrc → bit (u64At payload 0) 59 = false →
          (s.cinst x gid num = none → ∀ axis plus p, s.sideOf g g.modes src tree op = some (axis, plus) →
            s.placeIn g g.modes ((g.axesList.findIdx? (· = axis)).getD 0) part tree = some p →
            (p.target tree level op plus = false →
              exec (.collPacket src x payload u) s = .next (send s (collPkt x (s.neigh axis (!plus)) payload))) ∧
            (p.target tree level op plus = true → g.nextInst ≤ num →
              exec (.collPacket src x payload u) s = .next { s with coll := { s.coll with early := s.coll.early ++ [(src, x, payload)] } })) ∧
          (∀ i f axis plus p, s.cinst x gid num = some i → s.cfuse x i.fuse = some f → bits (u64At payload 8) 63 32 = f.shapeCrc →
            i.running = true → i.completed = false → i.recv = [] → op = true → collUpset u = false →
            s.sideOf g i.modes src tree op = some (axis, plus) →
            let phase := (g.axesList.findIdx? (· = axis)).getD 0
            s.placeIn g i.modes phase part tree = some p → p.target tree level op plus = true →
            let r : CRecv := { phase := phase, part := part, tree := tree, level := level, slow := bits (u64At payload 24) 15 0, firstAt := s.now,
                               cells := [(bits (u64At payload 16) 39 0, bits (u64At payload 16) 55 40, payload.drop 32)] }
            r.whole i.comp (collElemBytes f.dtype) (i.wireLen g f part tree) = none →
            Leaves (exec (.collPacket src x payload u) s) (fun s' => s'.cinst x gid num = some { i with
              recv := [r]
              waitNs := max i.waitNs (s.now - i.startAt) } ∧ s'.mem = s.mem ∧ s'.jobs = s.jobs)))))) ∧
  (∀ (s : State) (x : Ctx) (gid num : Nat) (i : CInst) (g : CGroup), s.cinst x gid num = some i → s.cgroup x gid = some g →
    ((i.running = false ∨ i.completed = true ∨ s.now < i.startAt + g.timeoutNs) → exec (.collTimeout x gid num) s = .next s) ∧
    (i.running = true → i.completed = false → i.startAt + g.timeoutNs ≤ s.now →
      Leaves (exec (.collTimeout x gid num) s) (fun s' => i ∉ s'.coll.insts ∧ s'.mem.mem = s.mem.mem ∧ s'.jobs = s.jobs)))

/-- OX_GRANULE (R421, R423, R427, R428, R431): the granule of a run whose turn has come writes the updated master value, momenta and, where it is asked for, work value
of its 64 elements, each computed from the elements as they were, and no other byte, and the channel goes on to its next granule; a pinned
object or a Moving page makes it wait; one that cannot be read, or whose check fails twice, writes nothing. -/
def Obligations.OxUpdates : Prop :=
  ∀ (s : State) (ch : Chan) (fails : Nat) (r : OxRun),
    s.mem.oxRuns.find? (fun r => r.begun && r.trig.isNone && r.chans.contains ch.val) = some r →
    (s.mem.chans.get ch).fenced = false → (s.mem.chans.get ch).oxFenced = false →
    let n := max 1 (s.listOf r.half).length
    let g := ((s.mem.chans.get ch).ox.get r.ctx).next
    let f := s.oxFirst r ch + g * n
    let acc := (r.reads f ++ r.writes n f).foldl (fun a p => a.and (s.access (s.party r.ctx) p.1 p.2)) Access.ok
    let word (p i : Nat) : Nat := ofBytes (s.rd (p + 4 * (64 * f + i)) 4)
    let el (i : Nat) := oxElem r.consts (word r.grad i) (word r.master i) (word r.m1 i) (word r.m2 i)
    let md (i : Nat) : Rnd :=
      if r.rnd = 1 then .sr (srRnd (s.jobs.get r.ctx).seed (srW1 r.step 0xFFFF r.ctx 0) (srW2Ox (r.idxBase + (64 * f + i)))) else .rne
    let plane (w : Nat × Nat × Nat → Nat) : List Byte := (List.range 64).flatMap (fun i => toBytes 4 (w (el i)))
    let m3 := Mem.write 0 (Mem.write 0 (Mem.write 0 s.mem.mem (r.master + 256 * f) (plane (·.1))) (r.m1 + 256 * f) (plane (·.2.1)))
      (r.m2 + 256 * f) (plane (·.2.2))
    ((s.oxPinned r = true ∨ acc = .hold) → exec (.oxGranule ch fails) s = .next s) ∧
    (s.oxPinned r = false → acc = .ok →
      ((∀ p ∈ r.reads f, s.poisoned p.1 p.2 = false) → fails < 2 → Leaves (exec (.oxGranule ch fails) s) (fun s' =>
        s'.mem.mem = (if r.workEn then Mem.write 0 m3 (r.work + workOffset n (64 * f))
          ((List.range 64).flatMap (fun i => toBytes 2 (convF32 .bf16 (md i) r.sat (el i).1).1)) else m3) ∧
        (s'.jobs.get r.ctx).updateStarted = true ∧
        (g + 1 < s.oxTotal r → ((s'.mem.chans.get ch).ox.get r.ctx).next = g + 1))) ∧
      (((∃ p ∈ r.reads f, s.poisoned p.1 p.2 = true) ∨ 2 ≤ fails) →
        Leaves (exec (.oxGranule ch fails) s) (fun s' => s'.mem.mem = s.mem.mem)))

/-- LOCAL_REPLAY, REPLAY_COMPLETE and the referee's rows (R448, R454, R456, R457, R459 to R462): a suspect item whose original has ended is replayed, its original's digest
formed, with at most two captures in use; a replay that passes with an equal digest on a first strike resolves it, one whose capture is
too large fails its beat, and every other is escalated; the referee's digest resolves the item or fails its beat with the strikes of R462;
a refused offer is made again after 10 µs, and one without an answer in time fails the beat. This device takes up to 16 packages besides
the one it runs. -/
def Obligations.ReplaysAndReferee : Prop :=
  (∀ (s : State) (id : Nat) (w : WorkItem), s.item? id = some w →
    let leaves (o : Host.Outcome State Fault Refusal) (P : WorkItem → Prop) : Prop :=
      Leaves o (fun s' => ∃ w', s'.item? id = some w' ∧ w'.cluster = w.cluster ∧ w'.digestReplay = w.digestReplay ∧ P w')
    (w.st = .suspect →
      (2 ≤ s.captures → exec (.localReplay id) s = .next s) ∧
      (s.captures < 2 → s.clusterUp w.cluster = true → s.originalEnded w = true →
        (∀ l t, w.kind = .launch → w.launch = some l → idleThread (s.clusters.get w.cluster) = some t →
          leaves (exec (.localReplay id) s) (fun w' => w'.st = .replaying ∧ w'.digestOrig = Seen.digest w.out) ∧
          Leaves (exec (.localReplay id) s) (fun s' => s'.thread w.cluster t = freshThread l (some id))) ∧
        (w.kind = .attStep → leaves (exec (.localReplay id) s) (fun w' => w'.st = .replaying ∧ w'.digestOrig = Seen.digest w.out)) ∧
        (∀ g e, w.kind = .group → s.group? w.cluster w.ctx w.desc w.ord = some g → s.replayEngine w = some e →
          leaves (exec (.localReplay id) s) (fun w' => w'.st = .replaying ∧ w'.digestOrig = Seen.digest g.out)))) ∧
    (w.st = .replayed →
      (w.replayPassed = true → w.digestReplay = w.digestOrig → w.strikes ≤ 1 →
        Reports (exec (.replayComplete id) s) (s.updItem id (fun w => { w with st := .resolved }))) ∧
      ((w.replayPassed = false ∨ w.digestReplay ≠ w.digestOrig ∨ 1 < w.strikes) →
        (w.captureBytes ≤ 1048576 → Reports (exec (.replayComplete id) s) (s.updItem id (fun w => { w with st := .escalated s.now s.now false }))) ∧
        (1048576 < w.captureBytes → leaves (exec (.replayComplete id) s) (fun w' => w'.st = .failed Code.REFEREE_SIZE)))) ∧
    (∀ first last refused, w.st = .escalated first last refused →
      (s.goose.strikes = [] → ∀ d,
        (d = w.digestReplay → leaves (exec (.refereeResult id (.digest d)) s) (fun w' => w'.st = .resolved)) ∧
        (d ≠ w.digestReplay → d = w.digestOrig →
          leaves (exec (.refereeResult id (.digest d)) s) (fun w' => w'.st = .failed Code.REFEREE_DISAGREE))) ∧
      (s.goose.strikes = [] → w.failing ≠ w.replayUnit.getD w.failing →
        leaves (exec (.refereeResult id .miss) s) (fun w' => w'.st = .failed Code.REFEREE_DISAGREE)) ∧
      ((refused = false ∨ s.now < last + 10000) → exec (.refereeReoffer id) s = .next s) ∧
      (refused = true → last + 10000 ≤ s.now →
        Reports (exec (.refereeReoffer id) s) (s.updItem id (fun w => { w with st := .escalated first s.now false }))) ∧
      (s.now < first + 1000 * s.goose.policy.refTimeoutUs → exec (.refereeLost id) s = .next s) ∧
      (first + 1000 * s.goose.policy.refTimeoutUs ≤ s.now →
        leaves (exec (.refereeLost id) s) (fun w' => w'.st = .failed Code.REFEREE_LOST)))) ∧
  (∀ (s : State) (src item : Nat) (digest : Option (BitVec 64)),
    let waiting := s.goose.referee.filter (fun p => !p.running)
    (16 ≤ waiting.length → exec (.refereePackage src item) s = .next (send s (muleMsg src 8 [item]))) ∧
    (waiting.length < 16 → exec (.refereePackage src item) s = .next { s with goose := { s.goose with
      referee := startReferee (s.goose.referee ++ [{ src := src, item := item, at_ := s.now }]) } }) ∧
    (s.goose.referee.find? (·.running) = none → exec (.refereeRunEnd digest) s = .next s) ∧
    (∀ p, s.goose.referee.find? (·.running) = some p → Reports (exec (.refereeRunEnd digest) s) { s with goose := { s.goose with
      referee := startReferee waiting } }))

/-- CPER_SUMMARY and FAULT_LOG_WRITE (R485, R486, R489, R622): once an hour the corrected events of each unit and code become one record, and not before; the oldest waiting record
takes the next place of the ring once the hold-up energy suffices and no flash operation runs.

GOOSE_FAIL, MULE_SRAM_UE, TEST_GRANULE and TEST_OVERDUE (R445, R470, R472 to R476): a device-fatal fault stops every commit, makes the service Fatal and drives FAULT# low; the
next granule of the cluster whose turn it is runs only when the cluster is free; a pass goes on to the next granule, and the last one ends
the cluster's pass; a failed granule fences its unit; a cluster whose pass is overdue is reported once and takes the next turn. -/
def Obligations.FaultsAndTests : Prop :=
  (∀ (s : State),
     (s.now < s.log.summaryAt + 3600000000000 → exec .cperSummary s = .next s) ∧
     (s.log.summaryAt + 3600000000000 ≤ s.now →
       Leaves (exec .cperSummary s) (fun s' => s'.log.summaryAt = s.now ∧ s'.mem = s.mem ∧ s'.jobs = s.jobs) ∧
       (∀ cls u sub ev n, s.log.pendingSummary = [(cls, u, sub, ev, n)] → s.log.rateSecond ≠ s.now / 1000000000 → 0 < s.goose.policy.logRate →
         Leaves (exec .cperSummary s) (fun s' => s'.log.pendingSummary = [] ∧ s'.log.lastSeq = s.log.lastSeq + 1 ∧
           ∃ r, s'.log.host = s.log.host ++ [r] ∧ r.recordId = s.log.lastSeq + 1 ∧ r.eventCode = ev ∧ r.unitClass = cls ∧ r.unitIndex = u ∧
             r.subIndex = sub ∧ r.count = n ∧ bit r.flags 2 = true))) ∧
     (∀ r rest, s.log.waiting = r :: rest →
       ((s.energyOk = false ∨ s.power.flashBusy = true) → exec .faultLogWrite s = .next s) ∧
       (s.energyOk = true → s.power.flashBusy = false → Leaves (exec .faultLogWrite s) (fun s' => s'.log.waiting = rest ∧
         (s.log.ringNext, r) ∈ s'.log.ring ∧ s'.log.ringNext = (s.log.ringNext + 1) % 16384 ∧ s'.log.host = s.log.host ∧
         s'.mem = s.mem ∧ s'.jobs = s.jobs)))) ∧
  ((∀ (s : State) (i : Instr), i = .gooseFail ∨ i = .muleSramUe → Leaves (exec i s) (fun s' => s'.goose.stopCommits = true ∧
     s'.sys.fatal = true ∧ s'.sys.service = .fatal ∧ s'.pins.faultLow = true ∧ s'.mem = s.mem ∧ s'.jobs = s.jobs ∧ s'.clusters = s.clusters)) ∧
   (∀ (s : State) (c : Cl), s.goose.testCluster = c.val → s.clusterUp c = true →
     let g := s.goose.testGranule
     (s.mayTest c = false → ∀ pass, exec (.testGranule pass) s = .next s) ∧
     (s.mayTest c = true →
       (168 ≤ g → g + 1 < 488 → exec (.testGranule true) s = .next { s with goose := { s.goose with testGranule := g + 1 } }) ∧
       (g < 168 → Leaves (exec (.testGranule true) s) (fun s' => s'.goose.testGranule = g + 1 ∧ (s'.clusters.get c).cache = [] ∧
         (s'.clusters.get c).store = (s.clusters.get c).store ∧ s'.mem = s.mem ∧ s'.jobs = s.jobs)) ∧
       (g = 487 → Leaves (exec (.testGranule true) s) (fun s' => s'.goose.testGranule = 0 ∧ s'.goose.lastPass.get c = s.now ∧
         s'.goose.overdue.get c = false ∧ s'.mem = s.mem ∧ s'.jobs = s.jobs ∧ s'.clusters = s.clusters)) ∧
       Leaves (exec (.testGranule false) s) (fun s' => granuleUnit c g ∈ s'.goose.fenced))) ∧
   (∀ (s : State) (c : Cl), s.clusterUp c = true →
     let due := s.goose.lastPass.get c + 1000000000 * s.goose.policy.testPeriod
     ((s.goose.overdue.get c = true ∨ s.now < due) → exec (.testOverdue c) s = .next s) ∧
     (s.goose.overdue.get c = false → due ≤ s.now → Reports (exec (.testOverdue c) s) { s with goose := { s.goose with
       overdue := upd s.goose.overdue c (fun _ => true)
       testCluster := c.val
       testGranule := if s.goose.testCluster = c.val then s.goose.testGranule else 0 } })))

/-- MEDIA_FRAME_DECODE, MEDIA_CONCEAL and MEDIA_OVERLOAD (R498, R501, R504, R507, R515): the next ready stream has one frame decoded: the bytes of its chunks are consumed, and a sampled
frame that fills a group is written to the next ring entry; with no ring entry free it waits, with no turn it does nothing; marks are
reported once a second and reset; feeds refused for longer than FeedPersist are reported once. No other stream changes. -/
def Obligations.MediaRuns : Prop :=
  (∀ (s : State) (f : MFrame) (t : MStream), s.media.streams.get f.stream = some t → t.stopped = none → 0 < f.consumed → f.consumed ≤ t.unread →
    let at_ (s' : State) := s'.media.streams.get f.stream
    let r := readChunks s t.ctx f t.chunks f.consumed { host := f.bytes }
    (s.turnTaken f.stream t = true → exec (.mediaFrameDecode f) s = .next s) ∧
    (s.turnTaken f.stream t = false →
      (t.ringEntries ≤ t.ringHeld → exec (.mediaFrameDecode f) s = .next (s.updStream f.stream (fun t => { t with
        waitRingSince := some (t.waitRingSince.getD s.now) }))) ∧
      (t.ringHeld + t.entriesFor f ≤ t.ringEntries → t.ringHeld < t.ringEntries → f.header = none → f.unsupported = none → f.final = false →
        (f.outs = [] → Leaves (exec (.mediaFrameDecode f) s) (fun s' =>
          (at_ s').map (fun u => (u.chunks, u.fed, u.outOrder, u.ringHeld)) = some (r.left, t.fed ++ r.got, t.outOrder, t.ringHeld) ∧
          (∀ j, j ≠ f.stream → s'.media.streams.get j = s.media.streams.get j) ∧ s'.mem = s.mem ∧ s'.jobs = s.jobs)) ∧
        (∀ o, f.outs = [o] → t.outOrder % t.frameStep = 0 → t.group.length + 1 = t.tube → Leaves (exec (.mediaFrameDecode f) s) (fun s' =>
          (at_ s').map (fun u => (u.fed, u.outOrder, u.ringHeld, u.ringNext, u.groupSeq, u.group)) =
            some (t.fed ++ r.got, t.outOrder + 1, t.ringHeld + 1, (t.ringNext + 1) % t.ringEntries, t.groupSeq + 1, []) ∧
          (∀ j, j ≠ f.stream → s'.media.streams.get j = s.media.streams.get j) ∧ s'.jobs = s.jobs))))) ∧
  (∀ (s : State) (i : Fin 64) (t : MStream), s.media.streams.get i = some t →
    ((∃ a, t.concealAt = some a ∧ s.now < a + 1000000000) → exec (.mediaConceal i) s = .next s) ∧
    ((t.concealed ≠ 0 ∨ t.tainted ≠ 0) → (∀ a, t.concealAt = some a → a + 1000000000 ≤ s.now) →
      Reports (exec (.mediaConceal i) s) (s.updStream i (fun t => { t with
        concealed := 0
        tainted := 0
        concealAt := some s.now }))) ∧
    (t.busySince = none ∨ t.overloaded = true → exec (.mediaOverload i) s = .next s) ∧
    (∀ b, t.busySince = some b → t.overloaded = false → b + s.media.feedPersistMs * 1000000 < s.now →
      Reports (exec (.mediaOverload i) s) (s.updStream i (fun t => { t with overloaded := true }))))

/-- What every mailbox command meets at its start (R540, R548 to R550, R552, R562, R563): it waits while its queue may not start it; its session,
its payload's read, its payload's length, the service, the context its entry names and its reserved fields are then checked, and a
command on a context that is not open finds NO_JOB. A refused command answers its status and does nothing else. The order of the
checks is the model's (log entry 35).

A response (R541, R542, R544, R640): it is written to the next entry of its queue's ring, whose Phase alternates with each pass, and
nothing else of host memory changes but the output of a command that has some; without coalescing its vector's message is sent, or
pends while it is masked. A response on Q0 waits for the management port. -/
def Obligations.CommandAnswers : Prop :=
  ((∀ (m : MCmd) (s : State) (sp : CmdSpec) (i : Instr), (sp, i) ∈ commands m →
     (s.canStart m = false → exec i s = .next s) ∧
     (s.canStart m = true →
       (s.sessionErr sp m ≠ 0 → exec i s = .next (answer s sp.code m (s.sessionErr sp m))) ∧
       (s.sessionErr sp m = 0 →
         (m.payloadErr = true → exec i s = .next (answer s sp.code m Code.BAD_ADDR)) ∧
         (m.payloadErr = false →
           (sp.lenOk m.payload = false → exec i s = .next (answer s sp.code m Code.BAD_LEN)) ∧
           (sp.lenOk m.payload = true →
             let barred := s.sys.service = .foal ∧ m.q.val ≠ 0 ∧ sp.foal s m.payload = false
             (barred → exec i s = .next (notReady s sp.code m)) ∧
             (¬ barred →
               (m.ctx = 3 → exec i s = .next (answer s sp.code m Code.DESC_INVALID 0xFFFF 0)) ∧
               (m.ctx ≠ 3 →
                 (∀ b, sp.bad m.payload = some b → exec i s = .next (answer s sp.code m Code.DESC_INVALID 0xFFFF b)) ∧
                 (sp.bad m.payload = none → sp.ctx = true → (∀ x, m.ctxt = some x → (s.jobs.get x).isOpen = false) →
                   exec i s = .next (answer s sp.code m Code.NO_JOB))))))))) ∧
   (∀ (m : MCmd) (s : State) (sp : CmdSpec), m.q.val ≠ 0 →
     let k := s.mbx.queues.get m.q
     (sp.code ≠ CmdCode.mbxOpen → k.isOpen = false → s.sessionErr sp m = Code.NO_SESSION) ∧
     (sp.code = CmdCode.mbxOpen → k.isOpen = true → s.sessionErr sp m = Code.SESSION_OPEN) ∧
     (sp.code ≠ CmdCode.mbxOpen → k.isOpen = true → k.closing = false →
       (sp.v3 = true → k.version = 2 → s.sessionErr sp m = Code.BAD_CODE) ∧
       (∀ b, sp.feature = some b → bit k.features b = false → s.sessionErr sp m = Code.BAD_CODE))) ∧
   ∀ (m : MCmd) (s : State) (sp : CmdSpec), m.q.val = 0 →
     sp.code ∉ [CmdCode.idRead, CmdCode.idCapRead, CmdCode.pwrStatus, CmdCode.faultCperRead] → s.sessionErr sp m = Code.BAD_CODE) ∧
  (∀ (s : State) (code : Nat) (m : MCmd) (st r0 r1 : Nat), st ≠ Code.BUSY → st ≠ Code.NOT_READY →
     let k := s.mbx.queues.get m.q
     let e := k.rspBase.toNat + 32 * k.rspIdx
     let answered (t : State) (st n r0 r1 : Nat) : Prop :=
       let k' := t.mbx.queues.get m.q
       Mem.read 0 t.mbx.hostMem e 32 = respBytes code m.tag st m.q.val k.phase n r0 r1 ∧ k'.rspIdx = (k.rspIdx + 1) % 2 ^ k.sizeLog2 ∧
         k'.phase = (if k.rspIdx + 1 = 2 ^ k.sizeLog2 then !k.phase else k.phase) ∧ k'.rspUnread = k.rspUnread + 1 ∧
         (k.coalesceNs = 0 →
           if (s.regs.msixTable.get ⟨4 * m.q.val + 3, by omega⟩).getLsbD 0 then t.regs.msixPba = s.regs.msixPba ||| (1#32 <<< m.q.val)
           else t.mbx.msix.get m.q = s.mbx.msix.get m.q + 1)
     (m.q.val ≠ 0 → Mem.wf 0 s.mbx.hostMem = true →
       answered (answer s code m st r0 r1) st 0 r0 r1 ∧
       (∀ a, a < e ∨ e + 32 ≤ a → Mem.get 0 (answer s code m st r0 r1).mbx.hostMem a = Mem.get 0 s.mbx.hostMem a) ∧
       ∀ out : List Byte, out.length ≤ m.outLen → m.outErr = false →
         answered (answerOut s code m out) Code.OK out.length 0 0 ∧
         (e + 32 ≤ m.outAddr ∨ m.outAddr + out.length ≤ e →
           Mem.read 0 (answerOut s code m out).mbx.hostMem m.outAddr out.length = out)) ∧
     (m.q.val = 0 →
       (answer s code m st r0 r1).mbx.q0Resp = some (respBytes code m.tag st 0 true 0 r0 r1) ∧
       (answer s code m st r0 r1).mbx.hostMem = s.mbx.hostMem))

/-- MBX_OPEN, MBX_CLOSE, MBX_NOP and MBX_CANCEL (R548 to R550, R558, R566): a session takes the highest shared version, and under version 3 the
features both sides have; a close marks its queue closing, and ends it with OK once nothing else of the queue is left; a nop answers
the device's time; a cancel marks the unstarted entries that carry the Tag, and answers their number.

The mailbox's timers, doorbells and PCIE_RESET (R543, R544, R557, R560, R610 to R612): a queue held
or refused for longer than MbxPersist raises MBX_OVERLOAD once; an interval's end sends the vector's message that is due; a doorbell sets its
index, one its ring cannot take is recorded with Cause 5, and Off drops it (a full event ring's own index reports nothing read: the model's
reading, log entry 64); a reset of the function closes every host queue and the event ring,
and discards the responses of their started commands. -/
def Obligations.SessionsAndTimers : Prop :=
  ((∀ (m : MCmd) (s : State), Starts specOpen m s →
     let p := m.payload
     let lo := fld p 0 7 0
     let hi := fld p 0 15 8
     let persist := fld p 16 31 0
     (10000 < persist → exec (.mbxOpen m) s = .next (answer s CmdCode.mbxOpen m Code.DESC_INVALID 0xFFFF 128)) ∧
     (persist ≤ 10000 →
       (¬ (lo ≤ 3 ∧ 3 ≤ hi) → ¬ (lo ≤ 2 ∧ 2 ≤ hi) → exec (.mbxOpen m) s = .next (answer s CmdCode.mbxOpen m Code.VERSION_NONE)) ∧
       ∀ v, (v = 3 ∧ lo ≤ 3 ∧ 3 ≤ hi) ∨ (v = 2 ∧ lo ≤ 2 ∧ hi = 2) →
         let f := if v = 2 then 0 else u64At p 8 &&& s.features
         exec (.mbxOpen m) s = .next (answer (s.updQueue m.q (fun q => { q with
             isOpen := true, closing := false, version := v, features := f, priority := bit (fld p 0 16 16) 0,
             coalesceNs := fld p 0 63 32, persistMs := if persist = 0 then 100 else persist }))
           CmdCode.mbxOpen m Code.OK
           (v + place (b2n (s.sys.service = .full)) 8 + place (b2n s.ident.fwSlot) 10 + place fwVersion 32) f))) ∧
   (∀ (m : MCmd) (s : State), Starts specClose m s → (∀ k ∈ s.mbx.started, k.code ≠ CmdCode.mbxClose) →
     let k := s.mbx.queues.get m.q
     let alone := k.fetchIdx = k.cmdDbl ∧ ∀ o ∈ s.mbx.started, o.cmd.q ≠ m.q
     (alone → Leaves (exec (.mbxClose m) s) (fun t =>
       (t.mbx.queues.get m.q).isOpen = false ∧ (t.mbx.queues.get m.q).closing = false ∧ t.mbx.started = s.mbx.started ∧
         (m.q.val ≠ 0 → Mem.wf 0 s.mbx.hostMem = true → Mem.read 0 t.mbx.hostMem (k.rspBase.toNat + 32 * k.rspIdx) 32 =
           respBytes CmdCode.mbxClose m.tag Code.OK m.q.val k.phase 0 0 0))) ∧
     (¬ alone → exec (.mbxClose m) s =
       .next (startLater (s.updQueue m.q (fun q => { q with closing := true })) CmdCode.mbxClose m m.q.val))) ∧
   (∀ (m : MCmd) (s : State), Starts specClose m s → Leaves (exec (.mbxClose m) s) (fun t =>
     (t.mbx.queues.get m.q).closing = true ∨ (t.mbx.queues.get m.q).isOpen = false)) ∧
   (∀ (m : MCmd) (s : State), Starts specNop m s → exec (.mbxNop m) s = .next (answer s CmdCode.mbxNop m Code.OK (s.now % 2 ^ 64))) ∧
   (∀ (m : MCmd) (s : State), Starts specCancel m s →
     let k := s.mbx.queues.get m.q
     let n := 2 ^ k.sizeLog2
     let waiting := (List.range ((k.cmdDbl + n - k.fetchIdx) % n)).map (fun i => (k.fetchIdx + i) % n)
     let hit := (waiting.zip m.answers).filter (fun w => bits w.2 31 16 = fld m.payload 0 15 0 && !k.cancelled.contains w.1)
     exec (.mbxCancel m) s = .next (answer (s.updQueue m.q (fun q => { q with cancelled := q.cancelled ++ hit.map (·.1) }))
       CmdCode.mbxCancel m Code.OK hit.length))) ∧
  ((∀ (q : Fin 16) (s : State),
     let k := s.mbx.queues.get q
     (∀ t, k.heldSince = some t → k.overloaded = false → t + k.persistMs * 1000000 < s.now → exec (.mbxOverload q) s =
       .next (raise (s.updQueue q (fun k => { k with overloaded := true }))
         { code := Code.MBX_OVERLOAD, unit := { cls := 0xC }, detail := detailOf 0 q.val 0 })) ∧
     (∀ t, k.heldSince = some t → (k.overloaded = true ∨ s.now ≤ t + k.persistMs * 1000000) → exec (.mbxOverload q) s = .next s) ∧
     (∀ t, k.heldSince = none → k.overloaded = true → k.heldLast = some t → t + k.persistMs * 1000000 ≤ s.now →
       exec (.mbxOverload q) s = .next (s.updQueue q (fun k => { k with overloaded := false })))) ∧
   (∀ (q : Fin 16) (s : State),
     let k := s.mbx.queues.get q
     let ended := ∀ t, k.lastMsi = some t → t + k.coalesceNs ≤ s.now
     (k.msiDue = true → ended → exec (.msixCoalesce q) s =
       .next (sendMsix (s.updQueue q (fun k => { k with msiDue := false, lastMsi := some s.now })) q)) ∧
     ((k.msiDue = false ∨ ¬ ended) → exec (.msixCoalesce q) s = .next s)) ∧
   (∀ (q : Fin 16) (index : BitVec 16) (s : State),
     let k := s.mbx.queues.get q
     let n := 2 ^ k.sizeLog2
     let read := (index.toNat + n - k.cplDbl % n) % n
     let dropped (s : State) (off : Nat) : State := { s with regs := { s.regs with
       accOffset := off, accBar4 := true, accCause := 5, accCount := min 0xFFFF (s.regs.accCount + 1) } }
     (s.sys.service = .off → exec (.dblCmd q index) s = .next s ∧ exec (.dblCpl q index) s = .next s) ∧
     (s.sys.service ≠ .off →
       (q.val ≠ 0 ∧ k.enable = true ∧ index.toNat < n →
         exec (.dblCmd q index) s = .next (s.updQueue q (fun k => { k with cmdDbl := index.toNat })) ∧
         (read ≤ k.rspUnread → exec (.dblCpl q index) s = .next (s.updQueue q (fun k => { k with
           cplDbl := index.toNat, rspUnread := k.rspUnread - read, outstanding := k.outstanding - read }))) ∧
         (k.rspUnread < read → exec (.dblCpl q index) s = .next (dropped s (0x1000 * q.val + 4)))) ∧
       (¬ (q.val ≠ 0 ∧ k.enable = true ∧ index.toNat < n) →
         exec (.dblCmd q index) s = .next (dropped s (0x1000 * q.val)) ∧
         exec (.dblCpl q index) s = .next (dropped s (0x1000 * q.val + 4))))) ∧
   (∀ (index : BitVec 16) (s : State),
     let r := s.mbx.evt
     let n := 2 ^ r.sizeLog2
     let left := (r.writeIdx + n - index.toNat % n) % n
     (s.sys.service = .off → exec (.dblEvt index) s = .next s) ∧
     (s.sys.service ≠ .off → r.enable = true → index.toNat < n →
       (left = 0 → r.unread = n → r.writeIdx < n → exec (.dblEvt index) s = .next (flushLost s)) ∧
       ((r.unread < n ∨ left ≠ 0) → left ≤ r.unread → exec (.dblEvt index) s = .next (flushLost { s with mbx := { s.mbx with evt := { r with unread := left } } })) ∧
       ((r.unread < n ∨ left ≠ 0) → r.unread < left → exec (.dblEvt index) s = .next { s with regs := { s.regs with
         accOffset := 0x10000, accBar4 := true, accCause := 5, accCount := min 0xFFFF (s.regs.accCount + 1) } }))) ∧
   ∀ s : State, ∃ mbx, exec .pcieReset s = .next { s with mbx := mbx } ∧
     (∀ q : Fin 16, q.val ≠ 0 → mbx.queues.get q = { ({} : MQueue) with heldLast := (s.mbx.queues.get q).heldLast }) ∧
     mbx.queues.get 0 = s.mbx.queues.get 0 ∧ mbx.evt.enable = false ∧ mbx.evt.seq = s.mbx.evt.seq ∧ mbx.hostMem = s.mbx.hostMem ∧
     ∀ k ∈ mbx.started, k.cmd.q.val ≠ 0 → k.sess = false)

/-- MBX_FETCH (R543, R553, R554, R556, R558): a turn takes the entry at the head of a queue that holds entries and may start it, of Priority 1 unless
none of those may or a queue of Priority 0 has the fourth turn; its indices move on and the command of its code runs, or ends ABORTED where
it was cancelled or its queue closes. Without such a queue, or before Mule serves, nothing is fetched. -/
def Obligations.FetchTurns : Prop :=
  (∀ (fe : FetchedEntry) (s : State), (s.serving = false ∨ ∀ q, s.holdsEntry q = false) → exec (.mbxFetch fe) s = .next s) ∧
  (∀ (fe : FetchedEntry) (s : State) (q : Fin 16) (hi : Bool), s.turn fe = some (q, hi) →
    let may (r : Fin 16) : Prop := s.holdsEntry r = true ∧ s.ready fe r = true
    may q ∧ (s.mbx.queues.get q).priority = hi ∧
      (hi = true → s.mbx.turns = 3 → ∀ r, may r → (s.mbx.queues.get r).priority = true) ∧
      (hi = false → s.mbx.turns ≠ 3 → ∀ r, may r → (s.mbx.queues.get r).priority = false)) ∧
  (∀ (fe : FetchedEntry) (s : State), s.serving = true → (∃ r, s.holdsEntry r = true ∧ s.ready fe r = true) → (s.turn fe).isSome = true) ∧
  (∀ (fe : FetchedEntry) (s : State) (q : Fin 16) (hi : Bool) (e : List Byte), s.serving = true → (holdQueues s fe).turn fe = some (q, hi) →
    headOf fe q = some e → fe.parity = false →
    let k := (holdQueues s fe).mbx.queues.get q
    let t := takeEntry (holdQueues s fe) q hi
    let m : MCmd := { q := q, tag := BitVec.ofNat 16 (fld e 0 31 16), ctx := BitVec.ofNat 2 (fld e 0 35 34), barrier := bit (fld e 0 33 33) 0,
                      payload := (if bit (fld e 0 32 32) 0 then fe.payload.take (fld e 8 31 0) else (slice e 0x18 40).take (fld e 8 31 0)),
                      outLen := fld e 8 63 32, outAddr := u64At e 0x10, payloadErr := fe.payloadErr, outErr := fe.outErr,
                      answers := fe.answers, answerBytes := fe.answerBytes }
    (k.closing = true ∨ k.fetchIdx ∈ k.cancelled →
      exec (.mbxFetch fe) s = .next (finishCloses (answer t (fld e 0 15 0) m Code.ABORTED))) ∧
    (k.closing = false → k.fetchIdx ∉ k.cancelled → entryErr e = 0 →
      (∀ sp i, (sp, i) ∈ commands m → sp.code = fld e 0 15 0 → exec (.mbxFetch fe) s = exec i t) ∧
      ((∀ sp i, (sp, i) ∈ commands m → sp.code ≠ fld e 0 15 0) → t.canStart m = true → t.sessionErr (specNone (fld e 0 15 0)) m = 0 →
        m.payloadErr = false → m.ctx ≠ 3 → exec (.mbxFetch fe) s = .next (answer t (fld e 0 15 0) m Code.BAD_CODE)))) ∧
  ∀ (fe : FetchedEntry) (s : State), ∃ t, exec (.mbxFetch fe) s = .next t

/-- CMD_SLOW (R559): a command still incomplete 10 s after its start raises CMD_SLOW, once: the event names its queue, Tag and Code, the
command stays started as it was but for the mark that it has been raised, and no command so marked, or younger, raises it. -/
def Obligations.SlowCommands : Prop :=
  ∀ (s : State) (l r : List Started) (k : Started), s.mbx.started = l ++ k :: r →
    (k.slow = false → k.at_ + 10000000000 ≤ s.now → (∀ o ∈ l ++ r, o.slow = true ∨ s.now < o.at_ + 10000000000) →
      exec .cmdSlow s = .next (raise { s with mbx := { s.mbx with started := l ++ { k with slow := true } :: r } }
        { code := Code.CMD_SLOW, unit := { cls := 0xC }, detail := toBytes 8 (k.cmd.q.val + place k.cmd.tag.toNat 16 + place k.code 32) })) ∧
    ((k.slow = true ∨ s.now < k.at_ + 10000000000) → (∀ o ∈ l ++ r, o.slow = true ∨ s.now < o.at_ + 10000000000) →
      exec .cmdSlow s = .next s)

/-- JOB_OPEN, JOB_START, JOB_CLOSE and JOB_QUERY (R139, R557, R563, R567, R568): an open that the checks pass sets the context up from the job
record, and no other context's; a start completes at once on a begun context, and else waits, the master told; a close that no activity
blocks leaves no stage, group, ring, watch or stream of the context, and the objects and the other context as they were; a query answers the
beat, the step and the tree's generation.

JOB_HALT, JOB_REWIND and BEAT_PERIOD (R161, R465, R467, R468): a halt halts the context; a rewind of a halted context, unless an update of the
named step has begun, runs it again from that step with every slot FREE, three credits for each consumer, every schedule at entry 0, the
bound registers zero and nothing held, beat numbers and memory as they were; a period is a request that waits for a step's start. -/
def Obligations.JobsAndRewind : Prop :=
  ((∀ (m : MCmd) (s : State) (x : Ctx), Starts specJobOpen m s → m.ctxt = some x → (s.sys.service = .foal → x = .j0) →
     let p := m.payload
     let diag := bit (fld p 0x10 18 18) 0
     let join := bit (fld p 0x10 19 19) 0
     let refused (st : Nat) : Prop := exec (.jobOpen m) s = .next (answer s CmdCode.jobOpen m st)
     let opened (ms : List (Nat × Nat)) (t : State) : Prop :=
       let j := t.jobs.get x
       j.isOpen = true ∧ j.jobId = u64At p 0 ∧ j.seed = BitVec.ofNat 64 (u64At p 8) ∧ j.period = fld p 0x10 17 0 ∧ j.diag = diag ∧
         j.pfDepth = (if fld p 0x10 23 20 = 0 then 4 else if fld p 0x10 23 20 = 0xF then 0 else fld p 0x10 23 20) ∧
         j.overrunLimit = (if fld p 0x10 34 24 = 0 then 8 else fld p 0x10 34 24) ∧ j.begun = false ∧ j.halted = false ∧ j.beat = 0 ∧
         j.startStep = fld p 0x38 47 0 ∧
         (diag = false → j.master = fld p 0x18 15 0 ∧ j.members = ms ∧ j.parent = fld p 0x18 35 32 ∧ j.children = fld p 0x18 47 36) ∧
         (diag = true → j.master = s.ident.devNum ∧ j.members = [(s.ident.devNum, 0)]) ∧
         (∀ y, y ≠ x → t.jobs.get y = { s.jobs.get y with lost := false }) ∧ t.mem = s.mem ∧ t.clusters = s.clusters ∧ t.coll = s.coll
     (diag = true → s.sys.service = .full → exec (.jobOpen m) s = .next (answer s CmdCode.jobOpen m Code.DESC_INVALID 0xFFFF 146)) ∧
     ((diag = true → s.sys.service ≠ .full) →
       ((s.jobs.get x).isOpen = true → refused Code.JOB_OPEN) ∧
       ((s.jobs.get x).isOpen = false →
         (diag = false → s.mapInvalid (Mapping.of p) = true → refused Code.MAP_INVALID) ∧
         (diag = false → s.mapInvalid (Mapping.of p) = false → s.measured p m.answers = none → refused Code.DEV_UNREACHABLE) ∧
         (diag = true → s.measured p m.answers = none → Leaves (exec (.jobOpen m) s) (opened [])) ∧
         (∀ ms, (diag = true ∨ s.mapInvalid (Mapping.of p) = false) → s.measured p m.answers = some ms →
           let mine := ((ms.find? (fun q => q.1 = s.ident.devNum)).map (·.2)).getD 0
           let lmax := ((ms.filter (fun q => q.1 ≠ s.ident.devNum)).map (·.2)).foldl max 0
           (join = true → lmax < mine → refused Code.BEAT_SKEW) ∧
           ((join = false ∨ mine ≤ lmax) → Leaves (exec (.jobOpen m) s) (opened ms)))))) ∧
   (∀ (m : MCmd) (s : State), Starts specJobOpen m s →
     (m.ctxt = none → exec (.jobOpen m) s = .next (answer s CmdCode.jobOpen m Code.DESC_INVALID 0xFFFF 0)) ∧
     (m.ctxt = some .j1 → s.sys.service = .foal → exec (.jobOpen m) s = .next (notReady s CmdCode.jobOpen m))) ∧
   (∀ (m : MCmd) (s : State), Starts specJobStart m s →
     let x := m.jobCtx
     let j := s.jobs.get x
     let me := s.ident.devNum
     let started := startLater (s.updJob x (fun j => { j with startIssued := true })) CmdCode.jobStart m (ctxNo x)
     (j.begun = true → exec (.jobStart m) s = .next (answer s CmdCode.jobStart m Code.OK)) ∧
     (j.begun = false → j.sender = me → exec (.jobStart m) s = .next (started.updJob x (fun j => { j with
       startedBy := if me ∈ j.startedBy then j.startedBy else me :: j.startedBy }))) ∧
     (j.begun = false → j.sender ≠ me → exec (.jobStart m) s = .next (send started (muleMsg j.sender 2 [ctxNo x, me])))) ∧
   (∀ (m : MCmd) (s : State), Starts specJobClose m s →
     let x := m.jobCtx
     (∀ c n, s.closeBlocker x = some (c, n) → exec (.jobClose m) s = .next (answer s CmdCode.jobClose m Code.BUSY c n)) ∧
     (s.closeBlocker x = none → Leaves (exec (.jobClose m) s) (fun t =>
       t.jobs.get x = {} ∧ (∀ y, y ≠ x → t.jobs.get y = s.jobs.get y) ∧ (∀ c, t.stage c x = none) ∧
         (∀ c y, y ≠ x → t.stage c y = s.stage c y) ∧ t.coll.groups.get x = [] ∧ t.mem.rings.get x = [] ∧
         (∀ i ∈ t.coll.insts, i.ctx ≠ x) ∧ (∀ i w, t.obs.watches.get i = some w → w.ctx ≠ x) ∧
         (∀ i w, t.media.streams.get i = some w → w.ctx ≠ x) ∧ t.mem.objs.map Obj.handle = s.mem.objs.map Obj.handle ∧
         t.mem.mem = s.mem.mem ∧ t.mem.pages = s.mem.pages))) ∧
   (∀ (m : MCmd) (s : State), Starts specJobQuery m s →
     let j := s.jobs.get m.jobCtx
     exec (.jobQuery m) s = .next (answer s CmdCode.jobQuery m Code.OK (j.beat % 2 ^ 48 + place (b2n j.halted) 48)
       (j.step % 2 ^ 48 + place (j.treeGen % 65536) 48)))) ∧
  ((∀ (m : MCmd) (s : State), Starts specJobHalt m s →
     Reports (exec (.jobHalt m) s) (s.updJob m.jobCtx (fun j => { j with halted := true }))) ∧
   (∀ (m : MCmd) (s : State), Starts specJobRewind m s →
     let x := m.jobCtx
     let j := s.jobs.get x
     let n := fld m.payload 0 47 0
     (j.halted = false → exec (.jobRewind m) s = .next (answer s CmdCode.jobRewind m Code.NOT_HALTED)) ∧
     (j.halted = true → (j.updateStarted = true ∧ n = j.step) ∨ (∃ a ∈ m.answers, a ≠ 0) →
       exec (.jobRewind m) s = .next (answer s CmdCode.jobRewind m Code.UPDATE_STARTED)) ∧
     (j.halted = true → ¬ (j.updateStarted = true ∧ n = j.step) → (∀ a ∈ m.answers, a = 0) →
       Leaves (exec (.jobRewind m) s) (fun t =>
         let k := t.jobs.get x
         k.halted = false ∧ k.rewindTo = some n ∧ k.waitStep = some n ∧ k.beat = j.beat ∧ (∀ y, y ≠ x → t.jobs.get y = s.jobs.get y) ∧
           t.mem.mem = s.mem.mem ∧
           (∀ c, ((t.clusters.get c).seq.get x).bnd = Vector.replicate 32 0 ∧ ((t.clusters.get c).seq.get x).remoteWrites = []) ∧
           ∀ c g, t.stage c x = some g → g.pos = 0 ∧ g.run = none ∧ (∀ i sl, (g.ins.get i).slots.get sl = .free) ∧
             (∀ o sl, (g.outs.get o).slots.get sl = .free) ∧ (∀ o, ∀ v ∈ (g.outs.get o).credits, v = 3) ∧
             (∀ o, (g.outs.get o).credits.length = (g.outs.get o).consumers.length)))) ∧
   (∀ (m : MCmd) (s : State), Starts specBeatPeriod m s → exec (.beatPeriod m) s =
     .next (startLater (s.updJob m.jobCtx (fun j => { j with requested := some (fld m.payload 0 17 0) })) CmdCode.beatPeriod m (ctxNo m.jobCtx))))

/-- STAGE_LOAD and STAGE_UNLOAD (R131, R135, R156, R569, R570): both need a context that has applied no boundary or is halted; a load that breaks a
rule is refused as the rule says; any other takes the place of the context's stage on that cluster, with its descriptors, and an unload
leaves none; no other cluster changes. -/
def Obligations.StageCommands : Prop :=
  (∀ (m : MCmd) (s : State), Starts specStageLoad m s →
    let x := m.jobCtx
    let p := m.payload
    let n := fld p 0x10 22 17
    ((s.jobs.get x).stagesOpen = false → exec (.stageLoad m) s = .next (answer s CmdCode.stageLoad m Code.STAGE_LIVE)) ∧
    ((s.jobs.get x).stagesOpen = true → 40 ≤ n →
      exec (.stageLoad m) s = .next (answer s CmdCode.stageLoad m Code.DESC_INVALID 0xFFFF 145)) ∧
    ((s.jobs.get x).stagesOpen = true → ∀ h : n < 40,
      (∀ e, s.stageErr x ⟨n, h⟩ p = some e → exec (.stageLoad m) s = .next (answer s CmdCode.stageLoad m e.1 e.2.1 e.2.2)) ∧
      (s.stageErr x ⟨n, h⟩ p = none → Leaves (exec (.stageLoad m) s) (fun t =>
        t.stage ⟨n, h⟩ x = some (stageOf p s.ident.devNum) ∧ (∀ c : Cl, c.val ≠ n → t.clusters.get c = s.clusters.get c) ∧
          (∀ y, y ≠ x → t.stage ⟨n, h⟩ y = s.stage ⟨n, h⟩ y) ∧
          ∀ d ∈ descsPart p, ∀ k : Fin 64, k.val = d.1 →
            ((t.clusters.get ⟨n, h⟩).seq.get x).descs.get k = d.2)))) ∧
  ∀ (m : MCmd) (s : State), Starts specStageUnload m s →
    let x := m.jobCtx
    let n := fld m.payload 0 5 0
    ((s.jobs.get x).stagesOpen = false → exec (.stageUnload m) s = .next (answer s CmdCode.stageUnload m Code.STAGE_LIVE)) ∧
    ((s.jobs.get x).stagesOpen = true → 40 ≤ n →
      exec (.stageUnload m) s = .next (answer s CmdCode.stageUnload m Code.DESC_INVALID 0xFFFF 0)) ∧
    ((s.jobs.get x).stagesOpen = true → ∀ h : n < 40, Leaves (exec (.stageUnload m) s) (fun t =>
      t.stage ⟨n, h⟩ x = none ∧ (∀ c : Cl, c.val ≠ n → t.clusters.get c = s.clusters.get c) ∧ t.jobs = s.jobs ∧ t.mem.mem = s.mem.mem))

/-- KV_SEQ_DEFINE, KV_INVAL, KV_RETRY and KV_RING_DEFINE (R203, R204, R208, R211, R229, R230): a record of a sequence that nothing names is written,
or removed; an invalidation drops the entries of its pages from every look-aside buffer and waits for the accesses made through them;
a retry ends the held faults whose page is present; a ring is made anew, and its shard leaves unless gradients come back with it. -/
def Obligations.KvCommands : Prop :=
  (∀ (m : MCmd) (s : State), Starts specSeqDefine m s →
    let p := m.payload
    let x := m.jobCtx
    let seq := fld p 0 11 0
    let pg := fld p 8 6 2
    let valid := bit (fld p 8 0 0) 0
    let badAt (b : Nat) : Prop := exec (.kvSeqDefine m) s = .next (answer s CmdCode.kvSeqDefine m Code.DESC_INVALID 0xFFFF b)
    let good := valid = false ∨ (12 ≤ pg ∧ pg ≤ 21 ∧ fld p 8 63 16 % 4096 = 0 ∧ fld p 16 47 0 ≤ 2 ^ (pg + 18))
    (valid = true → (pg < 12 ∨ 21 < pg) → badAt 66) ∧
    (valid = true → 12 ≤ pg → pg ≤ 21 → fld p 8 63 16 % 4096 ≠ 0 → badAt 80) ∧
    (valid = true → 12 ≤ pg → pg ≤ 21 → fld p 8 63 16 % 4096 = 0 → 2 ^ (pg + 18) < fld p 16 47 0 → badAt 128) ∧
    (good → s.seqNamed x seq = true → exec (.kvSeqDefine m) s = .next (answer s CmdCode.kvSeqDefine m Code.SEQ_BUSY)) ∧
    (good → s.seqNamed x seq = false → Leaves (exec (.kvSeqDefine m) s) (fun t =>
      t.seqRec x seq = (if valid then some { ctx := if bit (fld p 8 1 1) 0 then .j1 else .j0, pgShift := pg, root := fld p 8 63 16,
                                             limit := fld p 16 47 0 } else none) ∧
        (∀ n, n ≠ seq → t.seqRec x n = s.seqRec x n) ∧ (∀ y n, y ≠ x → t.seqRec y n = s.seqRec y n) ∧
        (∀ w, ∀ e ∈ t.mem.labs.get w, ¬ (e.ctx = x ∧ e.seq = seq)) ∧ t.mem.mem = s.mem.mem ∧ t.jobs = s.jobs))) ∧
  (∀ (m : MCmd) (s : State), Starts specInval m s →
    let x := m.jobCtx
    let seq := fld m.payload 0 11 0
    let va := u64At m.payload 8
    let len := u64At m.payload 16
    ∀ r, s.seqRec x seq = some r → len ≠ 0 →
      let t := { s with mem := { s.mem with labs := s.mem.labs.map (fun (l : List LabEntry) => l.filter (fun e =>
        !(e.ctx = x && e.seq = seq && va / 2 ^ r.pgShift ≤ e.vpn && e.vpn ≤ (va + (len - 1)) / 2 ^ r.pgShift))) } }
      (s.kvInUse x seq va (va + len) = true → exec (.kvInval m) s = .next (startLater t CmdCode.kvInval m (seq + 4096 * ctxNo x))) ∧
      (s.kvInUse x seq va (va + len) = false → exec (.kvInval m) s = .next (answer t CmdCode.kvInval m Code.OK))) ∧
  (∀ (m : MCmd) (s : State), Starts specInval m s →
    let x := m.jobCtx
    let seq := fld m.payload 0 11 0
    (s.seqRec x seq = none ∨ u64At m.payload 16 = 0) → Reports (exec (.kvInval m) s) s) ∧
  (∀ (m : MCmd) (s : State), Starts specRetry m s →
    let x := m.jobCtx
    let seq := fld m.payload 0 11 0
    (s.seqRec x seq = none → exec (.kvRetry m) s = .next (answer s CmdCode.kvRetry m Code.OK)) ∧
    ∀ r, s.seqRec x seq = some r → Leaves (exec (.kvRetry m) s) (fun t =>
      ∀ h, h ∈ t.mem.kvHeld ↔ h ∈ s.mem.kvHeld ∧ ¬ (h.ctx = x ∧ h.seq = seq ∧ ∃ e, s.kvWalk x seq r h.va = .ok e))) ∧
  ∀ (m : MCmd) (s : State), Starts specRingDefine m s →
    let x := m.jobCtx
    let g := ringOf m.payload
    let rings := (s.mem.rings.get x).filter (fun o => o.id ≠ g.id)
    let badAt (b : Nat) : Prop := exec (.kvRingDefine m) s = .next (answer s CmdCode.kvRingDefine m Code.DESC_INVALID 0xFFFF b)
    (5 < g.axis → badAt 16) ∧ (g.axis ≤ 5 → (g.n < 2 ∨ 64 < g.n) → badAt 20) ∧
    (g.axis ≤ 5 → 2 ≤ g.n → g.n ≤ 64 →
      (s.ringGrad x g = true → exec (.kvRingDefine m) s = .next (answer { s with mem := { s.mem with
        rings := s.mem.rings.set x (rings ++ [g]) } } CmdCode.kvRingDefine m Code.OK)) ∧
      (s.ringGrad x g = false → Reports (exec (.kvRingDefine m) s) { s with mem := { s.mem with
        rings := s.mem.rings.set x (rings ++ [{ g with sent := true }]) } }))

/-- MEM_PLACE and MEM_FREE (R308 to R314, R571): a new object takes a free range of its tier, which reads as zero, and its pages its owner; it is
refused where its tier, size or address cannot be, where the table is full, or where nothing fits, with the shortfall; a free of an object
that nothing holds removes its record and leaves its pages free.

MEM_MOVE and MEM_QUERY (R310, R318 to R323, R571): a move is refused for a handle, tier, address or anchor that cannot be, for an object already
moving, in F2 mode or pinned by media, and past 32 moves; accepted, its object shows Moving and the command waits for the move's end; a
query answers the object's 64-byte record. -/
def Obligations.ObjectCommands : Prop :=
  ((∀ (m : MCmd) (s : State), Starts specMemPlace m s →
     let p := m.payload
     let owner := fld p 0 1 0
     let tier := fld p 0 4 2
     let size := u64At p 8
     let fixed := bit (fld p 0 10 10) 0
     let addr : Option Nat := if fixed then some (u64At p 0x10) else none
     let refused (st r0 r1 : Nat) : Prop := exec (.memPlace m) s = .next (answer s CmdCode.memPlace m st r0 r1)
     let sized := sizeOk size = true ∧ (fixed = true → u64At p 0x10 % 65536 = 0)
     ((tier = 0 ∨ tier = 6) → refused Code.TIER_ILLEGAL 0 0) ∧
     (tier ≠ 0 → tier ≠ 6 →
       (sizeOk size = false → refused Code.DESC_INVALID 0xFFFF 64) ∧
       (sizeOk size = true → fixed = true → u64At p 0x10 % 65536 ≠ 0 → refused Code.DESC_INVALID 0xFFFF 128) ∧
       (sized → 65536 ≤ s.mem.objs.length → refused Code.OBJ_FULL 0 0)) ∧
     ((tier = 1 ∨ tier = 2) → sized → s.mem.objs.length < 65536 →
       (∀ n b, s.fitTier tier owner size addr = (.short n, b) → refused Code.NO_SPACE n tier) ∧
       (∀ a, s.fitTier tier owner size addr = (.at_ a, true) → refused Code.LLM_PROT 0 0) ∧
       (∀ a i gen, s.fitTier tier owner size addr = (.at_ a, false) → s.freeIndex = some (i, gen) → s.memOk →
         Leaves (exec (.memPlace m) s) (fun t =>
           t.mem.objs = s.mem.objs ++ [{ index := i, gen := gen, owner := owner, tier := tier, alloc := fld p 0 7 6, elemW := fld p 0 9 8,
                                         size := size, home := a, compBytes := size }] ∧
             t.mem.pages = { base := a, size := size, owner := ⟨s.ident.devNum, owner⟩, st := .owned } ::
               s.mem.pages.flatMap (fun r => r.carve a size) ∧
             ∀ b, t.byte b = if a ≤ b ∧ b < a + size then 0 else s.byte b))) ∧
     (∀ a i gen, tier = 5 → fixed = true → addr = some a → sized → s.mem.objs.length < 65536 → s.freeIndex = some (i, gen) →
       Leaves (exec (.memPlace m) s) (fun t => ∃ o, t.mem.objs = s.mem.objs ++ [o] ∧ o.index = i ∧ o.gen = gen ∧ o.owner = owner ∧
         o.tier = 5 ∧ o.size = size ∧ o.home = a ∧ o.comp = !bit (fld p 0 5 5) 0 ∧ t.mem.mem = s.mem.mem ∧ t.mem.pages = s.mem.pages)) ∧
     (∀ a more i gen, (tier = 3 ∨ tier = 4) → sized → s.mem.objs.length < 65536 → s.mayLend tier (fld p 0x18 15 0) = true →
       fld p 0x18 15 0 ∉ s.fab.failed → grants 1 m.answers = (a :: more, none) → s.freeIndex = some (i, gen) →
       Leaves (exec (.memPlace m) s) (fun t => ∃ o, t.mem.objs = s.mem.objs ++ [o] ∧ o.index = i ∧ o.gen = gen ∧ o.owner = owner ∧
         o.tier = tier ∧ o.size = size ∧ o.home = fld p 0x18 15 0 * 2 ^ 48 + a % 2 ^ 48 ∧ t.mem.mem = s.mem.mem ∧ t.mem.pages = s.mem.pages)) ∧
     (tier = 5 → fixed = false → sized → s.mem.objs.length < 65536 → refused Code.DESC_INVALID 0xFFFF 10) ∧
     ((tier = 3 ∨ tier = 4) → sized → s.mem.objs.length < 65536 → s.mayLend tier (fld p 0x18 15 0) = false → refused Code.NOT_LENDER 0 0)) ∧
   ∀ (m : MCmd) (s : State), Starts specMemFree m s →
     let h := fld m.payload 0 31 0
     let refused (st : Nat) : Prop := exec (.memFree m) s = .next (answer s CmdCode.memFree m st)
     (s.obj? h = none → refused Code.BAD_HANDLE) ∧
     ∀ o, s.obj? h = some o →
       ((o.moving = true ∨ o.pins ≠ 0) → refused Code.MOVE_BUSY) ∧
       (o.moving = false → o.pins = 0 →
         (s.mediaPinned o = true → refused Code.MEDIA_PINNED) ∧
         (s.mediaPinned o = false → o.f2 = true → refused Code.F2_MODE) ∧
         (s.mediaPinned o = false → o.f2 = false → Leaves (exec (.memFree m) s) (fun t => t.obj? h = none ∧
           (∀ k, bits k 15 0 ≠ o.index → t.obj? k = s.obj? k) ∧ t.mem.mem = s.mem.mem ∧
           (o.tier = 1 ∨ o.tier = 2 → ∀ b, o.home ≤ b → b < o.home + o.size → t.pageOf b = none))))) ∧
  ((∀ (m : MCmd) (s : State), Starts specMemMove m s →
     let p := m.payload
     let h := fld p 0 31 0
     let tier := fld p 8 2 0
     let anchor := bit (fld p 8 3 3) 0
     let fixed := bit (fld p 8 8 8) 0
     let addr : Option Nat := if fixed then some (u64At p 0x10) else none
     let newOwner : Option Nat := if bit (fld p 8 4 4) 0 then some (fld p 8 6 5) else none
     let refused (st r0 r1 : Nat) : Prop := exec (.memMove m) s = .next (answer s CmdCode.memMove m st r0 r1)
     (s.obj? h = none → refused Code.BAD_HANDLE 0 0) ∧
     ∀ o, s.obj? h = some o →
       ((tier = 0 ∨ tier = 6) → refused Code.TIER_ILLEGAL 0 0) ∧
       (tier ≠ 0 → tier ≠ 6 → fixed = true → u64At p 0x10 % 65536 ≠ 0 → refused Code.DESC_INVALID 0xFFFF 128) ∧
       (tier ≠ 0 → tier ≠ 6 → (fixed = true → u64At p 0x10 % 65536 = 0) →
         (o.moving = true → refused Code.MOVE_BUSY 0 0) ∧
         (o.moving = false → o.f2 = true → refused Code.F2_MODE 0 0) ∧
         (o.moving = false → o.f2 = false → s.mediaPinned o = true → refused Code.MEDIA_PINNED 0 0) ∧
         (o.moving = false → o.f2 = false → s.mediaPinned o = false →
           (anchor = true → ¬ ((o.tier = 1 ∨ o.tier = 2) ∧ 3 ≤ tier ∧ o.anchor = none) → refused Code.DESC_INVALID 0xFFFF 67) ∧
           ((anchor = true → (o.tier = 1 ∨ o.tier = 2) ∧ 3 ≤ tier ∧ o.anchor = none) → (∀ k ∈ s.mem.moves, k.recalled = false) → 32 ≤ s.mem.moves.length →
             refused Code.BUSY CmdCode.memMove 32) ∧
           ((anchor = true → (o.tier = 1 ∨ o.tier = 2) ∧ 3 ≤ tier ∧ o.anchor = none) → s.mem.moves.length < 32 →
             let accepted (k : Move) (t : State) : Prop := t.mem.moves = s.mem.moves ++ [k] ∧ k.handle = h ∧ k.dstTier = tier ∧
               k.newOwner = newOwner ∧ t.mem.objs = s.mem.objs.map (fun q => if q.handle = o.handle then { q with moving := true } else q) ∧
               (∃ w, t.mbx.started = s.mbx.started ++ [w] ∧ w.code = CmdCode.memMove ∧ w.cmd = m ∧ w.key = h) ∧
               t.mem.mem = s.mem.mem ∧ t.jobs = s.jobs
             let sameTier := newOwner.isSome = true ∧ tier = o.tier ∧ anchor = false ∧ addr.getD o.home = o.home
             let owner := newOwner.getD o.owner
             let back (a : Nat) : Prop := o.anchor = some a ∧ tier = (if s.inScratch a then 1 else 2) ∧ addr.getD a = a
             let elsewhere := ¬ sameTier ∧ ∀ a, ¬ back a
             (sameTier → Leaves (exec (.memMove m) s) (fun t => ∃ k, accepted k t ∧ k.ownerOnly = true ∧ k.dstAddr = o.home)) ∧
             (∀ a, ¬ sameTier → back a → Leaves (exec (.memMove m) s) (fun t => ∃ k, accepted k t ∧ k.recalled = true ∧ k.dstAddr = a)) ∧
             (elsewhere → (tier = 1 ∨ tier = 2) →
               (∀ n b, s.fitTier tier owner o.size addr = (.short n, b) → refused Code.NO_SPACE n tier) ∧
               (∀ a, s.fitTier tier owner o.size addr = (.at_ a, true) → refused Code.LLM_PROT 0 0) ∧
               ∀ a, s.fitTier tier owner o.size addr = (.at_ a, false) → Leaves (exec (.memMove m) s) (fun t =>
                 ∃ k, accepted k t ∧ k.ownerOnly = false ∧ k.dstAddr = a ∧ t.mem.pages =
                   { base := a, size := o.size, owner := ⟨s.ident.devNum, owner⟩, st := .free } :: s.mem.pages.flatMap (fun r => r.carve a o.size))) ∧
             (elsewhere → (tier = 3 ∨ tier = 4) →
               (s.mayLend tier (fld p 0x18 15 0) = false → refused Code.NOT_LENDER 0 0) ∧
               ∀ a more, s.mayLend tier (fld p 0x18 15 0) = true → fld p 0x18 15 0 ∉ s.fab.failed → grants 1 m.answers = (a :: more, none) →
                 Leaves (exec (.memMove m) s) (fun t => ∃ k, accepted k t ∧ k.keepAnchor = anchor ∧ k.lender = fld p 0x18 15 0 ∧
                   k.dstAddr = fld p 0x18 15 0 * 2 ^ 48 + a % 2 ^ 48)) ∧
             (elsewhere → tier = 5 →
               (∀ a, addr = some a → Leaves (exec (.memMove m) s) (fun t => ∃ k, accepted k t ∧ k.dstAddr = a ∧ k.keepAnchor = anchor)) ∧
               (fixed = false → refused Code.DESC_INVALID 0xFFFF 72)))))) ∧
   ∀ (m : MCmd) (s : State), Starts specMemQuery m s →
     (s.obj? (fld m.payload 0 31 0) = none → exec (.memQuery m) s = .next (answer s CmdCode.memQuery m Code.BAD_HANDLE)) ∧
     ∀ o, s.obj? (fld m.payload 0 31 0) = some o →
       o.bytes.length = 64 ∧ exec (.memQuery m) s = .next (answerOut s CmdCode.memQuery m o.bytes))

/-- MEM_POOL_CONFIG and MEM_LLM_CONFIG (R305, R306, R313): a pool of whole pages, at most half of placeable HBM, is set unless a range in use would leave
it or pages of this device's own would enter it (log entry 47); the last-level memory's split and the contexts of its eighths are set while no
context is open and no object uses what would go, and what becomes cache loses its contents.

MEM_STREAM_EST and MEM_ENCODE (R331, R339 to R341): an estimate answers the period that the busiest path needs, no less than the context's, with
that path, its number and its bytes, STREAM_SLOW above 256,000 ns; an encode between ranges of plain objects of the command's own writes the
encoding of the source's values, and is refused for a range it may not read or write. The encoding's layout in memory is the model's (log
entry 46).

MEM_F2_OPEN, MEM_F2_FLUSH and MEM_F2_CLOSE (R325 to R329, R357, R557): an open reserves the working range and asks the pool's controller for the
lease; a flush writes the dirty frames to the pool, and ends at once where none are left; a close is refused while the object is pinned,
and else flushes, and gives the lease back. -/
def Obligations.MemoryAndPoolCommands : Prop :=
  ((∀ (m : MCmd) (s : State), Starts specPoolConfig m s →
     let n := u64At m.payload 0
     let lo := s.placeable - n
     let own := (s.mem.pages.filter (fun r => lo < r.base + r.size && r.base < s.poolBase && !s.inScratch r.base)).map (·.size)
     let refused (st r0 r1 : Nat) : Prop := exec (.memPoolConfig m) s = .next (answer s CmdCode.memPoolConfig m st r0 r1)
     ((n % 65536 ≠ 0 ∨ s.placeable / 2 < n) → refused Code.DESC_INVALID 0xFFFF 0) ∧
     (n % 65536 = 0 → n ≤ s.placeable / 2 →
       ((∃ r ∈ s.mem.poolRanges, r.base < lo) → refused Code.POOL_IN_USE 0 0) ∧
       ((∀ r ∈ s.mem.poolRanges, lo ≤ r.base) → own ≠ [] → refused Code.NO_SPACE own.sum 2) ∧
       ((∀ r ∈ s.mem.poolRanges, lo ≤ r.base) → own = [] → exec (.memPoolConfig m) s =
         .next (answer { s with mem := { s.mem with poolBytes := n } } CmdCode.memPoolConfig m Code.OK)))) ∧
   ∀ (m : MCmd) (s : State), Starts specLlmConfig m s →
     let es := fld m.payload 0 3 0
     let setting (i : Nat) : Nat := fld m.payload 0 (5 + 2 * i) (4 + 2 * i)
     let refused (st : Nat) : Prop := exec (.memLlmConfig m) s = .next (answer s CmdCode.memLlmConfig m st)
     let isOpen := s.jobs.j0.isOpen = true ∨ s.jobs.j1.isOpen = true
     (isOpen → refused Code.JOB_OPEN) ∧
     (¬ isOpen → s.llmInUse es (llmSettings m.payload) = true → refused Code.LLM_IN_USE) ∧
     (¬ isOpen → s.llmInUse es (llmSettings m.payload) = false → s.memOk → Leaves (exec (.memLlmConfig m) s) (fun t =>
       t.mem.llm.es = es ∧
         (∀ i : Fin 8, t.mem.llm.eighths.get i = (if setting i.val = 0 then .j0 else if setting i.val = 1 then .j1 else .both)) ∧
         t.mem.objs = s.mem.objs ∧ t.jobs = s.jobs ∧
         ∀ b, t.byte b = if scratchBase + es * slabUnit ≤ b ∧ b < scratchBase + s.mem.llm.es * slabUnit then 0 else s.byte b))) ∧
  ((∀ (m : MCmd) (s : State), Starts specStreamEst m s →
     let p := m.payload
     let raw := (List.range (p.length / 16)).map (fun i => (fld p (16 * i) 31 0, fld p (16 * i + 8) 31 0, fld p (16 * i + 8) 44 32))
     let es := raw.filterMap (fun e => (s.obj? e.1).map (fun o => (o, e.2)))
     ((∃ e ∈ raw, s.obj? e.1 = none) → exec (.memStreamEst m) s = .next (answer s CmdCode.memStreamEst m Code.BAD_HANDLE)) ∧
     ((∀ e ∈ raw, s.obj? e.1 ≠ none) → (∀ q < 12, ∀ e ∈ es, bit e.2.2 q = true → s.planRate q ≠ 0) →
       let b := s.busiest es
       let load := pathLoad es b
       let cur := match m.ctxt with | some x => if (s.jobs.get x).isOpen then (s.jobs.get x).period else 0 | none => 0
       let est := max (cdiv (100 * load) (92 * 250 * s.planRate b) * 250) cur
       (∃ e ∈ es, bit e.2.2 b = true) ∧
       (∀ q < 13, (∃ e ∈ es, bit e.2.2 q = true) → pathLoad es q * s.planRate b ≤ load * s.planRate q) ∧
       exec (.memStreamEst m) s = .next (answer s CmdCode.memStreamEst m (if 256000 < est then Code.STREAM_SLOW else Code.OK) est (b + place load 8)))) ∧
   ∀ (m : MCmd) (s : State), Starts specEncode m s →
     let r := EncReq.of m.payload
     let refused (st r0 r1 : Nat) : Prop := exec (.memEncode m) s = .next (answer s CmdCode.memEncode m st r0 r1)
     ((s.obj? r.src = none ∨ s.obj? r.dst = none) → refused Code.BAD_HANDLE 0 0) ∧
     ∀ o d, s.obj? r.src = some o → s.obj? r.dst = some d →
       let src := s.plainRange m.ctx.toNat o r.srcOff r.srcLen
       let dst := s.plainRange m.ctx.toNat d r.dstOff r.dstLen
       (src ∈ [Code.COMP_ACCESS, Code.TIER_ILLEGAL, Code.MOVE_BUSY, Code.ADDR_UNMAPPED, Code.LLM_PROT] → refused src 0 0) ∧
       (src = Code.OWN_FAULT → refused src (o.home + r.srcOff) r.src) ∧
       (src = Code.DESC_INVALID → refused src 0xFFFF 64) ∧ (src = 0 → dst = Code.DESC_INVALID → refused dst 0xFFFF 192) ∧
       (src = 0 → dst ∈ [Code.COMP_ACCESS, Code.TIER_ILLEGAL, Code.MOVE_BUSY, Code.ADDR_UNMAPPED, Code.LLM_PROT] → refused dst 0 0) ∧
       (src = 0 → dst = Code.OWN_FAULT → refused dst (d.home + r.dstOff) r.dst) ∧
       (src = 0 → dst = 0 → s.poisoned (o.home + r.srcOff) r.srcLen = true → refused Code.HBM_POISON 0 0) ∧
       (src = 0 → dst = 0 → s.poisoned (o.home + r.srcOff) r.srcLen = false → s.writeErr (d.home + r.dstOff) r.dstLen = 0 → s.memOk →
         let out := r.output (s.rd (o.home + r.srcOff) r.srcLen)
         Leaves (exec (.memEncode m) s) (fun t => t.rd (d.home + r.dstOff) out.length = out ∧
           (∀ b, b < d.home + r.dstOff ∨ d.home + r.dstOff + out.length ≤ b → t.byte b = s.byte b) ∧ t.mem.objs = s.mem.objs ∧ t.jobs = s.jobs))) ∧
  ((∀ (m : MCmd) (s : State), Starts specF2Open m s →
     let p := m.payload
     let pool := u64At p 0
     let size := u64At p 8
     let work := u64At p 0x18
     let owner := fld p 0x10 1 0
     let refused (st r0 r1 : Nat) : Prop := exec (.memF2Open m) s = .next (answer s CmdCode.memF2Open m st r0 r1)
     (sizeOk size = false → refused Code.DESC_INVALID 0xFFFF 64) ∧
     (sizeOk size = true → work % 65536 ≠ 0 → refused Code.DESC_INVALID 0xFFFF 192) ∧
     (sizeOk size = true → work % 65536 = 0 →
       ((32 ≤ s.mem.f2.length ∨ 65536 ≤ s.mem.objs.length) → refused Code.OBJ_FULL 0 0) ∧
       (s.mem.f2.length < 32 → s.mem.objs.length < 65536 →
         (s.f2Port (devOf pool) = none → refused Code.DEV_UNREACHABLE 0 0) ∧
         ∀ port, s.f2Port (devOf pool) = some port →
           (∀ n, s.fit 0 s.poolBase size (some work) = .short n → refused Code.NO_SPACE n 2) ∧
           ∀ a, s.fit 0 s.poolBase size (some work) = .at_ a → Leaves (exec (.memF2Open m) s) (fun t =>
             t.mem.f2 = s.mem.f2 ++ [{ handle := 0, pool := pool, work := work, size := size, owner := owner }] ∧
               t.mem.pages = { base := work, size := size, owner := ⟨s.ident.devNum, owner⟩, st := .free } ::
                 s.mem.pages.flatMap (fun r => r.carve work size) ∧
               t.fab = { s.fab with ff2Sent := s.fab.ff2Sent ++ [(port.val, 1, pool)] } ∧
               ∃ w, t.mbx.started = s.mbx.started ++ [w] ∧ w.code = CmdCode.memF2Open ∧ w.key = pool)))) ∧
   (∀ (m : MCmd) (s : State) (k : F2Obj) (port : Port), Starts specF2Flush m s → s.f2Of (fld m.payload 0 31 0) = some k →
     s.f2Port (devOf k.pool) = some port → (∀ j ∈ s.mem.f2, j ≠ k → j.pool ≠ k.pool) → k ∈ s.mem.f2 → s.mem.f2.Nodup → k.unacked = [] → k.closing = false →
     let frames := k.dirty.mergeSort (fun a b => decide (a ≤ b))
     (k.dirty ≠ [] → Leaves (exec (.memF2Flush m) s) (fun t =>
       t.fab.ff2Sent = s.fab.ff2Sent ++ frames.map (fun f => (port.val, 3, k.pool + 4096 * f)) ∧
         t.mem.f2 = s.mem.f2.map (fun j => if j = k then { k with dirty := [], flushing := true, unacked := frames } else j) ∧
         ∃ w, t.mbx.started = s.mbx.started ++ [w] ∧ w.code = CmdCode.memF2Flush ∧ w.key = k.handle)) ∧
     (k.dirty = [] → Leaves (exec (.memF2Flush m) s) (fun t => t.fab.ff2Sent = s.fab.ff2Sent ∧
       t.mem.f2 = s.mem.f2.map (fun j => if j = k then { k with flushing := false } else j) ∧
       ∀ w ∈ t.mbx.started, ¬ (w.code = CmdCode.memF2Flush ∧ w.key = k.handle)))) ∧
   (∀ (m : MCmd) (s : State), Starts specF2Flush m s → s.f2Of (fld m.payload 0 31 0) = none →
     exec (.memF2Flush m) s = .next (answer s CmdCode.memF2Flush m Code.BAD_HANDLE)) ∧
   ∀ (m : MCmd) (s : State), Starts specF2Close m s →
     let h := fld m.payload 0 31 0
     (s.f2Of h = none → exec (.memF2Close m) s = .next (answer s CmdCode.memF2Close m Code.BAD_HANDLE)) ∧
     ∀ k o port, s.f2Of h = some k → s.obj? h = some o → s.f2Port (devOf k.pool) = some port →
       (∀ c n, s.pinnedBy o = some (c, n) → exec (.memF2Close m) s = .next (answer s CmdCode.memF2Close m Code.BUSY c n)) ∧
       (s.pinnedBy o = none → (∀ j ∈ s.mem.f2, j ≠ k → j.pool ≠ k.pool) → k ∈ s.mem.f2 → s.mem.f2.Nodup → k.unacked = [] →
         let frames := k.dirty.mergeSort (fun a b => decide (a ≤ b))
         Leaves (exec (.memF2Close m) s) (fun t =>
           (∃ w ∈ t.mbx.started, w.code = CmdCode.memF2Close ∧ w.key = h ∧ w.cmd = m) ∧
             t.fab.ff2Sent = s.fab.ff2Sent ++ (if k.dirty = [] then [(port.val, 4, k.pool)]
               else frames.map (fun f => (port.val, 3, k.pool + 4096 * f))) ∧
             t.mem.f2 = s.mem.f2.map (fun j => if j = k then { k with closing := true, dirty := [], flushing := !k.dirty.isEmpty, unacked := frames } else j))))

/-- OX_DESIGNATE, OX_RUN and OX_QUERY (R422, R425, R426, R428, R429): up to 32 channels in service are privileged while no context is open, and their lines
leave the last-level memory; a run is refused for its layout, its units, its owner or an incomplete run of another step, and else begins
at once, or waits for the runs of its context before it, each channel resuming where a failed run of its step left it; a query answers
each channel's step and next granule.

CKPT_SAVE and CKPT_RESTORE (R432 to R436, R557): at most four run at a time; both are refused for an object that is not the context's own or is
moving, and for a device that is down; a save pins its sources, marks its slot invalid and begins; a restore begins from the named device's
manifest, or answers CKPT_SLOT_INVALID where there is none. -/
def Obligations.OxAndCheckpointCommands : Prop :=
  ((∀ (m : MCmd) (s : State), Starts specOxDesignate m s →
     let mask := ofBytes (slice m.payload 0 32)
     let named := (List.finRange 256).filter (fun ch => bit mask ch.val)
     let refused (st : Nat) : Prop := exec (.oxDesignate m) s = .next (answer s CmdCode.oxDesignate m st)
     let isOpen := s.jobs.j0.isOpen = true ∨ s.jobs.j1.isOpen = true
     let out := ∃ ch ∈ named, (s.mem.chans.get ch).fenced = true ∨ (s.mem.chans.get ch).absent = true
     let fresh (l : LlmLine) : Prop := ∃ q, s.locate (256 * l.gran) = some q ∧ bit mask q.ch.val = true ∧ (s.mem.chans.get q.ch).privileged = false
     (isOpen → refused Code.JOB_OPEN) ∧ (¬ isOpen → 32 < named.length → refused Code.OX_TOO_MANY) ∧
     (¬ isOpen → named.length ≤ 32 → out → refused Code.HBM_FENCED) ∧
     (¬ isOpen → named.length ≤ 32 → ¬ out → Leaves (exec (.oxDesignate m) s) (fun t =>
       (∀ ch, t.mem.chans.get ch = { s.mem.chans.get ch with privileged := bit mask ch.val }) ∧
         (∀ sl l, l ∈ t.mem.llm.slices.get sl ↔ l ∈ s.mem.llm.slices.get sl ∧ ¬ fresh l) ∧ t.mem.mem = s.mem.mem ∧ t.jobs = s.jobs))) ∧
   (∀ (m : MCmd) (s : State), Starts specOxRun m s →
     let x := m.jobCtx
     let r := oxRunOf s m
     let own := s.oxOwn r
     let earlier := ∃ q ∈ s.mem.oxRuns, q.ctx = x
     let refused (st r0 r1 : Nat) : Prop := exec (.oxRun m) s = .next (answer s CmdCode.oxRun m st r0 r1)
     let waiting (t : State) : Prop := ∃ w, t.mbx.started = s.mbx.started ++ [w] ∧ w.code = CmdCode.oxRun ∧ w.key = r.key
     (s.oxLayout r = false → refused Code.OX_LAYOUT 0 0) ∧
     (s.oxLayout r = true → s.oxChans r.half = [] → refused Code.OX_NONE 0 0) ∧
     (s.oxLayout r = true → s.oxChans r.half ≠ [] →
       (own.1 = Code.OWN_FAULT → refused Code.OWN_FAULT own.2 (((s.objAt own.2).map Obj.handle).getD 0)) ∧
       (own.1 = Code.COMP_ACCESS → refused Code.COMP_ACCESS 0 0) ∧
       (own.1 = 0 → ¬ earlier → s.oxBlocked x r.step = true → refused Code.OX_INCOMPLETE 0 0) ∧
       (own.1 = 0 → ∀ q qs, s.mem.oxRuns.filter (fun q => q.ctx = x) = q :: qs → q.begun = true →
         Leaves (exec (.oxRun m) s) (fun t => t.mem.oxRuns = s.mem.oxRuns ++ [r] ∧ waiting t ∧ t.mem.mem = s.mem.mem)) ∧
       (own.1 = 0 → ¬ earlier → s.oxBlocked x r.step = false →
         let from_ (ch : Chan) : OxRec := let o := (s.mem.chans.get ch).ox.get x
           if o.incomplete then o else { step := r.step, next := 0, incomplete := true }
         let left := ((s.oxChans r.half).filter (fun ch => (from_ ch).next < s.oxTotal r)).map (·.val)
         left ≠ [] → Leaves (exec (.oxRun m) s) (fun t =>
           t.mem.oxRuns = s.mem.oxRuns ++ [{ r with begun := true, chans := left }] ∧ waiting t ∧
             (∀ ch ∈ s.oxChans r.half, (t.mem.chans.get ch).ox.get x = from_ ch) ∧ t.mem.mem = s.mem.mem)))) ∧
   (∀ (m : MCmd) (s : State), Starts specOxQuery m s → exec (.oxQuery m) s = .next (answerOut s CmdCode.oxQuery m
     (s.mem.chans.toList.flatMap (fun k => toBytes 8 (k.ox.get m.jobCtx).step ++ toBytes 8 (k.ox.get m.jobCtx).next))))) ∧
  ((∀ (m : MCmd) (s : State), Starts specCkptSave m s →
     let p := m.payload
     let x := m.jobCtx
     let slot := fld p 0 0 0
     let ents := (List.range (fld p 0 7 1)).map (fun i => (u32At p (8 + 8 * i), fld p (8 + 8 * i) 47 32))
     let srcs := ents.filterMap (fun e => s.obj? e.1)
     let dev := s.buddy x
     let refused (st r0 r1 : Nat) : Prop := exec (.ckptSave m) s = .next (answer s CmdCode.ckptSave m st r0 r1)
     (4 ≤ s.mem.ckptJobs.length → refused Code.BUSY CmdCode.ckptSave (s.mem.ckptJobs.filter (fun j => j.save)).length) ∧
     (s.mem.ckptJobs.length < 4 →
       (∀ st a h, s.namedErr x (ents.map (·.1)) = some (st, a, h) → refused st a h) ∧
       (s.namedErr x (ents.map (·.1)) = none → dev ∈ s.fab.failed → refused Code.DEV_UNREACHABLE 0 0) ∧
       (s.namedErr x (ents.map (·.1)) = none → dev ∉ s.fab.failed →
         (∀ u st short, placeSlot s x slot dev srcs m.answers = (u, none, st, short) →
           exec (.ckptSave m) s = .next (answer u CmdCode.ckptSave m st short (if st = Code.NO_SPACE then 3 else 0))) ∧
         ∀ u man fgas a b, placeSlot s x slot dev srcs m.answers = (u, some (man, fgas), a, b) → Leaves (exec (.ckptSave m) s) (fun t =>
           (∃ j, t.mem.ckptJobs = u.mem.ckptJobs ++ [j] ∧ j.save = true ∧ j.ctx = x ∧ j.slot = slot ∧ j.dev = dev ∧ j.man = man ∧
             j.objs = (ents.zip fgas).map (fun (e, a) => (e.1, a, e.2)) ∧
             ∃ w, t.mbx.started = u.mbx.started ++ [w] ∧ w.code = CmdCode.ckptSave ∧ w.key = j.key ∧ w.cmd = m) ∧
           t.mem.objs = u.mem.objs.map (fun o => if o.index ∈ srcs.map (·.index) then { o with pins := o.pins + 1 } else o) ∧
           (∀ i : Fin 2, i.val = slot → ((t.mem.ckpt.get x).get i).valid = false) ∧ t.mem.mem = u.mem.mem)))) ∧
   ∀ (m : MCmd) (s : State), Starts specCkptRestore m s →
     let p := m.payload
     let x := m.jobCtx
     let dev := fld p 0 15 0
     let slot := fld p 0 16 16
     let hs := (List.range (fld p 0 23 17)).map (fun i => u32At p (8 + 8 * i))
     let own := (((s.mem.ckpt.get x).toList.getD slot {}).man.bind s.obj?).filter (fun o => devOf o.home = dev)
     let refused (st r0 r1 : Nat) : Prop := exec (.ckptRestore m) s = .next (answer s CmdCode.ckptRestore m st r0 r1)
     let begun (man : Nat) : Prop := Leaves (exec (.ckptRestore m) s) (fun t => ∃ j, t.mem.ckptJobs = s.mem.ckptJobs ++ [j] ∧ j.save = false ∧
       j.ctx = x ∧ j.slot = slot ∧ j.dev = dev ∧ j.man = man ∧ j.objs.map (·.1) = hs ∧ t.mem.mem = s.mem.mem ∧ t.mem.objs = s.mem.objs ∧
       ∃ w, t.mbx.started = s.mbx.started ++ [w] ∧ w.code = CmdCode.ckptRestore ∧ w.key = j.key ∧ w.cmd = m)
     (4 ≤ s.mem.ckptJobs.length → refused Code.BUSY CmdCode.ckptRestore (s.mem.ckptJobs.filter (fun j => !j.save)).length) ∧
     (s.mem.ckptJobs.length < 4 →
       (∀ st a h, s.namedErr x hs = some (st, a, h) → refused st a h) ∧
       (s.namedErr x hs = none →
         (m.answers = [] → own = none → refused Code.CKPT_SLOT_INVALID 0 0) ∧
         (dev ∈ s.fab.failed → (m.answers ≠ [] ∨ own ≠ none) → refused Code.DEV_UNREACHABLE 0 0) ∧
         (dev ∉ s.fab.failed → (∀ a l, m.answers = a :: l → begun (dev * 2 ^ 48 + a % 2 ^ 48)) ∧
           (m.answers = [] → ∀ o, own = some o → begun o.home)))))

/-- FAB_PORT_CONFIG, FAB_ROUTE_LOAD, FAB_ROUTE_SWAP and FAB_STATUS (R344, R351, R375, R379, R572): a port's settings apply when it next trains, or at
once with its disable, and two Uplink ports are those of one axis; a bank that is not draining or in force takes routes of the next Epoch;
a swap puts the standby bank in force, and completes once every flow of the old one has drained (of two that
stand by with none in force, the first: the model's choice, log entry 65); the status gives a word for each port.

COLL_DEFINE, COLL_FUSE, COLL_ARM, COLL_QUERY and COLL_UNDEFINE (R390 to R398, R407, R408, R415, R573): a group of one role's axes that this device is
a member of is defined, or undefined, while no instance uses it; a fusion descriptor whose ranges do not meet takes its FuseId, an
instance that uses the old one keeping it; an instance that breaks no rule is armed with the group's next number, and starts where it has
no trigger; a query answers a group's arrival records. -/
def Obligations.FabricAndCollectiveCommands : Prop :=
  ((∀ (m : MCmd) (s : State), Starts specPortConfig m s →
     let w := u64At m.payload 0
     let r := Role.ofCode (bits w 5 4)
     let lim := if bits w 31 12 = 0 then 100000 else 1000 * bits w 31 12
     (12 ≤ bits w 3 0 → exec (.fabPortConfig m) s = .next (answer s CmdCode.fabPortConfig m Code.DESC_INVALID 0xFFFF 0)) ∧
     ∀ p : Port, p.val = bits w 3 0 →
       let ok := r = .uplink → ∀ o, o ≠ p → (s.fab.ports.get o).roleNext = .uplink → o = otherPort p
       (¬ ok → exec (.fabPortConfig m) s = .next (answer s CmdCode.fabPortConfig m Code.PORT_ROLE)) ∧
       (ok → bit w 6 = true → exec (.fabPortConfig m) s =
         .next (answer (s.updPort p (fun q => { q.reenable s.now with nextRole := some (r, true, lim) })) CmdCode.fabPortConfig m Code.OK)) ∧
       (ok → bit w 6 = false → exec (.fabPortConfig m) s =
         .next (answer (s.updPort p (fun q => { q.disable with role := r, enable := false, congestNs := lim, nextRole := none }))
           CmdCode.fabPortConfig m Code.OK) ∧ ((s.fab.ports.get p).disable.link = .disabled ∧ (s.fab.ports.get p).disable.replay = []))) ∧
   (∀ (m : MCmd) (s : State), Starts specRouteLoad m s →
     let p := m.payload
     let i : Fin 2 := if bit (fld p 0 0 0) 0 then 1 else 0
     let e := fld p 0 15 8
     let refused (st : Nat) : Prop := exec (.fabRouteLoad m) s = .next (answer s CmdCode.fabRouteLoad m st)
     let follows := ∀ a, s.fab.active? = some a → e = (a.epoch + 1) % 256
     ((s.fab.banks.get i).st = .draining → refused Code.ROUTE_DRAINING) ∧
     ((s.fab.banks.get i).st = .active → refused Code.ROUTE_STATE) ∧
     ((s.fab.banks.get i).st = .emptySt ∨ (s.fab.banks.get i).st = .standby →
       (¬ follows → refused Code.ROUTE_EPOCH) ∧
       (follows → exec (.fabRouteLoad m) s = .next (answer { s with fab := { s.fab with banks := upd s.fab.banks i (fun _ =>
         { epoch := e, st := .standby, pod := (List.range 512).map (fun k => BitVec.ofNat 64 (u64At p (8 + 8 * k))),
           hall := (List.range 64).map (fun k => BitVec.ofNat 64 (u64At p (4104 + 8 * k))) }) } } CmdCode.fabRouteLoad m Code.OK)))) ∧
   (∀ (m : MCmd) (s : State), Starts specRouteSwap m s →
     let standby := ∃ i, (s.fab.banks.get i).st = .standby
     (¬ standby → exec (.fabRouteSwap m) s = .next (answer s CmdCode.fabRouteSwap m Code.ROUTE_STATE)) ∧
     ∀ i j : Fin 2, i ≠ j → (s.fab.banks.get i).st = .standby →
       ((s.fab.banks.get j).st = .emptySt → exec (.fabRouteSwap m) s = .next (answer { s with fab := { s.fab with
         banks := upd s.fab.banks i (fun b => { b with st := .active }) } } CmdCode.fabRouteSwap m Code.OK)) ∧
       (i = 0 → (s.fab.banks.get j).st = .standby → exec (.fabRouteSwap m) s = .next (answer { s with fab := { s.fab with
         banks := upd s.fab.banks i (fun b => { b with st := .active }) } } CmdCode.fabRouteSwap m Code.OK)) ∧
       ((s.fab.banks.get j).st = .active →
         let owed := (s.fab.src.filter (fun f => f.routeEpochs.contains (s.fab.banks.get j).epoch)).map (fun f => (f.cls, f.peer))
         Leaves (exec (.fabRouteSwap m) s) (fun t =>
           t.fab.banks.get i = { s.fab.banks.get i with st := .active } ∧ t.mem = s.mem ∧ t.jobs = s.jobs ∧
           (owed = [] → (t.fab.banks.get j).st = .emptySt) ∧
           (owed ≠ [] → t.fab.banks.get j = { s.fab.banks.get j with st := .draining } ∧ t.fab.drains = owed ∧
             ∃ w ∈ t.mbx.started, w.code = CmdCode.fabRouteSwap ∧ w.cmd = m)))) ∧
   (∀ (m : MCmd) (s : State), Starts specFabStatus m s → exec (.fabStatus m) s = .next (answerOut s CmdCode.fabStatus m
     (s.fab.ports.toList.flatMap (fun q => toBytes 8 (q.link.code + place (b2n q.ff2) 3 + place (q.lanes % 16) 4 +
       place ((q.peer.map (·.devNum)).getD 0 % 65536) 16 + place ((q.peer.map (·.port)).getD 0 % 16) 32)))))) ∧
  ((∀ (m : MCmd) (s : State), Starts specCollDefine m s →
     let x := m.jobCtx
     let j := s.jobs.get x
     let g := groupOf m.payload
     let refused (st r0 r1 : Nat) : Prop := exec (.collDefine m) s = .next (answer s CmdCode.collDefine m st r0 r1)
     (j.map.oneRole g.axes = false → refused Code.COLL_AXES 0 0) ∧
     (j.map.oneRole g.axes = true →
       (∀ b, groupAxisBad j g = some b → refused Code.DESC_INVALID 0xFFFF b) ∧
       (groupAxisBad j g = none → g.size < 2 → refused Code.DESC_INVALID 0xFFFF 64) ∧
       (groupAxisBad j g = none → 2 ≤ g.size →
         (s.memberOf g s.ident.devNum = false → refused Code.COLL_NOT_MEMBER 0 0) ∧
         (s.memberOf g s.ident.devNum = true → s.groupBusy x g.id = true → refused Code.GROUP_BUSY 0 0) ∧
         (s.memberOf g s.ident.devNum = true → s.groupBusy x g.id = false → Leaves (exec (.collDefine m) s) (fun t =>
           t.cgroup x g.id = some { g with modes := s.groupModes j g, nextInst := ((s.cgroup x g.id).map (·.nextInst)).getD 1 } ∧
             (∀ n, n ≠ g.id → t.cgroup x n = s.cgroup x n) ∧ t.coll.insts = s.coll.insts ∧ t.mem = s.mem ∧ t.jobs = s.jobs))))) ∧
   (∀ (m : MCmd) (s : State), Starts specCollUndefine m s →
     let x := m.jobCtx
     let id := fld m.payload 0 5 0
     (s.cgroup x id = none → exec (.collUndefine m) s = .next (answer s CmdCode.collUndefine m Code.NO_GROUP)) ∧
     (s.cgroup x id ≠ none → s.groupBusy x id = true → exec (.collUndefine m) s = .next (answer s CmdCode.collUndefine m Code.GROUP_BUSY)) ∧
     (s.cgroup x id ≠ none → s.groupBusy x id = false → Leaves (exec (.collUndefine m) s) (fun t =>
       t.cgroup x id = none ∧ (∀ n, n ≠ id → t.cgroup x n = s.cgroup x n) ∧ t.coll.insts = s.coll.insts ∧ t.mem = s.mem ∧ t.jobs = s.jobs))) ∧
   (∀ (m : MCmd) (s : State), Starts specCollFuse m s →
     let x := m.jobCtx
     let f := fuseOf m.payload
     let spare := ((s.coll.fuses.get x).map (·.id)).foldl max 255 + 1
     (anyMeet f.ranges0 = true → exec (.collFuse m) s = .next (answer s CmdCode.collFuse m Code.COLL_OVERLAP)) ∧
     (anyMeet f.ranges0 = false → Leaves (exec (.collFuse m) s) (fun t =>
       t.cfuse x f.id = some f ∧ (∀ n, n ≠ f.id → n < spare → t.cfuse x n = s.cfuse x n) ∧ t.coll.groups = s.coll.groups ∧ t.mem = s.mem ∧
         ∀ i ∈ s.coll.insts, (i.ctx = x ∧ i.fuse = f.id → { i with fuse := spare } ∈ t.coll.insts ∧
           ∀ o, s.cfuse x f.id = some o → t.cfuse x spare = some { o with id := spare }) ∧
           (¬ (i.ctx = x ∧ i.fuse = f.id) → i ∈ t.coll.insts)))) ∧
   (∀ (m : MCmd) (s : State), Starts specCollArm m s →
     let x := m.jobCtx
     let i0 := instOf m.payload x 0
     let refused (st r0 r1 : Nat) : Prop := exec (.collArm m) s = .next (answer s CmdCode.collArm m st r0 r1)
     (s.cgroup x i0.group = none → refused Code.NO_GROUP 0 0) ∧
     (s.cgroup x i0.group ≠ none → s.cfuse x i0.fuse = none → refused Code.DESC_INVALID 0xFFFF 6) ∧
     ∀ g f, s.cgroup x i0.group = some g → s.cfuse x i0.fuse = some f →
       let i := { i0 with num := g.nextInst }
       let rs := collRanges i g f
       (∀ b, armBad i0 f.dtype = some b → refused Code.DESC_INVALID 0xFFFF b) ∧
       (armBad i0 f.dtype = none →
         (32 ≤ s.armedN x → refused Code.BUSY CmdCode.collArm (s.armedN x)) ∧
         (s.armedN x < 32 → i.trig = 0 → 8 ≤ s.flyingN → refused Code.BUSY CmdCode.collArm s.flyingN) ∧
         (s.armedN x < 32 → (i.trig = 0 → s.flyingN < 8) →
           (anyMeet (rs.filter (fun r => r.2 ≠ 0)) = true → refused Code.COLL_OVERLAP 0 0) ∧
           (anyMeet (rs.filter (fun r => r.2 ≠ 0)) = false →
             (∀ st, (rs.map (s.armErr x)).find? (fun e => e ≠ 0) = some st → refused st 0 0) ∧
             ((∀ r ∈ rs, s.armErr x r = 0) →
               let t := s.updGroupC x g.id (fun g => { g with nextInst := g.nextInst + 1 })
               let t := answer { t with coll := { t.coll with insts := s.coll.insts ++ [i] } } CmdCode.collArm m Code.OK i.num
               (i.trig ≠ 0 → exec (.collArm m) s = .next t) ∧
               (i.trig = 0 → exec (.collArm m) s = exec (.collTrigger x g.id i.num) t)))))) ∧
   (∀ (m : MCmd) (s : State), Starts specCollQuery m s →
     (s.cgroup m.jobCtx (fld m.payload 0 5 0) = none → exec (.collQuery m) s = .next (answer s CmdCode.collQuery m Code.NO_GROUP)) ∧
     ∀ g, s.cgroup m.jobCtx (fld m.payload 0 5 0) = some g → exec (.collQuery m) s = .next (answerOut s CmdCode.collQuery m g.queryBytes)))

/-- CNT_CONFIG, CNT_CATALOG, CNT_FREEZE, CNT_RELEASE, CNT_SNAPSHOT and CNT_LOG_READ (R517, R520 to R529, R537, R574): outside a freeze the programmable
counters named are set up at 0 with the freeze settings, and the others stay; a freeze latches the counters and beats once, and while it is
in force is only counted; a release ends it; a snapshot answers the freeze's latch, or a new one outside a freeze, every counter of the part in
the order of R529; a log answers its entries, the oldest first.

HEN_WATCH, HEN_RELEASE and HEN_UNWATCH (R530 to R532, R574): a watch of an open context whose ring that context owns is defined under a free
number; a release gives records of its ring back, no more than it holds (log entry 44); an unwatch removes it. -/
def Obligations.CounterAndWatchCommands : Prop :=
  ((∀ (m : MCmd) (s : State), Starts specCntConfig m s →
     let p := m.payload
     (s.obs.frozen = true → exec (.cntConfig m) s = .next (answer s CmdCode.cntConfig m Code.CNT_FROZEN)) ∧
     (s.obs.frozen = false → ∃ pcs : Vector ProgCnt 1024, exec (.cntConfig m) s = .next (answer { s with obs := { s.obs with
         pcs := pcs, freezeOn := fld p 0 24 21, scope := fld p 0 26 25, logShift := fld p 0 31 27 } } CmdCode.cntConfig m Code.OK) ∧
       (∀ i : Fin 1024, (i.val < fld p 0 9 0 ∨ fld p 0 9 0 + fld p 0 20 10 ≤ i.val) → pcs.get i = s.obs.pcs.get i) ∧
       ∀ (i : Fin 1024) (k : Nat), k < fld p 0 20 10 → i.val = fld p 0 9 0 + k →
         let c := pcs.get i
         c.used = true ∧ c.value = 0 ∧ c.fired = false ∧ c.code = fld p (8 + 16 * k) 15 0 ∧ c.unit = fld p (8 + 16 * k) 31 16 ∧
           c.sub = fld p (8 + 16 * k) 39 32 ∧ c.ctxMask = fld p (8 + 16 * k) 41 40 ∧ c.mode = fld p (8 + 16 * k) 43 42 ∧
           c.threshold = fld p (8 + 16 * k) 63 48 + place (fld p (16 + 16 * k) 31 0) 16)) ∧
   (∀ (m : MCmd) (s : State), Starts specCntCatalog m s →
     exec (.cntCatalog m) s = .next (answerOut s CmdCode.cntCatalog m Config.eventCatalog)) ∧
   (∀ (m : MCmd) (s : State), Starts specCntFreeze m s → Leaves (exec (.cntFreeze m) s) (fun t =>
     t.obs.frozen = true ∧ t.mem = s.mem ∧ t.jobs = s.jobs ∧ t.clusters = s.clusters ∧ (s.obs.frozen = true → t.obs.snap = s.obs.snap) ∧
       (s.obs.frozen = false → t.obs.freezeSeq = s.obs.freezeSeq + 1 ∧ t.obs.snap = some
         { freezeId := s.obs.freezeSeq + 1, origin := s.ident.devNum, cause := 0, frozen := true, latchTs := s.now,
           beatJ0 := if s.jobs.j0.isOpen then s.jobs.j0.beat else 0, beatJ1 := if s.jobs.j1.isOpen then s.jobs.j1.beat else 0,
           counters := s.obs.counters }))) ∧
   (∀ (m : MCmd) (s : State), Starts specCntRelease m s →
     exec (.cntRelease m) s = .next (answer { s with obs := { s.obs with frozen := false } } CmdCode.cntRelease m Code.OK)) ∧
   (∀ (m : MCmd) (s : State), Starts specCntSnapshot m s →
     let p : Snapshot := if s.obs.frozen then s.obs.snap.getD (latch s 0 s.ident.devNum 0 false) else latch s 0 s.ident.devNum 0 false
     exec (.cntSnapshot m) s = .next (answerOut { s with obs := { s.obs with snap := some p } } CmdCode.cntSnapshot m (s.snapBytes p)) ∧
       (s.snapBytes p).length = 64 + 8 * s.counterKeys.length) ∧
   (∀ (m : MCmd) (s : State), Starts specCntLogRead m s →
     let die : Fin 2 := if bit (fld m.payload 0 0 0) 0 then 1 else 0
     exec (.cntLogRead m) s = .next (answerOut s CmdCode.cntLogRead m ((s.obs.logs.get die).reverse.flatMap LogEntry.bytes)))) ∧
  ((∀ (m : MCmd) (s : State), Starts specHenWatch m s →
     let w := watchOf m.payload
     let id := fld m.payload 0 5 0
     let refused (st : Nat) : Prop := exec (.henWatch m) s = .next (answer s CmdCode.henWatch m st)
     ((s.jobs.get w.ctx).isOpen = false → refused Code.NO_JOB) ∧
     ((s.jobs.get w.ctx).isOpen = true → (s.watch? id).isSome = true → refused Code.WATCH_BUSY) ∧
     ((s.jobs.get w.ctx).isOpen = true → s.watch? id = none → s.ringErr w ≠ 0 → refused (s.ringErr w)) ∧
     ((s.jobs.get w.ctx).isOpen = true → s.watch? id = none → s.ringErr w = 0 → Leaves (exec (.henWatch m) s) (fun t =>
       t.watch? id = some w ∧ (∀ n, n ≠ id → t.watch? n = s.watch? n) ∧ t.mem = s.mem ∧ t.jobs = s.jobs))) ∧
   (∀ (m : MCmd) (s : State), Starts specHenRelease m s →
     let id := fld m.payload 0 5 0
     let n := fld m.payload 0 16 6
     (s.watch? id = none → exec (.henRelease m) s = .next (answer s CmdCode.henRelease m Code.DESC_INVALID 0xFFFF 0)) ∧
     ∀ w, s.watch? id = some w →
       (w.held < n → exec (.henRelease m) s = .next (answer s CmdCode.henRelease m Code.DESC_INVALID 0xFFFF 6)) ∧
       (n ≤ w.held → Leaves (exec (.henRelease m) s) (fun t =>
         t.watch? id = some { w with held := w.held - n } ∧ (∀ k, k ≠ id → t.watch? k = s.watch? k) ∧ t.mem = s.mem))) ∧
   (∀ (m : MCmd) (s : State), Starts specHenUnwatch m s →
     let id := fld m.payload 0 5 0
     (s.watch? id = none → exec (.henUnwatch m) s = .next (answer s CmdCode.henUnwatch m Code.DESC_INVALID 0xFFFF 0)) ∧
     ((s.watch? id).isSome = true → Leaves (exec (.henUnwatch m) s) (fun t =>
       t.watch? id = none ∧ (∀ k, k ≠ id → t.watch? k = s.watch? k) ∧ t.mem = s.mem))))

/-- MEDIA_OPEN, MEDIA_FEED, MEDIA_RELEASE, MEDIA_CLOSE and MEDIA_CONFIG (R493, R494, R497, R498, R504, R508, R509): a stream of an open context whose buffer
and ring that context owns is opened, its entry's bytes and tensor offset answered; a chunk joins a live stream's queue with the next ordinal,
32 at most; entries are released, a stream closes, and the persistence of an overload is set. -/
def Obligations.MediaCommands : Prop :=
  (∀ (m : MCmd) (s : State) (i : Fin 64), Starts specMediaOpen m s → i.val = fld m.payload 0 5 0 →
    let t := MStream.of m.payload
    let buf := s.mediaRange t.ctx t.dpbAddr t.dpbBytes
    let ring := s.mediaRange t.ctx t.ringAddr (t.ringEntries * t.entryBytes)
    let refused (st r0 : Nat) : Prop := exec (.mediaOpen m) s = .next (answer s CmdCode.mediaOpen m st r0)
    ((s.media.streams.get i).isSome = true → refused Code.STREAM_BUSY 0) ∧
    (s.media.streams.get i = none →
      ((s.jobs.get t.ctx).isOpen = false → refused Code.NO_JOB 0) ∧
      ((s.jobs.get t.ctx).isOpen = true →
        (buf = Code.OWN_FAULT → refused Code.OWN_FAULT t.dpbAddr) ∧ (buf = Code.COMP_ACCESS → refused Code.COMP_ACCESS 0) ∧
        (buf = 0 → ring = Code.OWN_FAULT → refused Code.OWN_FAULT t.ringAddr) ∧
        (buf = 0 → ring = Code.COMP_ACCESS → refused Code.COMP_ACCESS 0) ∧
        (buf = 0 → ring = 0 → exec (.mediaOpen m) s = .next (answer { s with media := { s.media with
          streams := upd s.media.streams i (fun _ => some t) } } CmdCode.mediaOpen m Code.OK t.entryBytes t.tensorOff))))) ∧
  (∀ (m : MCmd) (s : State) (i : Fin 64), Starts specMediaFeed m s → i.val = fld m.payload 8 37 32 →
    let p := m.payload
    (s.liveStream i = none → exec (.mediaFeed m) s = .next (answer s CmdCode.mediaFeed m Code.NO_STREAM)) ∧
    ∀ t, s.liveStream i = some t →
      (32 ≤ t.chunks.length → Reports (exec (.mediaFeed m) s) (s.updStream i (fun t => { t with busySince := some (t.busySince.getD s.now) }))) ∧
      (t.chunks.length < 32 → exec (.mediaFeed m) s = .next (answer (s.updStream i (fun t => { t with
        chunks := t.chunks ++ [{ ord := t.nextOrd, addr := u64At p 0, len := fld p 8 24 0, hostSpace := bit (fld p 8 25 25) 0,
                                 eos := bit (fld p 8 26 26) 0, disc := bit (fld p 8 27 27) 0 }],
        nextOrd := t.nextOrd + 1, busySince := none, overloaded := false })) CmdCode.mediaFeed m Code.OK t.nextOrd))) ∧
  (∀ (m : MCmd) (s : State) (i : Fin 64), Starts specMediaRelease m s → i.val = fld m.payload 0 5 0 →
    let n := fld m.payload 0 16 6
    (s.liveStream i = none → exec (.mediaRelease m) s = .next (answer s CmdCode.mediaRelease m Code.NO_STREAM)) ∧
    ∀ t, s.liveStream i = some t →
      (t.ringHeld < n → exec (.mediaRelease m) s = .next (answer s CmdCode.mediaRelease m Code.DESC_INVALID 0xFFFF 6)) ∧
      (n ≤ t.ringHeld → Leaves (exec (.mediaRelease m) s) (fun u =>
        u.media.streams.get i = some { t with ringHeld := t.ringHeld - n, waitRingSince := if n = 0 then t.waitRingSince else none } ∧
          (∀ k, k ≠ i → u.media.streams.get k = s.media.streams.get k) ∧ u.mem = s.mem))) ∧
  (∀ (m : MCmd) (s : State) (i : Fin 64), Starts specMediaClose m s → i.val = fld m.payload 0 5 0 →
    (s.media.streams.get i = none → exec (.mediaClose m) s = .next (answer s CmdCode.mediaClose m Code.NO_STREAM)) ∧
    ((s.media.streams.get i).isSome = true → Leaves (exec (.mediaClose m) s) (fun u =>
      u.media.streams.get i = none ∧ (∀ k, k ≠ i → u.media.streams.get k = s.media.streams.get k) ∧ u.mem = s.mem))) ∧
  (∀ (m : MCmd) (s : State), Starts specMediaConfig m s →
    let v := fld m.payload 0 13 0
    exec (.mediaConfig m) s =
      .next (answer { s with media := { s.media with feedPersistMs := if v = 0 then 100 else v } } CmdCode.mediaConfig m Code.OK))

/-- PWR_STATUS, PWR_CAP_SET, FAULT_POLICY, FAULT_TIME_SET, FAULT_CPER_READ, FAULT_RETIRE_CLEAR, ID_READ, ID_CAP_READ and ID_ASSUME (R287, R437, R438, R479,
R485, R576, R618, R629, R642): each read answers its record; the power cap is set within its range; the policy's fields that are not 0 are taken over;
a collector's read on Q0 removes what it returns; a retirement with a record is cleared in flash; a spare outside any job takes a failed
device's identity on its own ring.

FLASH_READ, FLASH_ERASE, FLASH_WRITE and FLASH_IMAGE_COMMIT (R557, R577, R578, R622): a read of the 64 MiB answers its bytes; an erase or write reaches the
idle firmware slot alone, unlocked and with the energy for it, one at a time, and begins at once where no operation is under way; an image
whose signature holds (a free choice, log entry 10) runs from the next module reset. -/
def Obligations.ModuleAndFlashCommands : Prop :=
  ((∀ (m : MCmd) (s : State), Starts specPwrStatus m s →
     s.telemetry.length = 64 ∧ exec (.pwrStatus m) s = .next (answerOut s CmdCode.pwrStatus m s.telemetry)) ∧
   (∀ (m : MCmd) (s : State), Starts specCapSet m s →
     let w := fld m.payload 0 15 0
     (600 ≤ w ∧ w ≤ 1250 → exec (.pwrCapSet m) s = .next (answer { s with power := { s.power with cap := w } } CmdCode.pwrCapSet m Code.OK)) ∧
     (¬ (600 ≤ w ∧ w ≤ 1250) → exec (.pwrCapSet m) s = .next (answer s CmdCode.pwrCapSet m Code.CAP_RANGE))) ∧
   (∀ (m : MCmd) (s : State), Starts specPolicy m s →
     let f (i old : Nat) : Nat := if u32At m.payload (4 * i) = 0 then old else u32At m.payload (4 * i)
     let q := s.goose.policy
     exec (.faultPolicy m) s = .next (answer { s with goose := { s.goose with policy := {
       strikeWindow := f 0 q.strikeWindow, refTimeoutUs := f 1 q.refTimeoutUs, testPeriod := f 2 q.testPeriod, logRate := f 3 q.logRate,
       ifFailN := f 4 q.ifFailN, suspectN := f 5 q.suspectN, ueRowsN := f 6 q.ueRowsN, scrubN := f 7 q.scrubN } } }
       CmdCode.faultPolicy m Code.OK)) ∧
   (∀ (m : MCmd) (s : State), Starts specTimeSet m s → exec (.faultTimeSet m) s =
     .next (answer { s with log := { s.log with hostTime := some (u64At m.payload 0, s.now) } } CmdCode.faultTimeSet m Code.OK)) ∧
   (∀ (m : MCmd) (s : State), Starts specCperRead m s →
     let first := u64At m.payload 8
     let take (l : List FaultRec) (room : Nat) : List FaultRec := (l.filter (fun r => first ≤ r.recordId)).take (room / 328)
     (bit (fld m.payload 0 0 0) 0 = true → exec (.faultCperRead m) s = .next (answerOut s CmdCode.faultCperRead m
       ((take s.log.flashRecs (if m.q.val = 0 then 4096 else m.outLen)).flatMap FaultRec.bytes))) ∧
     (bit (fld m.payload 0 0 0) 0 = false → m.q.val ≠ 0 →
       exec (.faultCperRead m) s = .next (answerOut s CmdCode.faultCperRead m ((take s.log.host m.outLen).flatMap FaultRec.bytes))) ∧
     (bit (fld m.payload 0 0 0) 0 = false → m.q.val = 0 →
       let out := take s.log.collector 4096
       exec (.faultCperRead m) s = .next (answerOut { s with log := { s.log with
         collector := s.log.collector.filter (fun r => !out.any (fun o => o.recordId = r.recordId)) } }
         CmdCode.faultCperRead m (out.flatMap FaultRec.bytes)))) ∧
   (∀ (m : MCmd) (s : State), Starts specRetireClear m s →
     (s.retireRec (fld m.payload 0 7 0) = false → exec (.faultRetireClear m) s = .next (answer s CmdCode.faultRetireClear m Code.RETIRE_NONE)) ∧
     (s.retireRec (fld m.payload 0 7 0) = true → (∀ k ∈ s.mbx.started, k.isFlash = false) → Leaves (exec (.faultRetireClear m) s) (fun t =>
       (∃ w, t.mbx.started = s.mbx.started ++ [w] ∧ w.code = CmdCode.faultRetireClear ∧ w.cmd = m) ∧ t.log = s.log ∧ t.ident = s.ident ∧
         t.power = (if s.power.flashBusy = false ∧ 1200 ≤ s.power.bankMj then { s.power with flashBusy := true, flashIdent := false } else s.power)))) ∧
   (∀ (m : MCmd) (s : State), Starts specIdRead m s →
     s.ident.bytes.length = 64 ∧ exec (.idRead m) s = .next (answerOut s CmdCode.idRead m s.ident.bytes)) ∧
   (∀ (m : MCmd) (s : State), Starts specCapRead m s → exec (.idCapRead m) s = .next (answerOut s CmdCode.idCapRead m s.capBytes)) ∧
   (∀ (m : MCmd) (s : State), Starts specAssume m s →
     let p := m.payload
     let dev := fld p 0 15 0
     let refused (st r0 : Nat) : Prop := exec (.idAssume m) s = .next (answer s CmdCode.idAssume m st r0)
     let isOpen := s.jobs.j0.isOpen = true ∨ s.jobs.j1.isOpen = true
     let differs := ∃ a < 7, a ≠ s.ident.spareAxis ∧ bits (fld p 8 41 0) (6 * a + 5) (6 * a) ≠ bits s.ident.physCoord (6 * a + 5) (6 * a)
     ((dev = 0 ∨ 0x8000 < dev) → refused Code.DESC_INVALID 0xFFFF) ∧
     (1 ≤ dev → dev ≤ 0x8000 →
       (s.ident.spare = false → refused Code.ID_NOT_SPARE 0) ∧ (s.ident.spare = true → isOpen → refused Code.JOB_OPEN 0) ∧
       (s.ident.spare = true → ¬ isOpen → differs → refused Code.ID_RING 0) ∧
       (s.ident.spare = true → ¬ isOpen → ¬ differs → Leaves (exec (.idAssume m) s) (fun t =>
         t.ident.devNum = dev ∧ t.ident.logCoord = fld p 8 41 0 ∧ t.ident.assumed = true ∧ t.ident.assumeStep = fld p 16 47 0 ∧
           t.ident.jobId = u64At p 24 ∧ t.ident.physCoord = s.ident.physCoord ∧ t.ident.spare = true ∧ t.ident.flashPending = true ∧
           (∃ w ∈ t.mbx.started, w.code = CmdCode.idAssume ∧ w.cmd = m) ∧ t.mem = s.mem ∧ t.jobs = s.jobs))))) ∧
  ((∀ (m : MCmd) (s : State), Starts specFlashRead m s →
     let off := u64At m.payload 0
     let len := fld m.payload 8 20 0
     ((len = 0 ∨ 0x100000 < len) → exec (.flashRead m) s = .next (answer s CmdCode.flashRead m Code.DESC_INVALID 0xFFFF 64)) ∧
     (1 ≤ len → len ≤ 0x100000 → 0x4000000 < off + len → exec (.flashRead m) s = .next (answer s CmdCode.flashRead m Code.FLASH_RANGE)) ∧
     (1 ≤ len → len ≤ 0x100000 → off + len ≤ 0x4000000 →
       exec (.flashRead m) s = .next (answerOut s CmdCode.flashRead m ((List.range len).map (fun i => s.flashByte (off + i)))))) ∧
   (∀ (m : MCmd) (s : State) (wr : Bool), Starts (if wr then specFlashWrite else specFlashErase) m s →
     let off := u64At m.payload 0
     let len := if wr then m.payload.length - 8 else 0x10000 * u64At m.payload 8
     let code := if wr then CmdCode.flashWrite else CmdCode.flashErase
     let i := if wr then Instr.flashWrite m else Instr.flashErase m
     let refused (st r0 r1 : Nat) : Prop := exec i s = .next (answer s code m st r0 r1)
     let base := if s.ident.fwSlot then 0 else 0x1000000
     let inside := base ≤ off ∧ off + len ≤ base + 0x1000000
     (wr = false → off % 0x10000 ≠ 0 → refused Code.DESC_INVALID 0xFFFF 0) ∧
     ((wr = true ∨ off % 0x10000 = 0) →
       (¬ inside → refused Code.FLASH_RANGE 0 0) ∧
       (inside → s.regs.flashUnlock = false → refused Code.FLASH_LOCKED 0 0) ∧
       (inside → s.regs.flashUnlock = true → s.power.flashBusy = false → s.power.bankMj < 1200 → refused Code.FLASH_ENERGY 0 0) ∧
       (inside → s.regs.flashUnlock = true → (s.power.flashBusy = true ∨ 1200 ≤ s.power.bankMj) →
         (∀ k, s.flashHost = some k → refused Code.BUSY k.code 1) ∧
         (s.flashHost = none → (∀ k ∈ s.mbx.started, k.isFlash = false) → Leaves (exec i s) (fun t =>
           (∃ w, t.mbx.started = s.mbx.started ++ [w] ∧ w.code = code ∧ w.cmd = m) ∧ t.ident = s.ident ∧ t.power.flashBusy = true ∧
             (s.power.flashBusy = true → t.power = s.power)))))) ∧
   (∀ (m : MCmd) (s : State), Starts specImageCommit m s →
     let slot := bit (fld m.payload 0 0 0) 0
     let image := Mem.read 0xFF s.ident.flash (if slot then 0x1000000 else 0) 0x1000000
     (Config.imageSigned image = true → exec (.flashImageCommit m) s =
       .next (answer { s with ident := { s.ident with nextSlot := slot } } CmdCode.flashImageCommit m Code.OK)) ∧
     (Config.imageSigned image = false → exec (.flashImageCommit m) s = .next (answer s CmdCode.flashImageCommit m Code.FLASH_IMAGE))))

/-- Guarded writes (R587, R588, R590, R594 to R597, R607): GUARD_ARM, GUARD_EXPIRE and COMPLEMENT_WRITE keep each requester's one armed value and
record every ignored write with its Cause; the complement of the armed value within 64 cycles takes FLASH_UNLOCK, FUSE_COMMIT and
ID_ROLE_WRITE to their effects, or to Cause 5 where a job context is open. A wrong complement ends the arming: the model's reading, log
entry 58.

REGISTER_WRITE, UNIMPLEMENTED_ACCESS, PWR_CAP_WRITE, EVT_STATUS_WRITE, WIDE_SEL_LO_WRITE and WIDE_FETCH_DONE (R580 to R582, R590, R592, R600, R601,
R603 to R605, R607): a write reaches its register, or its register's own row; a location with no register is recorded, a read of it aborts and a write of
it is reported; Off drops a write; a write-back of the newest event's number clears the event registers, and any other sends vector 0's
message again; a selection starts a fetch, whose end makes the words valid. -/
def Obligations.Registers : Prop :=
  (let ignored (s : State) (mule : Bool) (off cause : Nat) : State :=
     { s with regs := { s.regs with grdOffset := off, grdCause := cause, grdRequester := mule } }
   (∀ (mule : Bool) (off : Nat) (v : BitVec 32) (s : State),
     (s.guardServed off = false → exec (.guardArm mule off v) s = .next s) ∧
     (s.guardServed off = true →
       (s.armed mule = none → exec (.guardArm mule off v) s = .next (s.setArmed mule (some (off, v, s.now)))) ∧
       ∀ old w t, s.armed mule = some (old, w, t) →
         (s.now ≤ t + 256 → Answers (exec (.guardArm mule off v) s) ((ignored s mule old 4).setArmed mule (some (off, v, s.now)))) ∧
         (t + 256 < s.now → Answers (exec (.guardArm mule off v) s) ((ignored s mule old 1).setArmed mule (some (off, v, s.now)))))) ∧
   (∀ (mule : Bool) (s : State),
     (s.armed mule = none → exec (.guardExpire mule) s = .next s) ∧
     ∀ off w t, s.armed mule = some (off, w, t) →
       (s.now < t + 256 → exec (.guardExpire mule) s = .next s) ∧
       (t + 256 ≤ s.now → Answers (exec (.guardExpire mule) s) ((ignored s mule off 1).setArmed mule none))) ∧
   (∀ (mule : Bool) (off : Nat) (v : BitVec 32) (s : State), s.guardServed off = true →
     (s.armed mule = none → Answers (exec (.complementWrite mule (off + 4) v) s) (ignored s mule off 3)) ∧
     ∀ o w t, s.armed mule = some (o, w, t) → s.now ≤ t + 256 →
       (o ≠ off → Answers (exec (.complementWrite mule (off + 4) v) s) (ignored s mule off 3)) ∧
       (o = off → v ≠ ~~~w → Answers (exec (.complementWrite mule (off + 4) v) s) ((ignored s mule off 2).setArmed mule none)) ∧
       (o = off → v = ~~~w → exec (.complementWrite mule (off + 4) v) s = .next s)) ∧
   (∀ (mule : Bool) (off : Nat) (w v : BitVec 32) (t : Nat) (s : State), s.armed mule = some (off, w, t) → s.guardServed off = true →
     s.now ≤ t + 256 → v = ~~~w →
     let u := s.setArmed mule none
     let isOpen := s.jobs.j0.isOpen = true ∨ s.jobs.j1.isOpen = true
     (off = 0x4000 → exec (.flashUnlock mule v) s = .next { u with regs := { u.regs with flashUnlock := w.getLsbD 0 } }) ∧
     (off = 0x4008 → isOpen → Answers (exec (.fuseCommit mule v) s) (ignored u mule 0x4008 5)) ∧
     (off = 0x4008 → ¬ isOpen → Leaves (exec (.fuseCommit mule v) s) (fun t => ∃ fuses, t = { u with ident := { s.ident with fuses := fuses } } ∧
       ∀ f, f ∈ fuses ↔ f ∈ s.ident.fuses ∨ (w.getLsbD 0 = true ∧
         ∃ r ∈ liveOf s.log.activeSec, f = (r.2.unitClass, r.2.unitIndex, r.2.subIndex)))) ∧
     (off = 0x0020 → isOpen → Answers (exec (.idRoleWrite mule v) s) (ignored u mule 0x0020 5)) ∧
     (off = 0x0020 → ¬ isOpen → Leaves (exec (.idRoleWrite mule v) s) (fun t =>
       t.ident = { s.ident with roleNext := some (w.getLsbD 0, bits w.toNat 3 1), flashPending := true } ∧ t.mem = s.mem ∧ t.jobs = s.jobs))) ∧
   (∀ (mule : Bool) (off : Nat) (v : BitVec 32) (s : State), s.completes mule off v = false →
     (off = 0x4000 → exec (.flashUnlock mule v) s = .next s) ∧ (off = 0x4008 → exec (.fuseCommit mule v) s = .next s) ∧
       (off = 0x0020 → exec (.idRoleWrite mule v) s = .next s))) ∧
  (let accessed (s : State) (bar4 : Bool) (off cause : Nat) : State := { s with regs := { s.regs with
     accOffset := off, accBar4 := bar4, accCause := cause, accCount := min 0xFFFF (s.regs.accCount + 1) } }
   (∀ (off : Nat) (v : BitVec 32) (s : State),
     (s.regRaw off = none → exec (.registerWrite off v) s = exec (.unimplementedAccess
       { bar4 := false, off := off, isWrite := true, malformed := off % 4 != 0, mule := false }) s) ∧
     (off ∈ [0x0020, 0x1010, 0x2018, 0x4000, 0x4008] → exec (.registerWrite off v) s = exec (.guardArm false off v) s) ∧
     (s.sys.service ≠ .off →
       (off = 0x2010 → exec (.registerWrite off v) s = exec (.pwrCapWrite v) s) ∧
       (off = 0x3000 → exec (.registerWrite off v) s = exec (.evtStatusWrite v) s) ∧
       (off = 0x5000 → exec (.registerWrite off v) s = exec (.wideSelLoWrite v false) s) ∧
       (∀ q : Fin 17, q.val ≠ 0 → off = 0x10010 + 0x40 * q.val → exec (.registerWrite off v) s = exec (.mbxQctlWrite q v) s) ∧
       (off = 0x1004 → exec (.registerWrite off v) s = .next { s with regs := { s.regs with scratch := v } }) ∧
       (off = 0x3008 → exec (.registerWrite off v) s = .next { s with regs := { s.regs with evtIntEnable := v.getLsbD 0 } }) ∧
       (off = 0x5004 → exec (.registerWrite off v) s =
         .next { s with regs := { s.regs with wideSelHi := BitVec.ofNat 32 (bits v.toNat 25 0) } }) ∧
       (∀ k : Fin 8, off = 0x1020 + 4 * k.val → exec (.registerWrite off v) s =
         .next { s with regs := { s.regs with aperture := upd s.regs.aperture k (fun _ => BitVec.ofNat 12 v.toNat) } }) ∧
       (off < 0x1000 → off ∉ [0x0020, 0x0024] → (s.regRaw off).isSome = true → exec (.registerWrite off v) s = .next s)) ∧
     (s.sys.service = .off → off ∉ [0x0020, 0x0024, 0x1010, 0x1014, 0x2018, 0x201C, 0x4000, 0x4004, 0x4008, 0x400C] →
       (s.regRaw off).isSome = true → exec (.registerWrite off v) s = .next s) ∧
     ∃ t, exec (.registerWrite off v) s = .next t) ∧
   (∀ (a : BadAccess) (s : State),
     let there := if a.bar4 then isDoorbell a.off else (s.regRaw a.off).isSome
     let t := accessed s a.bar4 a.off (if a.malformed then 3 else if a.isWrite then 2 else 1)
     ((a.mule = true ∨ (there = true ∧ a.malformed = false)) → exec (.unimplementedAccess a) s = .next s) ∧
     (a.mule = false → (there = false ∨ a.malformed = true) →
       (a.isWrite = true → exec (.unimplementedAccess a) s =
         .next { t with regs := { t.regs with aerCa := true, errNonfatal := s.regs.errNonfatal + 1 } }) ∧
       (a.isWrite = false → exec (.unimplementedAccess a) s =
         .next { t with regs := { t.regs with lastRead := none, lastAbort := true, lastEp := false } }))) ∧
   (∀ (v : BitVec 32) (s : State), s.sys.service = .off → exec (.pwrCapWrite v) s = .next s) ∧
   (∀ (v : BitVec 32) (s : State),
     ((s.sys.service = .off ∨ s.regs.evtStatus = 0) → exec (.evtStatusWrite v) s = .next s) ∧
     (s.sys.service ≠ .off → s.regs.evtStatus ≠ 0 →
       (v = s.mbx.evt.seq → exec (.evtStatusWrite v) s = .next { s with regs := { s.regs with evtStatus := 0, evtSummary := 0 } }) ∧
       (v ≠ s.mbx.evt.seq → s.regs.evtIntEnable = true → exec (.evtStatusWrite v) s = .next (sendMsix s 0)) ∧
       (v ≠ s.mbx.evt.seq → s.regs.evtIntEnable = false → exec (.evtStatusWrite v) s = .next s))) ∧
   (∀ (v : BitVec 32) (parity : Bool) (s : State),
     let fetch (s : State) : State := { s with regs := { s.regs with
       wideSelLo := v, wideFetch := some (v, s.regs.wideSelHi), wideValid := false, wideError := false, wideData := Vector.replicate 4 0 } }
     (s.sys.service = .off → exec (.wideSelLoWrite v parity) s = .next s) ∧
     (s.sys.service ≠ .off → parity = false → exec (.wideSelLoWrite v parity) s = .next (fetch s)) ∧
     (s.sys.service ≠ .off → parity = true → Reports (exec (.wideSelLoWrite v parity) s) s ∧
       Leaves (exec (.wideSelLoWrite v parity) s) (fun t => t.regs.parityOffset = 0x5004 ∧ t.regs.wideSelLo = v ∧
         t.regs.wideFetch = some (v, s.regs.wideSelHi) ∧ t.regs.wideValid = false))) ∧
   ∀ s : State,
     (s.regs.wideFetch = none → exec .wideFetchDone s = .next s) ∧
     ∀ lo hi, s.regs.wideFetch = some (lo, hi) → ∃ data : Vector (BitVec 64) 4,
       exec .wideFetchDone s = .next { s with regs := { s.regs with
         wideFetch := none, wideValid := true, wideError := (s.wideWords lo.toNat hi.toNat).isNone, wideTag := bits lo.toNat 31 24,
         wideData := data } } ∧
       (s.wideWords lo.toNat hi.toNat = none → ∀ j, data.get j = 0) ∧
       ∀ ws, s.wideWords lo.toNat hi.toNat = some ws → ∀ j : Fin 4, data.get j = BitVec.ofNat 64 (ws.getD j.val 0))

/-- MBX_QCTL_WRITE (R590, R608 to R610): a ring is enabled with a size in its range and every base it uses set, both indices at 0 and the Phase at 1; a
size changes only while the ring is neither enabled nor active, any other change recorded with Cause 6; clearing Enable closes a queue,
the responses of its started commands discarded, and loses the event ring's later events. Clearing Enable is always accepted: log entry 59. -/
def Obligations.QueueControl : Prop :=
  let dropped (s : State) (off : Nat) : State := { s with regs := { s.regs with
    accOffset := off, accBar4 := false, accCause := 6, accCount := min 0xFFFF (s.regs.accCount + 1) } }
  (∀ (v : BitVec 32) (s : State), s.regRaw 0x10010 = none ∧ exec (.mbxQctlWrite 0 v) s = exec (.unimplementedAccess
    { bar4 := false, off := 0x10010, isWrite := true, malformed := false, mule := false }) s) ∧
  (∀ (ring : Fin 17) (v : BitVec 32) (s : State), ring.val ≠ 0 → s.sys.service = .off → exec (.mbxQctlWrite ring v) s = .next s) ∧
  (∀ (ring : Fin 17) (v : BitVec 32) (q : Fin 16) (s : State), ring.val = q.val → q.val ≠ 0 → s.sys.service ≠ .off →
    let off := 0x10000 + 0x40 * q.val + 0x10
    let k := s.mbx.queues.get q
    let en := v.getLsbD 0
    let size := bits v.toNat 5 1
    let fits := 4 ≤ size ∧ size ≤ 12 ∧ k.cmdBase ≠ 0 ∧ k.rspBase ≠ 0
    (k.enable = true → en = true → size = k.sizeLog2 → exec (.mbxQctlWrite ring v) s = .next s) ∧
    (k.enable = true → en = true → size ≠ k.sizeLog2 → exec (.mbxQctlWrite ring v) s = .next (dropped s off)) ∧
    (k.enable = true → en = false → Leaves (exec (.mbxQctlWrite ring v) s) (fun t =>
      (t.mbx.queues.get q).enable = false ∧ (t.mbx.queues.get q).isOpen = false ∧ (t.mbx.queues.get q).sizeLog2 = k.sizeLog2 ∧
        (∀ o, o ≠ q → t.mbx.queues.get o = s.mbx.queues.get o) ∧ (∀ w ∈ t.mbx.started, w.cmd.q = q → w.sess = false) ∧
        t.mbx.hostMem = s.mbx.hostMem ∧ (size ≠ k.sizeLog2 → t.regs.accCause = 6 ∧ t.regs.accOffset = off))) ∧
    (k.enable = false → (size ≠ k.sizeLog2 ∧ s.queueActive q = true ∨ en = true ∧ ¬ fits) →
      exec (.mbxQctlWrite ring v) s = .next (dropped s off)) ∧
    (k.enable = false → (size = k.sizeLog2 ∨ s.queueActive q = false) → en = true → fits → exec (.mbxQctlWrite ring v) s =
      .next (s.updQueue q (fun k => { ({} : MQueue) with cmdBase := k.cmdBase, rspBase := k.rspBase, sizeLog2 := size, enable := true,
                                                         lastMsi := k.lastMsi, heldLast := k.heldLast })) ∧
      ({} : MQueue).phase = true ∧ ({} : MQueue).fetchIdx = 0 ∧ ({} : MQueue).rspIdx = 0 ∧ ({} : MQueue).isOpen = false) ∧
    (k.enable = false → (size = k.sizeLog2 ∨ s.queueActive q = false) → en = false →
      exec (.mbxQctlWrite ring v) s = .next (s.updQueue q (fun k => { k with sizeLog2 := size })))) ∧
  ∀ (v : BitVec 32) (s : State), s.sys.service ≠ .off →
    let k := s.mbx.evt
    let en := v.getLsbD 0
    let size := bits v.toNat 5 1
    let put (f : EvtRing) : State := { s with mbx := { s.mbx with evt := f } }
    let fits := 6 ≤ size ∧ size ≤ 16 ∧ k.base ≠ 0
    (k.enable = true → en = true → size = k.sizeLog2 → exec (.mbxQctlWrite 16 v) s = .next s) ∧
    (k.enable = true → en = true → size ≠ k.sizeLog2 → exec (.mbxQctlWrite 16 v) s = .next (dropped s 0x10410)) ∧
    (k.enable = true → en = false → size = k.sizeLog2 → exec (.mbxQctlWrite 16 v) s = .next (put { k with enable := false })) ∧
    (k.enable = true → en = false → size ≠ k.sizeLog2 → exec (.mbxQctlWrite 16 v) s = .next (dropped (put { k with enable := false }) 0x10410)) ∧
    (k.enable = false → en = true → ¬ fits → exec (.mbxQctlWrite 16 v) s = .next (dropped s 0x10410)) ∧
    (k.enable = false → en = true → fits → exec (.mbxQctlWrite 16 v) s =
      .next (put { k with enable := true, sizeLog2 := size, writeIdx := 0, unread := 0, phase := true })) ∧
    (k.enable = false → en = false → exec (.mbxQctlWrite 16 v) s = .next (put { k with sizeLog2 := size }))

/-- PWR_CAP (R592): a write of a value in range leaves what pwr.cap.set with the same value leaves, its answer apart; a value outside
the range of 600 to 1,250 W changes no setting and is recorded with Cause 6. -/
def Obligations.PowerCapWrites : Prop :=
  ∀ (v : BitVec 32) (s : State), s.sys.service ≠ .off →
    let w := bits v.toNat 15 0
    let recorded : State := { s with regs := { s.regs with
      accOffset := 0x2010, accBar4 := false, accCause := 6, accCount := min 0xFFFF (s.regs.accCount + 1) } }
    (600 ≤ w → w ≤ 1250 → ∃ t, exec (.pwrCapWrite v) s = .next t ∧ exec (.registerWrite 0x2010 v) s = .next t ∧ t.power.cap = w ∧
      t = { s with power := { s.power with cap := w } } ∧
      ∀ m : MCmd, Starts specCapSet m s → fld m.payload 0 15 0 = w →
        exec (.pwrCapSet m) s = .next (answer t CmdCode.pwrCapSet m Code.OK)) ∧
    ((w < 600 ∨ 1250 < w) → exec (.pwrCapWrite v) s = .next recorded)

/-- POWER_GOOD, MULE_START, FOAL_ENTRY, HBM_TRAINING_DONE, SERVICE_FULL and MODULE_RESET (R477, R561 to R564, R587, R589, R644, R646): power good and a
module reset of Kind 1 leave no job, no object, no HBM contents and no open queue, and keep flash, the committed slot running; power good
starts time at 0 with the bank empty, and a reset keeps the time, the power stage and the PCIe side; the service then goes from Off through
Foal to full, channels that fail their training out of their list, and the Diag job closed.

INPUT_LOSS, INPUT_OVERVOLTAGE, CONVERTER_FAULT, THERMAL_TRIP, ORDERLY_OFF and ISLAND_STOP (R470, R593, R624, R625, R627, R632, R634, R646): a power-stage
fault is device-fatal, holds FAULT# low, and turns the stage off, as an orderly off of Action 1 does: jobs and HBM contents are gone, no commit
follows, every link is silent, and only the island runs on; when it stops, every output is at its resistor. -/
def Obligations.ServiceAndStageOffs : Prop :=
  (let emptied (s t : State) : Prop := t.pending = s.pending ∧ t.jobs.j0 = {} ∧ t.jobs.j1 = {} ∧ t.mem.mem = [] ∧ t.mem.objs = [] ∧
     t.mem.pages = [] ∧ (∀ q, t.mbx.queues.get q = {}) ∧ t.mbx.started = [] ∧ t.mbx.evt.enable = false ∧ t.mbx.hostMem = s.mbx.hostMem ∧
     t.sys.service = .off ∧ t.sys.hbmTrained = false ∧ t.sys.fatal = false ∧ t.ident.flash = s.ident.flash ∧ t.ident.fwSlot = s.ident.nextSlot ∧
     t.log.ring = s.log.ring ∧ t.log.lastSeq = s.log.lastSeq ∧ t.regs.evtStatus = 0 ∧ t.regs.flashUnlock = false ∧ t.power.cap = 1250 ∧
     (∀ c, (t.clusters.get c).absent = ((s.clusters.get c).absent || [2, 3, 4, 5].any (fun k => s.ident.hasFuse k c.val 0))) ∧
     (∀ ch, (t.mem.chans.get ch).privileged = false)
   (∀ (st : Straps) (s : State), Leaves (exec (.powerGood st) s) (fun t => emptied s t ∧ t.now = 0 ∧ t.sys.muleUp = false ∧ t.sys.resetAt = 0 ∧
     t.power.bankMj = 0 ∧ t.pins.beatSrc = st.beatSrc ∧ t.pins.mgmtAddr = st.mgmtAddr.toNat ∧ t.pins.perst = s.pins.perst)) ∧
   (∀ (mule : Bool) (w v : BitVec 32) (at_ : Nat) (st : Straps) (s : State), s.armed mule = some (0x1010, w, at_) → s.guardServed 0x1010 = true →
     s.now ≤ at_ + 256 → v = ~~~w →
     (bits w.toNat 3 0 ≠ 1 → Answers (exec (.moduleReset mule v st) s) { s.setArmed mule none with
       regs := { (s.setArmed mule none).regs with grdOffset := 0x1010, grdCause := 5, grdRequester := mule } }) ∧
     (bits w.toNat 3 0 = 1 → Leaves (exec (.moduleReset mule v st) s) (fun t => emptied s t ∧ t.now = s.now ∧ t.sys.muleUp = true ∧
       t.sys.resetAt = s.now ∧ t.power.state = s.power.state ∧ t.power.bankMj = s.power.bankMj ∧ t.pins.perst = s.pins.perst ∧
       t.regs.aerCa = s.regs.aerCa ∧ t.regs.scratch = 0))) ∧
   (∀ (mule : Bool) (v : BitVec 32) (st : Straps) (s : State), s.completes mule 0x1010 v = false → exec (.moduleReset mule v st) s = .next s) ∧
   (∀ s : State,
     let on := s.power.state = .on
     (on → s.sys.muleUp = false → exec .muleStart s = .next { s with sys := { s.sys with muleUp := true } }) ∧
     ((¬ on ∨ s.sys.muleUp = true) → exec .muleStart s = .next s) ∧
     (on → s.sys.muleUp = true → s.sys.service = .off → exec .foalEntry s = .next { s with sys := { s.sys with service := .foal } }) ∧
     ((¬ on ∨ s.sys.muleUp = false ∨ s.sys.service ≠ .off) → exec .foalEntry s = .next s)) ∧
   (∀ (failed : List Chan) (s : State),
     ((s.sys.service ≠ .foal ∨ s.sys.hbmTrained = true) → exec (.hbmTrainingDone failed) s = .next s) ∧
     (s.sys.service = .foal → s.sys.hbmTrained = false → Leaves (exec (.hbmTrainingDone failed) s) (fun t =>
       t.sys = { s.sys with hbmTrained := true } ∧ t.mem.mem = s.mem.mem ∧ t.jobs = s.jobs ∧
         ∀ ch, t.mem.chans.get ch = if ch ∈ failed then { s.mem.chans.get ch with fenced := true, listed := false } else s.mem.chans.get ch))) ∧
   ∀ (failed : List UnitId) (s : State),
     ((s.sys.service ≠ .foal ∨ s.sys.hbmTrained = false) → exec (.serviceFull failed) s = .next s) ∧
     (s.sys.service = .foal → s.sys.hbmTrained = true → Leaves (exec (.serviceFull failed) s) (fun t =>
       t.sys.service = .full ∧ t.sys.fabricReady = true ∧ t.now = s.now ∧
         (failed = [] → t.mem.mem = s.mem.mem ∧ t.jobs.j1 = s.jobs.j1 ∧
           t.jobs.j0 = (if s.jobs.j0.isOpen = true ∧ s.jobs.j0.diag = true then {} else s.jobs.j0))))) ∧
  (let off (s t : State) : Prop := t.power.state = .island ∧ t.jobs.j0 = {} ∧ t.jobs.j1 = {} ∧ t.mem.mem = [] ∧ t.mem.objs = [] ∧
     t.goose.stopCommits = true ∧ t.pins.faultLow = true ∧ t.now = s.now ∧ t.mbx.hostMem = s.mbx.hostMem ∧
     (∀ q, t.mbx.queues.get q = {}) ∧ (∀ p, (t.fab.ports.get p).link = .disabled) ∧ t.pins.perst = s.pins.perst
   (∀ s : State,
     let faults (o : Host.Outcome State Fault Refusal) : Prop := Leaves o (fun t => off s t ∧ t.power.stageFault = true ∧ t.sys.service = .fatal ∧
       t.sys.fatal = true ∧ t.ident.flash = s.ident.flash)
     (s.power.state = .on → faults (exec .inputLoss s) ∧ faults (exec .inputOvervoltage s) ∧ faults (exec .converterFault s) ∧
       ∀ n, s.sensorUp n = true → faults (exec (.thermalTrip n) s) ∧ Leaves (exec (.thermalTrip n) s) (fun t => t.pins.thermTripLow = true)) ∧
     (s.power.state ≠ .on → exec .inputLoss s = .next s ∧ exec .inputOvervoltage s = .next s ∧ exec .converterFault s = .next s ∧
       ∀ n, exec (.thermalTrip n) s = .next s) ∧
     (∀ n, s.sensorUp n = false → exec (.thermalTrip n) s = .next s) ∧
     (s.power.state ≠ .island → exec .islandStop s = .next s) ∧
     (s.power.state = .island → Leaves (exec .islandStop s) (fun t => t.power.state = .dead ∧ t.sys.muleUp = false ∧ t.faultPin = false ∧
       t.thermPin = false ∧ t.alertPin = false ∧ t.readyPin = none ∧ t.beatOutPin = none ∧ t.ident = s.ident ∧ t.log.ring = s.log.ring))) ∧
   (∀ (mule : Bool) (w v : BitVec 32) (at_ : Nat) (s : State), s.armed mule = some (0x2018, w, at_) → s.guardServed 0x2018 = true →
     s.now ≤ at_ + 256 → v = ~~~w →
     (bits w.toNat 1 0 ≠ 1 → Answers (exec (.orderlyOff mule v) s) { s.setArmed mule none with
       regs := { (s.setArmed mule none).regs with grdOffset := 0x2018, grdCause := 5, grdRequester := mule } }) ∧
     (bits w.toNat 1 0 = 1 → Leaves (exec (.orderlyOff mule v) s) (off s))) ∧
   ∀ (mule : Bool) (v : BitVec 32) (s : State), s.completes mule 0x2018 v = false → exec (.orderlyOff mule v) s = .next s)

/-- POWER_MANAGER_TICK, THERMAL_LIMIT_TICK, HOLDUP_SAMPLE and TELEMETRY_SAMPLE (R478, R524, R591, R619, R621, R622, R627, R629): a run of intervals above the cap is followed, and the
load held down after it until the bank is full; the thermal limit moves by 10 W within 300 to 1,250 W; the bank's energy is ½ × 5 mF × (V² −
28²); a sample is taken over, unless the device is frozen.

PERST_ASSERT, PERST_DEASSERT, FREEZE_IN and JTAG_INSTRUCTION (R523, R560, R637, R643, R645, R646): PERST# closes the host queues and keeps memory and jobs;
its release is timed and ends EXTEST, CLAMP and HIGHZ, which execute as BYPASS without it; an edge of 20 ns freezes the device. -/
def Obligations.PowerAndPins : Prop :=
  ((∀ (p10 withhold : Nat) (s : State),
     let p := s.power
     let above := min p.cap p.thermalLimit < p10
     (p.state ≠ .on → ∀ parity, exec (.powerManagerTick p10 withhold parity) s = .next s) ∧
     (p.state = .on → Leaves (exec (.powerManagerTick p10 withhold false) s) (fun t =>
       t.power.overRun = (if above then p.overRun + 1 else 0) ∧ t.power.transients = p.transients + (if above ∧ p.overRun = 0 then 1 else 0) ∧
         t.power.recharging = decide ((p.recharging = true ∨ (p.overRun ≠ 0 ∧ ¬ above)) ∧ p.bankMj < 4800) ∧
         t.power.throttling = decide (withhold ≠ 0) ∧ t.power.cap = p.cap ∧ t.mem = s.mem ∧ t.jobs = s.jobs)) ∧
     (p.state = .on → Leaves (exec (.powerManagerTick p10 withhold true) s) (fun t => t.regs.parityOffset = 0x2010 ∧ t.power.cap = p.cap ∧
       t.power.throttling = decide (withhold ≠ 0) ∧ t.mem = s.mem ∧ t.jobs = s.jobs))) ∧
   (∀ s : State,
     let l := s.power.thermalLimit
     let hot := ∃ r ∈ s.sensors, r.2 < r.1
     let cool := ∀ r ∈ s.sensors, r.1 + 3 ≤ r.2
     let sets (n : Nat) : Prop := exec .thermalLimitTick s = .next { s with power := { s.power with thermalLimit := n } }
     (¬ (s.power.state = .on ∧ s.sys.muleUp = true) → exec .thermalLimitTick s = .next s) ∧
     (s.power.state = .on → s.sys.muleUp = true →
       (hot → sets (max 300 (l - 10))) ∧ (cool → sets (min 1250 (l + 10))) ∧ (¬ hot → ¬ cool → sets l))) ∧
   (∀ (mv : Nat) (s : State),
     let up := s.sys.muleUp = true ∧ (s.power.state = .on ∨ s.power.state = .island)
     let e := (mv * mv - 28000 * 28000) / 400000
     (¬ up → exec (.holdupSample mv) s = .next s) ∧
     (up → (s.power.state = .island ∨ s.power.flashBusy = true) → exec (.holdupSample mv) s =
       .next { s with power := { s.power with bankMv := mv, bankMj := e, holdupSampled := true } }) ∧
     (up → Leaves (exec (.holdupSample mv) s) (fun t => t.power.bankMv = mv ∧ t.power.bankMj = e ∧ t.power.holdupSampled = true ∧
       t.mem = s.mem ∧ t.ident = s.ident ∧
       (s.power.state = .on → 1200 ≤ e → (∃ k ∈ s.mbx.started, k.isFlash = true) ∨ s.ident.flashPending = true → t.power.flashBusy = true)))) ∧
   ∀ (d : Telemetry) (s : State),
     let live := s.obs.frozen = false ∧ s.power.state = .on ∧ s.sys.muleUp = true
     (¬ live → exec (.telemetrySample d) s = .next s) ∧
     (live → Leaves (exec (.telemetrySample d) s) (fun t => ∃ h : Vector Nat 8, t = { s with power := { s.power with
         volts := d.volts, amps := d.amps, watts := d.watts, loadW := d.loadW, dieTemp := d.die, stageTemp := d.stage, hbmTemp := h,
         energyMj := d.energyMj } } ∧ ∀ i : Fin 8, h.get i = if i.val ∈ s.stacksUp then d.hbm.get i else 0))) ∧
  ((∀ s : State,
     (s.power.state = .on → ∃ mbx, exec .perstAssert s = .next { s with pins := { s.pins with perst := true, perstAt := none }, mbx := mbx } ∧
       (∀ q : Fin 16, q.val ≠ 0 → (mbx.queues.get q).enable = false ∧ (mbx.queues.get q).isOpen = false) ∧ mbx.evt.enable = false) ∧
     (s.power.state ≠ .on → exec .perstAssert s = .next { s with pins := { s.pins with perst := true, perstAt := none } }) ∧
     (s.pins.perst = false → exec .perstDeassert s = .next s) ∧
     (s.pins.perst = true → exec .perstDeassert s = .next { s with pins := { s.pins with
       perst := false, perstAt := some s.now, jtag := if 3 ≤ s.pins.jtag then 0 else s.pins.jtag } })) ∧
   (∀ (ns : Nat) (s : State),
     ((ns < 20 ∨ s.power.state ≠ .on) → exec (.freezeIn ns) s = .next s) ∧
     (20 ≤ ns → s.power.state = .on → Leaves (exec (.freezeIn ns) s) (fun t => t.obs.frozen = true ∧ t.jobs = s.jobs ∧ t.mem = s.mem ∧
       (s.obs.frozen = true → t.obs.snap = s.obs.snap) ∧
       (s.obs.frozen = false → ∃ p, t.obs.snap = some p ∧ p.cause = 1 ∧ p.frozen = true ∧ p.latchTs = s.now ∧ p.counters = s.obs.counters)))) ∧
   ∀ (i : JtagInstr) (s : State),
     let set (s : State) (k : Nat) (d : BitVec 32) : State := { s with pins := { s.pins with jtag := k, jtagData := d } }
     ((i = .bypass ∨ ((i = .extest ∨ i = .clamp ∨ i = .highz) ∧ s.pins.perst = false)) → exec (.jtagInstruction i) s = .next (set s 0 0)) ∧
     (i = .idcode → ∃ d : BitVec 32, exec (.jtagInstruction i) s = .next (set s 1 d) ∧ d.getLsbD 0 = true ∧ bits d.toNat 27 12 = 0x9A01 ∧
       bits d.toNat 31 28 = 1) ∧
     (i = .clamp → s.pins.perst = true → exec (.jtagInstruction i) s = .next (set s 4 0)) ∧
     (i = .highz → s.pins.perst = true → exec (.jtagInstruction i) s = .next (set s 5 0)) ∧
     ((i = .sample ∨ (i = .extest ∧ s.pins.perst = true)) → exec (.jtagInstruction i) s =
       .next (set { s with free := s.free + 1 } (if i = .sample then 2 else 3) (Config.freeWord s.free))))

/-- The management port's rows (R538, R548, R639 to R641): a transaction is not acknowledged, and changes nothing else, before the port answers or with a bad PEC; a
command runs as a Q0 command while none is in progress and no response waits; a response is read once; output is read from an offset;
the status byte and the I3C address are as the port gives them. With no response waiting the bytes read are free (log entry 63).

FF2_RESPONSE and FLASH_OP_DONE (R325, R327, R328, R357, R578, R622, R623): a lease granted has every byte of the range asked for, a refused one frees the
working range with F2_BUSY, data land in the working range, an acknowledged frame is no longer awaited, and a released lease removes the
object; a flash operation's end does what its command asked, answers it, and lets the next one start. -/
def Obligations.PortPoolAndFlash : Prop :=
  (let took (s : State) (ack : Bool) (d : List Byte) : State := { s with pins := { s.pins with mgmtAck := ack, mgmtData := d } }
   (∀ (pec : Bool) (e : List Byte) (answers : List Nat) (off : BitVec 32) (a : BitVec 7) (s : State),
     let deaf := (s.mgmtUp = false ∨ (pec = false ∧ s.pins.dynAddr = none))
     (deaf → exec (.mgmtCommandWrite pec e answers) s = .next (took s false []) ∧ exec (.mgmtResponseRead pec) s = .next (took s false []) ∧
       exec (.mgmtOutputRead pec off) s = .next (took s false [])) ∧
     (s.mgmtUp = false → exec .mgmtStatusRead s = .next (took s false []) ∧ exec (.mgmtAddressAssign a) s = .next (took s false [])) ∧
     (¬ deaf →
       exec (.mgmtOutputRead pec off) s = .next (took s true ((s.mbx.q0Out.drop off.toNat).take 240)) ∧
       (∀ r, s.mbx.q0Resp = some r → exec (.mgmtResponseRead pec) s =
         .next { took s true r with mbx := { s.mbx with q0Resp := none } }) ∧
       (s.mbx.q0Resp = none → exec (.mgmtResponseRead pec) s =
         .next { took s true ((List.range 32).map (fun i => Config.freeByte (s.free + i))) with free := s.free + 32 }) ∧
       (e.length ≠ 64 → exec (.mgmtCommandWrite pec e answers) s = .next (took s false [])) ∧
       (e.length = 64 → (s.mbx.q0Busy = true ∨ s.mbx.q0Resp.isSome = true) →
         Answers (exec (.mgmtCommandWrite pec e answers) s) (took s false [])) ∧
       (e.length = 64 → s.mbx.q0Busy = false → s.mbx.q0Resp = none → bit (fld e 0 32 32) 0 = false → u64At e 0x10 = 0 → entryErr e = 0 →
         let m : MCmd := { q := 0, tag := BitVec.ofNat 16 (fld e 0 31 16), ctx := BitVec.ofNat 2 (fld e 0 35 34), barrier := bit (fld e 0 33 33) 0,
                           payload := (slice e 0x18 40).take (fld e 8 31 0), outLen := 4096, outAddr := 0, answers := answers }
         ∀ sp i, (sp, i) ∈ commands m → sp.code = fld e 0 15 0 →
           (sp.code ∈ [CmdCode.idRead, CmdCode.idCapRead, CmdCode.pwrStatus, CmdCode.faultCperRead] →
             exec (.mgmtCommandWrite pec e answers) s = exec i (took s true [])) ∧
           (sp.code ∉ [CmdCode.idRead, CmdCode.idCapRead, CmdCode.pwrStatus, CmdCode.faultCperRead] →
             exec (.mgmtCommandWrite pec e answers) s = .next (answer (took s true []) sp.code m Code.BAD_CODE)))) ∧
     (s.mgmtUp = true →
       exec .mgmtStatusRead s = .next (took s true [BitVec.ofNat 8 (b2n s.mbx.q0Busy + place (b2n s.mbx.q0Resp.isSome) 1 +
         place (b2n (!s.log.collector.isEmpty)) 2 + place (b2n (s.sys.service = .foal)) 3)]) ∧
       exec (.mgmtAddressAssign a) s = .next { s with pins := { s.pins with mgmtAck := true, mgmtData := [], dynAddr := some a.toNat } })) ∧
   ∀ (pec : Bool) (e : List Byte) (answers : List Nat) (s : State), ∃ t, exec (.mgmtCommandWrite pec e answers) s = .next t) ∧
  ((∀ (p : Port) (s : State) (k : F2Obj), s.f2Port (devOf k.pool) = some p → s.mem.f2.find? (fun q => q.pool = k.pool) = some k →
     (k.leased = false →
       Leaves (exec (.ff2Response p (.leaseGrant k.pool)) s) (fun t => t.mem = s.mem ∧ t.fab.ff2Sent = s.fab.ff2Sent ++
         (List.range (cdiv k.size 8192)).map (fun i => (p.val, 2, k.pool + 8192 * i))) ∧
       Leaves (exec (.ff2Response p (.leaseRefuse k.pool)) s) (fun t => (∀ q ∈ t.mem.f2, q.pool ≠ k.pool) ∧ t.mem.mem = s.mem.mem ∧
         (∀ b, k.work ≤ b → b < k.work + k.size → t.pageOf b = none)) ∧
       ∀ off bytes, s.memOk → off + bytes.length ≤ k.size → k.copied + bytes.length < k.size →
         Leaves (exec (.ff2Response p (.data k.pool off bytes)) s) (fun t => t.rd (k.work + off) bytes.length = bytes ∧
           (∀ b, b < k.work + off ∨ k.work + off + bytes.length ≤ b → t.byte b = s.byte b) ∧ t.mem.objs = s.mem.objs)) ∧
     (∀ frame, k.flushing = true → frame ∈ k.unacked → k.unacked.erase frame ≠ [] →
       exec (.ff2Response p (.ack k.pool frame)) s = .next (s.updF2 k.pool (fun k => { k with unacked := k.unacked.erase frame }))) ∧
     (k.closing = true → Leaves (exec (.ff2Response p (.released k.pool)) s) (fun t => (∀ q ∈ t.mem.f2, q.pool ≠ k.pool) ∧
       (∀ o ∈ t.mem.objs, o.handle ≠ k.handle) ∧ (∀ b, k.work ≤ b → b < k.work + k.size → t.pageOf b = none) ∧ t.mem.mem = s.mem.mem))) ∧
   (∀ (p : Port) (s : State) (pool : Nat), s.f2Port (devOf pool) ≠ some p → exec (.ff2Response p (.leaseGrant pool)) s = .next s) ∧
   (∀ (ok : Bool) (s : State), s.power.flashBusy = false → exec (.flashOpDone ok) s = .next s) ∧
   (∀ (ok : Bool) (s : State) (k : Started), s.power.flashBusy = true → s.power.flashIdent = false →
     s.mbx.started = [k] → s.ident.flashPending = false →
     let p := k.cmd.payload
     let ended (st : Nat) (P : State → Prop) : Prop := Leaves (exec (.flashOpDone ok) s) (fun t => t.power.flashBusy = false ∧ t.mbx.started = [] ∧
       t.mem = s.mem ∧ P t ∧ (k.sess = true → k.cmd.q.val ≠ 0 → Mem.wf 0 s.mbx.hostMem = true →
         Mem.read 0 t.mbx.hostMem ((s.mbx.queues.get k.cmd.q).rspBase.toNat + 32 * (s.mbx.queues.get k.cmd.q).rspIdx) 32 =
           respBytes k.code k.cmd.tag st k.cmd.q.val (s.mbx.queues.get k.cmd.q).phase 0 k.result0 k.result1))
     (k.code = CmdCode.flashErase → s.memOk → ended Code.OK (fun t => ∀ b, Mem.get 0xFF t.ident.flash b =
       if u64At p 0 ≤ b ∧ b < u64At p 0 + 0x10000 * u64At p 8 then 0xFF else Mem.get 0xFF s.ident.flash b)) ∧
     (k.code = CmdCode.flashWrite → ok = true → s.memOk →
       (∀ i < p.length - 8, Mem.get 0xFF s.ident.flash (u64At p 0 + i) = 0xFF) → ended Code.OK (fun t =>
         Mem.read 0xFF t.ident.flash (u64At p 0) (p.length - 8) = p.drop 8)) ∧
     (k.code = CmdCode.flashWrite → ok = false → ended Code.FLASH_VERIFY (fun t => ∀ b,
       b < u64At p 0 ∨ u64At p 0 + (p.length - 8) ≤ b → s.memOk → Mem.get 0xFF t.ident.flash b = Mem.get 0xFF s.ident.flash b))) ∧
   (∀ (ok : Bool) (s : State), s.power.flashBusy = true → s.power.flashIdent = true → s.mbx.started = [] →
     exec (.flashOpDone ok) s = .next { s with
       power := { s.power with flashBusy := false, flashIdent := false },
       ident := { (match s.ident.roleNext with
         | some r => { s.ident with spare := r.1, spareAxis := r.2, roleNext := none }
         | none => s.ident) with flashPending := false, inFlash := none } }))

/-- The withheld cycles (R620): of n cycles every cluster in service withholds n ÷ k whole cycles, k of them being in service, and the first n mod k
clusters in ascending number after the one that took the last remainder one more; each counts its own in PWR_THROTTLE; no value
computed anywhere changes. -/
def Obligations.WithheldCycles : Prop :=
  ∀ (p10 n : Nat) (s : State), s.power.state = .on → s.calm →
    Leaves (exec (.powerManagerTick p10 n false) s) (fun t =>
      let up := s.clustersUp.map (·.val)
      let count (u : State) (c : Nat) : Nat := (getCount u.obs.counters { code := Cnt.PWR_THROTTLE, unit := c }).toNat
      let after := up.filter (fun c => s.power.lastRemainder < c) ++ up.filter (fun c => c ≤ s.power.lastRemainder)
      let extra := after.take (n % up.length)
      (∀ c ∈ up, count t c = (count s c + n / up.length + (if c ∈ extra then 1 else 0)) % 2 ^ 64) ∧ (∀ c, c ∉ up → count t c = count s c) ∧
        t.power.lastRemainder = extra.getLastD s.power.lastRemainder ∧
        t.clusters = s.clusters ∧ t.mem = s.mem ∧ t.jobs = s.jobs)
end

