-- ==== Sys2Proof/Laws/Cells.lean ====
section
/-! SUPPORT. Laws of byte memories: what a write leaves, and that every operation keeps the canonical form. -/

namespace Sys2Proof

/-! ## Vectors and the two contexts -/

@[simp] theorem upd_get_self {α : Type} {n : Nat} (v : Vector α n) (i : Fin n) (f : α → α) : (upd v i f).get i = f (v.get i) := by
  show (v.set i.val (f (v.get i)) i.isLt)[i.val] = f (v.get i)
  simp

theorem upd_get_ne {α : Type} {n : Nat} (v : Vector α n) (i j : Fin n) (f : α → α) (h : j ≠ i) : (upd v i f).get j = v.get j := by
  have h' : i.val ≠ j.val := fun e => h (Fin.ext e.symm)
  show (v.set i.val (f (v.get i)) i.isLt)[j.val] = v[j.val]
  simp [h']

theorem upd_get {α : Type} {n : Nat} (v : Vector α n) (i j : Fin n) (f : α → α) :
    (upd v i f).get j = if j = i then f (v.get j) else v.get j := by
  by_cases h : j = i
  · subst h; simp
  · simp [upd_get_ne _ _ _ _ h, h]

theorem upd_upd {α : Type} {n : Nat} (v : Vector α n) (i : Fin n) (f g : α → α) : upd (upd v i f) i g = upd v i (fun a => g (f a)) := by
  apply Vector.ext
  intro j hj
  show ((v.set i.val _ i.isLt).set i.val _ i.isLt)[j] = (v.set i.val _ i.isLt)[j]
  rw [upd_get_self]
  simp only [Vector.getElem_set]
  split <;> rfl

theorem upd_const {α : Type} {n : Nat} (v : Vector α n) (i : Fin n) (f : α → α) : upd v i f = upd v i (fun _ => f (v.get i)) := rfl

theorem upd_id {α : Type} {n : Nat} (v : Vector α n) (i : Fin n) : upd v i (fun a => a) = v := by
  apply Vector.ext
  intro j hj
  show (v.set i.val (v.get i) i.isLt)[j] = v[j]
  rw [Vector.getElem_set]
  split
  · next h => subst h; rfl
  · rfl

theorem upd_congr {α : Type} {n : Nat} (v : Vector α n) (i : Fin n) (f g : α → α) (h : f (v.get i) = g (v.get i)) : upd v i f = upd v i g := by
  unfold upd; rw [h]

@[simp] theorem PerCtx.get_set_self {α : Type} (p : PerCtx α) (x : Ctx) (a : α) : (p.set x a).get x = a := by cases x <;> rfl

theorem PerCtx.get_set_ne {α : Type} (p : PerCtx α) (x y : Ctx) (a : α) (h : y ≠ x) : (p.set x a).get y = p.get y := by
  cases x <;> cases y <;> first | rfl | exact absurd rfl h

/-! ## Reading after writing -/

theorem Mem.get_set_self (d : Byte) (m : Mem) (x : Nat) (v : Byte) (h : Mem.wf d m = true) : Mem.get d (Mem.set d m x v) x = v := by
  have key : ∀ (m : Mem) (lo : Option Nat), Mem.wfAbove d lo m = true → Mem.get d (Mem.set d m x v) x = v := by
    intro m
    induction m with
    | nil => intro lo _; simp only [Mem.set]; split <;> simp_all [Mem.get]
    | cons p m ih =>
      intro lo hw
      obtain ⟨a, b⟩ := p
      simp only [Mem.wfAbove, Bool.and_eq_true] at hw
      simp only [Mem.set]
      by_cases h1 : x = a
      · subst h1
        by_cases h2 : v = d
        · subst h2
          simp only [if_true]
          cases m with
          | nil => rfl
          | cons q m =>
            obtain ⟨c, e⟩ := q
            simp only [Mem.wfAbove, Bool.and_eq_true, decide_eq_true_eq] at hw
            have : x < c := hw.2.1.1
            simp [Mem.get, Nat.ne_of_lt this, this]
        · simp [h2, Mem.get]
      · by_cases h2 : x < a
        · by_cases h3 : v = d
          · simp [h1, h2, h3, Mem.get]
          · simp [h1, h2, h3, Mem.get]
        · simp [h1, h2, Mem.get]
          exact ih (some a) hw.2
  exact key m none h

theorem Mem.get_above (d : Byte) (m : Mem) (a y : Nat) (hw : Mem.wfAbove d (some a) m = true) (hy : y ≤ a) : Mem.get d m y = d := by
  cases m with
  | nil => rfl
  | cons p m =>
    obtain ⟨c, e⟩ := p
    simp only [Mem.wfAbove, Bool.and_eq_true, decide_eq_true_eq] at hw
    have : a < c := hw.1.1
    have h1 : y ≠ c := by omega
    have h2 : y < c := by omega
    simp [Mem.get, h1, h2]

theorem Mem.get_set_ne (d : Byte) (m : Mem) (x y : Nat) (v : Byte) (h : Mem.wf d m = true) (hxy : y ≠ x) :
    Mem.get d (Mem.set d m x v) y = Mem.get d m y := by
  have key : ∀ (m : Mem) (lo : Option Nat), Mem.wfAbove d lo m = true → Mem.get d (Mem.set d m x v) y = Mem.get d m y := by
    intro m
    induction m with
    | nil => intro lo _; simp only [Mem.set]; split <;> simp [Mem.get, hxy]
    | cons p m ih =>
      intro lo hw
      obtain ⟨a, b⟩ := p
      simp only [Mem.wfAbove, Bool.and_eq_true] at hw
      simp only [Mem.set]
      by_cases h1 : x = a
      · subst h1
        by_cases h2 : v = d
        · simp only [h2, if_true]
          by_cases h3 : y < x
          · simp [Mem.get, hxy, h3, Mem.get_above d m x y hw.2 (by omega)]
          · simp [Mem.get, hxy, h3]
        · simp [h2, Mem.get, hxy]
      · by_cases h2 : x < a
        · by_cases h3 : v = d
          · simp [h1, h2, h3]
          · simp only [h1, h2, h3, if_true, if_false]
            by_cases h4 : y < x
            · have : y ≠ a := by omega
              have h5 : y < a := by omega
              simp [Mem.get, hxy, h4, this, h5]
            · simp [Mem.get, hxy, h4]
        · simp only [h1, h2, if_false, Mem.get]
          rw [ih (some a) hw.2]
  exact key m none h

/-! ## The canonical form -/

theorem Mem.wfAbove_set (d : Byte) (x : Nat) (v : Byte) : ∀ (m : Mem) (lo : Option Nat),
    Mem.wfAbove d lo m = true → (∀ l, lo = some l → l < x) → Mem.wfAbove d lo (Mem.set d m x v) = true := by
  intro m
  induction m with
  | nil =>
    intro lo _ hl
    simp only [Mem.set]
    split
    · rfl
    · rename_i hv
      cases lo with
      | none => simp [Mem.wfAbove, hv]
      | some l => simp [Mem.wfAbove, hv, hl l rfl]
  | cons p m ih =>
    intro lo hw hl
    obtain ⟨a, b⟩ := p
    have hw' := hw
    simp only [Mem.wfAbove, Bool.and_eq_true] at hw
    simp only [Mem.set]
    by_cases h1 : x = a
    · subst h1
      by_cases h2 : v = d
      · simp only [h2, if_true]
        cases m with
        | nil => rfl
        | cons q m =>
          obtain ⟨c, e⟩ := q
          simp only [Mem.wfAbove, Bool.and_eq_true, decide_eq_true_eq] at hw ⊢
          refine ⟨⟨?_, hw.2.1.2⟩, hw.2.2⟩
          cases lo with
          | none => rfl
          | some l => have := hl l rfl; have := hw.2.1.1; simp; omega
      · simp only [h2, if_false, if_true, Mem.wfAbove, Bool.and_eq_true]
        exact ⟨⟨hw.1.1, by simpa using h2⟩, hw.2⟩
    · by_cases h2 : x < a
      · by_cases h3 : v = d
        · simpa [h1, h2, h3] using hw'
        · simp only [h1, h2, h3, if_true, if_false, Mem.wfAbove, Bool.and_eq_true]
          refine ⟨⟨?_, by simpa using h3⟩, ⟨by simp [h2], hw.1.2⟩, hw.2⟩
          cases lo with
          | none => rfl
          | some l => simpa using hl l rfl
      · simp only [h1, h2, if_false, Mem.wfAbove, Bool.and_eq_true]
        refine ⟨hw.1, ih (some a) hw.2 ?_⟩
        intro l hl'
        cases hl'
        omega

/-- Writing one byte keeps the canonical form. -/
theorem Mem.wf_set (d : Byte) (m : Mem) (x : Nat) (v : Byte) (h : Mem.wf d m = true) : Mem.wf d (Mem.set d m x v) = true :=
  Mem.wfAbove_set d x v m none h (fun _ hl => by cases hl)

/-- Writing bytes keeps it. -/
theorem Mem.wf_write (d : Byte) (bs : List Byte) : ∀ (m : Mem) (a : Nat), Mem.wf d m = true → Mem.wf d (Mem.write d m a bs) = true := by
  induction bs with
  | nil => intro m a h; exact h
  | cons b bs ih => intro m a h; exact ih _ _ (Mem.wf_set d m a b h)

theorem Mem.wfAbove_weaken (d : Byte) (m : Mem) (l l' : Nat) (h : Mem.wfAbove d (some l) m = true) (hl : l' ≤ l) :
    Mem.wfAbove d (some l') m = true := by
  cases m with
  | nil => rfl
  | cons p m =>
    obtain ⟨a, b⟩ := p
    simp only [Mem.wfAbove, Bool.and_eq_true, decide_eq_true_eq] at h ⊢
    exact ⟨⟨by omega, h.1.2⟩, h.2⟩

theorem Mem.wfAbove_none (d : Byte) (m : Mem) (lo : Option Nat) (h : Mem.wfAbove d lo m = true) : Mem.wfAbove d none m = true := by
  cases m with
  | nil => rfl
  | cons p m =>
    obtain ⟨a, b⟩ := p
    simp only [Mem.wfAbove, Bool.and_eq_true] at h ⊢
    exact ⟨⟨trivial, h.1.2⟩, h.2⟩

theorem Mem.wfAbove_filter (d : Byte) (f : Host.Cell → Bool) : ∀ (m : Mem) (lo : Option Nat),
    Mem.wfAbove d lo m = true → Mem.wfAbove d lo (m.filter f) = true := by
  intro m
  induction m with
  | nil => intro lo h; exact h
  | cons p m ih =>
    intro lo h
    obtain ⟨a, b⟩ := p
    simp only [Mem.wfAbove, Bool.and_eq_true] at h
    simp only [List.filter]
    split
    · simp only [Mem.wfAbove, Bool.and_eq_true]; exact ⟨h.1, ih _ h.2⟩
    · have := ih _ h.2
      cases lo with
      | none => exact Mem.wfAbove_none d _ _ this
      | some l =>
        have hl : l < a := by simpa using h.1.1
        exact Mem.wfAbove_weaken d _ a l this (by omega)

/-- Clearing a range keeps it. -/
theorem Mem.wf_clear (d : Byte) (m : Mem) (a n : Nat) (h : Mem.wf d m = true) : Mem.wf d (Mem.clear m a n) = true :=
  Mem.wfAbove_filter d _ m none h

/-- Pasting a range keeps it. -/
theorem Mem.wf_paste (d : Byte) (m : Mem) (a n : Nat) (cs : Mem) (h : Mem.wf d m = true) : Mem.wf d (Mem.paste d m a n cs) = true := by
  have key : ∀ (cs : Mem) (m : Mem), Mem.wf d m = true →
      Mem.wf d (cs.foldl (fun m p => Mem.set d m (a + p.1) p.2) m) = true := by
    intro cs
    induction cs with
    | nil => intro m h; exact h
    | cons p cs ih => intro m h; exact ih _ (Mem.wf_set d m _ _ h)
  exact key cs _ (Mem.wf_clear d m a n h)

/-! ## Reading back -/

theorem Mem.get_write_ne (d : Byte) (bs : List Byte) : ∀ (m : Mem) (a y : Nat), Mem.wf d m = true → (y < a ∨ a + bs.length ≤ y) →
    Mem.get d (Mem.write d m a bs) y = Mem.get d m y := by
  induction bs with
  | nil => intro m a y _ _; rfl
  | cons b bs ih =>
    intro m a y h hy
    have hl : (b :: bs).length = bs.length + 1 := rfl
    show Mem.get d (Mem.write d (Mem.set d m a b) (a + 1) bs) y = _
    rw [ih _ (a + 1) y (Mem.wf_set d m a b h) (by omega), Mem.get_set_ne d m a y b h (by omega)]

/-- What was written is read back. -/
theorem Mem.read_write (d : Byte) (bs : List Byte) : ∀ (m : Mem) (a : Nat), Mem.wf d m = true →
    Mem.read d (Mem.write d m a bs) a bs.length = bs := by
  induction bs with
  | nil => intro m a _; rfl
  | cons b bs ih =>
    intro m a h
    show Mem.get d (Mem.write d (Mem.set d m a b) (a + 1) bs) a :: Mem.read d (Mem.write d (Mem.set d m a b) (a + 1) bs) (a + 1) bs.length
      = b :: bs
    rw [ih _ _ (Mem.wf_set d m a b h), Mem.get_write_ne d bs _ (a + 1) a (Mem.wf_set d m a b h) (by omega), Mem.get_set_self d m a b h]

/-- A read outside a written range is unchanged. -/
theorem Mem.read_write_ne (d : Byte) (bs : List Byte) (n : Nat) : ∀ (m : Mem) (a y : Nat), Mem.wf d m = true →
    (y + n ≤ a ∨ a + bs.length ≤ y) → Mem.read d (Mem.write d m a bs) y n = Mem.read d m y n := by
  induction n with
  | zero => intro m a y _ _; rfl
  | succ n ih =>
    intro m a y h hy
    simp only [Mem.read]
    rw [Mem.get_write_ne d bs m a y h (by omega), ih m a (y + 1) h (by omega)]

end Sys2Proof
end

