-- ==== Sys2Proof/Laws/State.lean ====
section
/-! SUPPORT. Each field of the state under each update of one unit. -/

namespace Sys2Proof.Machine

@[simp] theorem State.updCluster_pending (s : State) (c : Cl) (f : Cluster → Cluster) : (s.updCluster c f).pending = s.pending := rfl
@[simp] theorem State.updCluster_now (s : State) (c : Cl) (f : Cluster → Cluster) : (s.updCluster c f).now = s.now := rfl
@[simp] theorem State.updCluster_free (s : State) (c : Cl) (f : Cluster → Cluster) : (s.updCluster c f).free = s.free := rfl
@[simp] theorem State.updCluster_sys (s : State) (c : Cl) (f : Cluster → Cluster) : (s.updCluster c f).sys = s.sys := rfl
@[simp] theorem State.updCluster_power (s : State) (c : Cl) (f : Cluster → Cluster) : (s.updCluster c f).power = s.power := rfl
@[simp] theorem State.updCluster_pins (s : State) (c : Cl) (f : Cluster → Cluster) : (s.updCluster c f).pins = s.pins := rfl
@[simp] theorem State.updCluster_ident (s : State) (c : Cl) (f : Cluster → Cluster) : (s.updCluster c f).ident = s.ident := rfl
@[simp] theorem State.updCluster_regs (s : State) (c : Cl) (f : Cluster → Cluster) : (s.updCluster c f).regs = s.regs := rfl
@[simp] theorem State.updCluster_mbx (s : State) (c : Cl) (f : Cluster → Cluster) : (s.updCluster c f).mbx = s.mbx := rfl
@[simp] theorem State.updCluster_obs (s : State) (c : Cl) (f : Cluster → Cluster) : (s.updCluster c f).obs = s.obs := rfl
@[simp] theorem State.updCluster_log (s : State) (c : Cl) (f : Cluster → Cluster) : (s.updCluster c f).log = s.log := rfl
@[simp] theorem State.updCluster_goose (s : State) (c : Cl) (f : Cluster → Cluster) : (s.updCluster c f).goose = s.goose := rfl
@[simp] theorem State.updCluster_jobs (s : State) (c : Cl) (f : Cluster → Cluster) : (s.updCluster c f).jobs = s.jobs := rfl
@[simp] theorem State.updCluster_mem (s : State) (c : Cl) (f : Cluster → Cluster) : (s.updCluster c f).mem = s.mem := rfl
@[simp] theorem State.updCluster_fab (s : State) (c : Cl) (f : Cluster → Cluster) : (s.updCluster c f).fab = s.fab := rfl
@[simp] theorem State.updCluster_coll (s : State) (c : Cl) (f : Cluster → Cluster) : (s.updCluster c f).coll = s.coll := rfl
@[simp] theorem State.updCluster_media (s : State) (c : Cl) (f : Cluster → Cluster) : (s.updCluster c f).media = s.media := rfl

@[simp] theorem State.updEngine_pending (s : State) (c : Cl) (e : En) (f : Engine → Engine) : (s.updEngine c e f).pending = s.pending := rfl
@[simp] theorem State.updEngine_now (s : State) (c : Cl) (e : En) (f : Engine → Engine) : (s.updEngine c e f).now = s.now := rfl
@[simp] theorem State.updEngine_free (s : State) (c : Cl) (e : En) (f : Engine → Engine) : (s.updEngine c e f).free = s.free := rfl
@[simp] theorem State.updEngine_sys (s : State) (c : Cl) (e : En) (f : Engine → Engine) : (s.updEngine c e f).sys = s.sys := rfl
@[simp] theorem State.updEngine_power (s : State) (c : Cl) (e : En) (f : Engine → Engine) : (s.updEngine c e f).power = s.power := rfl
@[simp] theorem State.updEngine_pins (s : State) (c : Cl) (e : En) (f : Engine → Engine) : (s.updEngine c e f).pins = s.pins := rfl
@[simp] theorem State.updEngine_ident (s : State) (c : Cl) (e : En) (f : Engine → Engine) : (s.updEngine c e f).ident = s.ident := rfl
@[simp] theorem State.updEngine_regs (s : State) (c : Cl) (e : En) (f : Engine → Engine) : (s.updEngine c e f).regs = s.regs := rfl
@[simp] theorem State.updEngine_mbx (s : State) (c : Cl) (e : En) (f : Engine → Engine) : (s.updEngine c e f).mbx = s.mbx := rfl
@[simp] theorem State.updEngine_obs (s : State) (c : Cl) (e : En) (f : Engine → Engine) : (s.updEngine c e f).obs = s.obs := rfl
@[simp] theorem State.updEngine_log (s : State) (c : Cl) (e : En) (f : Engine → Engine) : (s.updEngine c e f).log = s.log := rfl
@[simp] theorem State.updEngine_goose (s : State) (c : Cl) (e : En) (f : Engine → Engine) : (s.updEngine c e f).goose = s.goose := rfl
@[simp] theorem State.updEngine_jobs (s : State) (c : Cl) (e : En) (f : Engine → Engine) : (s.updEngine c e f).jobs = s.jobs := rfl
@[simp] theorem State.updEngine_mem (s : State) (c : Cl) (e : En) (f : Engine → Engine) : (s.updEngine c e f).mem = s.mem := rfl
@[simp] theorem State.updEngine_fab (s : State) (c : Cl) (e : En) (f : Engine → Engine) : (s.updEngine c e f).fab = s.fab := rfl
@[simp] theorem State.updEngine_coll (s : State) (c : Cl) (e : En) (f : Engine → Engine) : (s.updEngine c e f).coll = s.coll := rfl
@[simp] theorem State.updEngine_media (s : State) (c : Cl) (e : En) (f : Engine → Engine) : (s.updEngine c e f).media = s.media := rfl

@[simp] theorem State.updThread_pending (s : State) (c : Cl) (t : Th) (f : Thread → Thread) : (s.updThread c t f).pending = s.pending := rfl
@[simp] theorem State.updThread_now (s : State) (c : Cl) (t : Th) (f : Thread → Thread) : (s.updThread c t f).now = s.now := rfl
@[simp] theorem State.updThread_free (s : State) (c : Cl) (t : Th) (f : Thread → Thread) : (s.updThread c t f).free = s.free := rfl
@[simp] theorem State.updThread_sys (s : State) (c : Cl) (t : Th) (f : Thread → Thread) : (s.updThread c t f).sys = s.sys := rfl
@[simp] theorem State.updThread_power (s : State) (c : Cl) (t : Th) (f : Thread → Thread) : (s.updThread c t f).power = s.power := rfl
@[simp] theorem State.updThread_pins (s : State) (c : Cl) (t : Th) (f : Thread → Thread) : (s.updThread c t f).pins = s.pins := rfl
@[simp] theorem State.updThread_ident (s : State) (c : Cl) (t : Th) (f : Thread → Thread) : (s.updThread c t f).ident = s.ident := rfl
@[simp] theorem State.updThread_regs (s : State) (c : Cl) (t : Th) (f : Thread → Thread) : (s.updThread c t f).regs = s.regs := rfl
@[simp] theorem State.updThread_mbx (s : State) (c : Cl) (t : Th) (f : Thread → Thread) : (s.updThread c t f).mbx = s.mbx := rfl
@[simp] theorem State.updThread_obs (s : State) (c : Cl) (t : Th) (f : Thread → Thread) : (s.updThread c t f).obs = s.obs := rfl
@[simp] theorem State.updThread_log (s : State) (c : Cl) (t : Th) (f : Thread → Thread) : (s.updThread c t f).log = s.log := rfl
@[simp] theorem State.updThread_goose (s : State) (c : Cl) (t : Th) (f : Thread → Thread) : (s.updThread c t f).goose = s.goose := rfl
@[simp] theorem State.updThread_jobs (s : State) (c : Cl) (t : Th) (f : Thread → Thread) : (s.updThread c t f).jobs = s.jobs := rfl
@[simp] theorem State.updThread_mem (s : State) (c : Cl) (t : Th) (f : Thread → Thread) : (s.updThread c t f).mem = s.mem := rfl
@[simp] theorem State.updThread_fab (s : State) (c : Cl) (t : Th) (f : Thread → Thread) : (s.updThread c t f).fab = s.fab := rfl
@[simp] theorem State.updThread_coll (s : State) (c : Cl) (t : Th) (f : Thread → Thread) : (s.updThread c t f).coll = s.coll := rfl
@[simp] theorem State.updThread_media (s : State) (c : Cl) (t : Th) (f : Thread → Thread) : (s.updThread c t f).media = s.media := rfl

@[simp] theorem State.updSeq_pending (s : State) (c : Cl) (x : Ctx) (f : SeqCtx → SeqCtx) : (s.updSeq c x f).pending = s.pending := rfl
@[simp] theorem State.updSeq_now (s : State) (c : Cl) (x : Ctx) (f : SeqCtx → SeqCtx) : (s.updSeq c x f).now = s.now := rfl
@[simp] theorem State.updSeq_free (s : State) (c : Cl) (x : Ctx) (f : SeqCtx → SeqCtx) : (s.updSeq c x f).free = s.free := rfl
@[simp] theorem State.updSeq_sys (s : State) (c : Cl) (x : Ctx) (f : SeqCtx → SeqCtx) : (s.updSeq c x f).sys = s.sys := rfl
@[simp] theorem State.updSeq_power (s : State) (c : Cl) (x : Ctx) (f : SeqCtx → SeqCtx) : (s.updSeq c x f).power = s.power := rfl
@[simp] theorem State.updSeq_pins (s : State) (c : Cl) (x : Ctx) (f : SeqCtx → SeqCtx) : (s.updSeq c x f).pins = s.pins := rfl
@[simp] theorem State.updSeq_ident (s : State) (c : Cl) (x : Ctx) (f : SeqCtx → SeqCtx) : (s.updSeq c x f).ident = s.ident := rfl
@[simp] theorem State.updSeq_regs (s : State) (c : Cl) (x : Ctx) (f : SeqCtx → SeqCtx) : (s.updSeq c x f).regs = s.regs := rfl
@[simp] theorem State.updSeq_mbx (s : State) (c : Cl) (x : Ctx) (f : SeqCtx → SeqCtx) : (s.updSeq c x f).mbx = s.mbx := rfl
@[simp] theorem State.updSeq_obs (s : State) (c : Cl) (x : Ctx) (f : SeqCtx → SeqCtx) : (s.updSeq c x f).obs = s.obs := rfl
@[simp] theorem State.updSeq_log (s : State) (c : Cl) (x : Ctx) (f : SeqCtx → SeqCtx) : (s.updSeq c x f).log = s.log := rfl
@[simp] theorem State.updSeq_goose (s : State) (c : Cl) (x : Ctx) (f : SeqCtx → SeqCtx) : (s.updSeq c x f).goose = s.goose := rfl
@[simp] theorem State.updSeq_jobs (s : State) (c : Cl) (x : Ctx) (f : SeqCtx → SeqCtx) : (s.updSeq c x f).jobs = s.jobs := rfl
@[simp] theorem State.updSeq_mem (s : State) (c : Cl) (x : Ctx) (f : SeqCtx → SeqCtx) : (s.updSeq c x f).mem = s.mem := rfl
@[simp] theorem State.updSeq_fab (s : State) (c : Cl) (x : Ctx) (f : SeqCtx → SeqCtx) : (s.updSeq c x f).fab = s.fab := rfl
@[simp] theorem State.updSeq_coll (s : State) (c : Cl) (x : Ctx) (f : SeqCtx → SeqCtx) : (s.updSeq c x f).coll = s.coll := rfl
@[simp] theorem State.updSeq_media (s : State) (c : Cl) (x : Ctx) (f : SeqCtx → SeqCtx) : (s.updSeq c x f).media = s.media := rfl

@[simp] theorem State.updStage_pending (s : State) (c : Cl) (x : Ctx) (f : Stage → Stage) : (s.updStage c x f).pending = s.pending := rfl
@[simp] theorem State.updStage_now (s : State) (c : Cl) (x : Ctx) (f : Stage → Stage) : (s.updStage c x f).now = s.now := rfl
@[simp] theorem State.updStage_free (s : State) (c : Cl) (x : Ctx) (f : Stage → Stage) : (s.updStage c x f).free = s.free := rfl
@[simp] theorem State.updStage_sys (s : State) (c : Cl) (x : Ctx) (f : Stage → Stage) : (s.updStage c x f).sys = s.sys := rfl
@[simp] theorem State.updStage_power (s : State) (c : Cl) (x : Ctx) (f : Stage → Stage) : (s.updStage c x f).power = s.power := rfl
@[simp] theorem State.updStage_pins (s : State) (c : Cl) (x : Ctx) (f : Stage → Stage) : (s.updStage c x f).pins = s.pins := rfl
@[simp] theorem State.updStage_ident (s : State) (c : Cl) (x : Ctx) (f : Stage → Stage) : (s.updStage c x f).ident = s.ident := rfl
@[simp] theorem State.updStage_regs (s : State) (c : Cl) (x : Ctx) (f : Stage → Stage) : (s.updStage c x f).regs = s.regs := rfl
@[simp] theorem State.updStage_mbx (s : State) (c : Cl) (x : Ctx) (f : Stage → Stage) : (s.updStage c x f).mbx = s.mbx := rfl
@[simp] theorem State.updStage_obs (s : State) (c : Cl) (x : Ctx) (f : Stage → Stage) : (s.updStage c x f).obs = s.obs := rfl
@[simp] theorem State.updStage_log (s : State) (c : Cl) (x : Ctx) (f : Stage → Stage) : (s.updStage c x f).log = s.log := rfl
@[simp] theorem State.updStage_goose (s : State) (c : Cl) (x : Ctx) (f : Stage → Stage) : (s.updStage c x f).goose = s.goose := rfl
@[simp] theorem State.updStage_jobs (s : State) (c : Cl) (x : Ctx) (f : Stage → Stage) : (s.updStage c x f).jobs = s.jobs := rfl
@[simp] theorem State.updStage_mem (s : State) (c : Cl) (x : Ctx) (f : Stage → Stage) : (s.updStage c x f).mem = s.mem := rfl
@[simp] theorem State.updStage_fab (s : State) (c : Cl) (x : Ctx) (f : Stage → Stage) : (s.updStage c x f).fab = s.fab := rfl
@[simp] theorem State.updStage_coll (s : State) (c : Cl) (x : Ctx) (f : Stage → Stage) : (s.updStage c x f).coll = s.coll := rfl
@[simp] theorem State.updStage_media (s : State) (c : Cl) (x : Ctx) (f : Stage → Stage) : (s.updStage c x f).media = s.media := rfl

@[simp] theorem State.updRun_pending (s : State) (c : Cl) (x : Ctx) (f : BeatRun → BeatRun) : (s.updRun c x f).pending = s.pending := rfl
@[simp] theorem State.updRun_now (s : State) (c : Cl) (x : Ctx) (f : BeatRun → BeatRun) : (s.updRun c x f).now = s.now := rfl
@[simp] theorem State.updRun_free (s : State) (c : Cl) (x : Ctx) (f : BeatRun → BeatRun) : (s.updRun c x f).free = s.free := rfl
@[simp] theorem State.updRun_sys (s : State) (c : Cl) (x : Ctx) (f : BeatRun → BeatRun) : (s.updRun c x f).sys = s.sys := rfl
@[simp] theorem State.updRun_power (s : State) (c : Cl) (x : Ctx) (f : BeatRun → BeatRun) : (s.updRun c x f).power = s.power := rfl
@[simp] theorem State.updRun_pins (s : State) (c : Cl) (x : Ctx) (f : BeatRun → BeatRun) : (s.updRun c x f).pins = s.pins := rfl
@[simp] theorem State.updRun_ident (s : State) (c : Cl) (x : Ctx) (f : BeatRun → BeatRun) : (s.updRun c x f).ident = s.ident := rfl
@[simp] theorem State.updRun_regs (s : State) (c : Cl) (x : Ctx) (f : BeatRun → BeatRun) : (s.updRun c x f).regs = s.regs := rfl
@[simp] theorem State.updRun_mbx (s : State) (c : Cl) (x : Ctx) (f : BeatRun → BeatRun) : (s.updRun c x f).mbx = s.mbx := rfl
@[simp] theorem State.updRun_obs (s : State) (c : Cl) (x : Ctx) (f : BeatRun → BeatRun) : (s.updRun c x f).obs = s.obs := rfl
@[simp] theorem State.updRun_log (s : State) (c : Cl) (x : Ctx) (f : BeatRun → BeatRun) : (s.updRun c x f).log = s.log := rfl
@[simp] theorem State.updRun_goose (s : State) (c : Cl) (x : Ctx) (f : BeatRun → BeatRun) : (s.updRun c x f).goose = s.goose := rfl
@[simp] theorem State.updRun_jobs (s : State) (c : Cl) (x : Ctx) (f : BeatRun → BeatRun) : (s.updRun c x f).jobs = s.jobs := rfl
@[simp] theorem State.updRun_mem (s : State) (c : Cl) (x : Ctx) (f : BeatRun → BeatRun) : (s.updRun c x f).mem = s.mem := rfl
@[simp] theorem State.updRun_fab (s : State) (c : Cl) (x : Ctx) (f : BeatRun → BeatRun) : (s.updRun c x f).fab = s.fab := rfl
@[simp] theorem State.updRun_coll (s : State) (c : Cl) (x : Ctx) (f : BeatRun → BeatRun) : (s.updRun c x f).coll = s.coll := rfl
@[simp] theorem State.updRun_media (s : State) (c : Cl) (x : Ctx) (f : BeatRun → BeatRun) : (s.updRun c x f).media = s.media := rfl

@[simp] theorem State.updCmd_pending (s : State) (c : Cl) (x : Ctx) (d : Fin 64) (f : Cmd → Cmd) : (s.updCmd c x d f).pending = s.pending := rfl
@[simp] theorem State.updCmd_now (s : State) (c : Cl) (x : Ctx) (d : Fin 64) (f : Cmd → Cmd) : (s.updCmd c x d f).now = s.now := rfl
@[simp] theorem State.updCmd_free (s : State) (c : Cl) (x : Ctx) (d : Fin 64) (f : Cmd → Cmd) : (s.updCmd c x d f).free = s.free := rfl
@[simp] theorem State.updCmd_sys (s : State) (c : Cl) (x : Ctx) (d : Fin 64) (f : Cmd → Cmd) : (s.updCmd c x d f).sys = s.sys := rfl
@[simp] theorem State.updCmd_power (s : State) (c : Cl) (x : Ctx) (d : Fin 64) (f : Cmd → Cmd) : (s.updCmd c x d f).power = s.power := rfl
@[simp] theorem State.updCmd_pins (s : State) (c : Cl) (x : Ctx) (d : Fin 64) (f : Cmd → Cmd) : (s.updCmd c x d f).pins = s.pins := rfl
@[simp] theorem State.updCmd_ident (s : State) (c : Cl) (x : Ctx) (d : Fin 64) (f : Cmd → Cmd) : (s.updCmd c x d f).ident = s.ident := rfl
@[simp] theorem State.updCmd_regs (s : State) (c : Cl) (x : Ctx) (d : Fin 64) (f : Cmd → Cmd) : (s.updCmd c x d f).regs = s.regs := rfl
@[simp] theorem State.updCmd_mbx (s : State) (c : Cl) (x : Ctx) (d : Fin 64) (f : Cmd → Cmd) : (s.updCmd c x d f).mbx = s.mbx := rfl
@[simp] theorem State.updCmd_obs (s : State) (c : Cl) (x : Ctx) (d : Fin 64) (f : Cmd → Cmd) : (s.updCmd c x d f).obs = s.obs := rfl
@[simp] theorem State.updCmd_log (s : State) (c : Cl) (x : Ctx) (d : Fin 64) (f : Cmd → Cmd) : (s.updCmd c x d f).log = s.log := rfl
@[simp] theorem State.updCmd_goose (s : State) (c : Cl) (x : Ctx) (d : Fin 64) (f : Cmd → Cmd) : (s.updCmd c x d f).goose = s.goose := rfl
@[simp] theorem State.updCmd_jobs (s : State) (c : Cl) (x : Ctx) (d : Fin 64) (f : Cmd → Cmd) : (s.updCmd c x d f).jobs = s.jobs := rfl
@[simp] theorem State.updCmd_mem (s : State) (c : Cl) (x : Ctx) (d : Fin 64) (f : Cmd → Cmd) : (s.updCmd c x d f).mem = s.mem := rfl
@[simp] theorem State.updCmd_fab (s : State) (c : Cl) (x : Ctx) (d : Fin 64) (f : Cmd → Cmd) : (s.updCmd c x d f).fab = s.fab := rfl
@[simp] theorem State.updCmd_coll (s : State) (c : Cl) (x : Ctx) (d : Fin 64) (f : Cmd → Cmd) : (s.updCmd c x d f).coll = s.coll := rfl
@[simp] theorem State.updCmd_media (s : State) (c : Cl) (x : Ctx) (d : Fin 64) (f : Cmd → Cmd) : (s.updCmd c x d f).media = s.media := rfl

@[simp] theorem State.updJob_pending (s : State) (x : Ctx) (f : Job → Job) : (s.updJob x f).pending = s.pending := rfl
@[simp] theorem State.updJob_now (s : State) (x : Ctx) (f : Job → Job) : (s.updJob x f).now = s.now := rfl
@[simp] theorem State.updJob_free (s : State) (x : Ctx) (f : Job → Job) : (s.updJob x f).free = s.free := rfl
@[simp] theorem State.updJob_sys (s : State) (x : Ctx) (f : Job → Job) : (s.updJob x f).sys = s.sys := rfl
@[simp] theorem State.updJob_power (s : State) (x : Ctx) (f : Job → Job) : (s.updJob x f).power = s.power := rfl
@[simp] theorem State.updJob_pins (s : State) (x : Ctx) (f : Job → Job) : (s.updJob x f).pins = s.pins := rfl
@[simp] theorem State.updJob_ident (s : State) (x : Ctx) (f : Job → Job) : (s.updJob x f).ident = s.ident := rfl
@[simp] theorem State.updJob_regs (s : State) (x : Ctx) (f : Job → Job) : (s.updJob x f).regs = s.regs := rfl
@[simp] theorem State.updJob_mbx (s : State) (x : Ctx) (f : Job → Job) : (s.updJob x f).mbx = s.mbx := rfl
@[simp] theorem State.updJob_obs (s : State) (x : Ctx) (f : Job → Job) : (s.updJob x f).obs = s.obs := rfl
@[simp] theorem State.updJob_log (s : State) (x : Ctx) (f : Job → Job) : (s.updJob x f).log = s.log := rfl
@[simp] theorem State.updJob_goose (s : State) (x : Ctx) (f : Job → Job) : (s.updJob x f).goose = s.goose := rfl
@[simp] theorem State.updJob_clusters (s : State) (x : Ctx) (f : Job → Job) : (s.updJob x f).clusters = s.clusters := rfl
@[simp] theorem State.updJob_mem (s : State) (x : Ctx) (f : Job → Job) : (s.updJob x f).mem = s.mem := rfl
@[simp] theorem State.updJob_fab (s : State) (x : Ctx) (f : Job → Job) : (s.updJob x f).fab = s.fab := rfl
@[simp] theorem State.updJob_coll (s : State) (x : Ctx) (f : Job → Job) : (s.updJob x f).coll = s.coll := rfl
@[simp] theorem State.updJob_media (s : State) (x : Ctx) (f : Job → Job) : (s.updJob x f).media = s.media := rfl

@[simp] theorem State.updChan_pending (s : State) (ch : Chan) (f : HbmChan → HbmChan) : (s.updChan ch f).pending = s.pending := rfl
@[simp] theorem State.updChan_now (s : State) (ch : Chan) (f : HbmChan → HbmChan) : (s.updChan ch f).now = s.now := rfl
@[simp] theorem State.updChan_free (s : State) (ch : Chan) (f : HbmChan → HbmChan) : (s.updChan ch f).free = s.free := rfl
@[simp] theorem State.updChan_sys (s : State) (ch : Chan) (f : HbmChan → HbmChan) : (s.updChan ch f).sys = s.sys := rfl
@[simp] theorem State.updChan_power (s : State) (ch : Chan) (f : HbmChan → HbmChan) : (s.updChan ch f).power = s.power := rfl
@[simp] theorem State.updChan_pins (s : State) (ch : Chan) (f : HbmChan → HbmChan) : (s.updChan ch f).pins = s.pins := rfl
@[simp] theorem State.updChan_ident (s : State) (ch : Chan) (f : HbmChan → HbmChan) : (s.updChan ch f).ident = s.ident := rfl
@[simp] theorem State.updChan_regs (s : State) (ch : Chan) (f : HbmChan → HbmChan) : (s.updChan ch f).regs = s.regs := rfl
@[simp] theorem State.updChan_mbx (s : State) (ch : Chan) (f : HbmChan → HbmChan) : (s.updChan ch f).mbx = s.mbx := rfl
@[simp] theorem State.updChan_obs (s : State) (ch : Chan) (f : HbmChan → HbmChan) : (s.updChan ch f).obs = s.obs := rfl
@[simp] theorem State.updChan_log (s : State) (ch : Chan) (f : HbmChan → HbmChan) : (s.updChan ch f).log = s.log := rfl
@[simp] theorem State.updChan_goose (s : State) (ch : Chan) (f : HbmChan → HbmChan) : (s.updChan ch f).goose = s.goose := rfl
@[simp] theorem State.updChan_jobs (s : State) (ch : Chan) (f : HbmChan → HbmChan) : (s.updChan ch f).jobs = s.jobs := rfl
@[simp] theorem State.updChan_clusters (s : State) (ch : Chan) (f : HbmChan → HbmChan) : (s.updChan ch f).clusters = s.clusters := rfl
@[simp] theorem State.updChan_fab (s : State) (ch : Chan) (f : HbmChan → HbmChan) : (s.updChan ch f).fab = s.fab := rfl
@[simp] theorem State.updChan_coll (s : State) (ch : Chan) (f : HbmChan → HbmChan) : (s.updChan ch f).coll = s.coll := rfl
@[simp] theorem State.updChan_media (s : State) (ch : Chan) (f : HbmChan → HbmChan) : (s.updChan ch f).media = s.media := rfl

@[simp] theorem State.updPort_pending (s : State) (p : Port) (f : FPort → FPort) : (s.updPort p f).pending = s.pending := rfl
@[simp] theorem State.updPort_now (s : State) (p : Port) (f : FPort → FPort) : (s.updPort p f).now = s.now := rfl
@[simp] theorem State.updPort_free (s : State) (p : Port) (f : FPort → FPort) : (s.updPort p f).free = s.free := rfl
@[simp] theorem State.updPort_sys (s : State) (p : Port) (f : FPort → FPort) : (s.updPort p f).sys = s.sys := rfl
@[simp] theorem State.updPort_power (s : State) (p : Port) (f : FPort → FPort) : (s.updPort p f).power = s.power := rfl
@[simp] theorem State.updPort_pins (s : State) (p : Port) (f : FPort → FPort) : (s.updPort p f).pins = s.pins := rfl
@[simp] theorem State.updPort_ident (s : State) (p : Port) (f : FPort → FPort) : (s.updPort p f).ident = s.ident := rfl
@[simp] theorem State.updPort_regs (s : State) (p : Port) (f : FPort → FPort) : (s.updPort p f).regs = s.regs := rfl
@[simp] theorem State.updPort_mbx (s : State) (p : Port) (f : FPort → FPort) : (s.updPort p f).mbx = s.mbx := rfl
@[simp] theorem State.updPort_obs (s : State) (p : Port) (f : FPort → FPort) : (s.updPort p f).obs = s.obs := rfl
@[simp] theorem State.updPort_log (s : State) (p : Port) (f : FPort → FPort) : (s.updPort p f).log = s.log := rfl
@[simp] theorem State.updPort_goose (s : State) (p : Port) (f : FPort → FPort) : (s.updPort p f).goose = s.goose := rfl
@[simp] theorem State.updPort_jobs (s : State) (p : Port) (f : FPort → FPort) : (s.updPort p f).jobs = s.jobs := rfl
@[simp] theorem State.updPort_clusters (s : State) (p : Port) (f : FPort → FPort) : (s.updPort p f).clusters = s.clusters := rfl
@[simp] theorem State.updPort_mem (s : State) (p : Port) (f : FPort → FPort) : (s.updPort p f).mem = s.mem := rfl
@[simp] theorem State.updPort_coll (s : State) (p : Port) (f : FPort → FPort) : (s.updPort p f).coll = s.coll := rfl
@[simp] theorem State.updPort_media (s : State) (p : Port) (f : FPort → FPort) : (s.updPort p f).media = s.media := rfl

@[simp] theorem State.updQueue_pending (s : State) (q : Fin 16) (f : MQueue → MQueue) : (s.updQueue q f).pending = s.pending := rfl
@[simp] theorem State.updQueue_now (s : State) (q : Fin 16) (f : MQueue → MQueue) : (s.updQueue q f).now = s.now := rfl
@[simp] theorem State.updQueue_free (s : State) (q : Fin 16) (f : MQueue → MQueue) : (s.updQueue q f).free = s.free := rfl
@[simp] theorem State.updQueue_sys (s : State) (q : Fin 16) (f : MQueue → MQueue) : (s.updQueue q f).sys = s.sys := rfl
@[simp] theorem State.updQueue_power (s : State) (q : Fin 16) (f : MQueue → MQueue) : (s.updQueue q f).power = s.power := rfl
@[simp] theorem State.updQueue_pins (s : State) (q : Fin 16) (f : MQueue → MQueue) : (s.updQueue q f).pins = s.pins := rfl
@[simp] theorem State.updQueue_ident (s : State) (q : Fin 16) (f : MQueue → MQueue) : (s.updQueue q f).ident = s.ident := rfl
@[simp] theorem State.updQueue_regs (s : State) (q : Fin 16) (f : MQueue → MQueue) : (s.updQueue q f).regs = s.regs := rfl
@[simp] theorem State.updQueue_obs (s : State) (q : Fin 16) (f : MQueue → MQueue) : (s.updQueue q f).obs = s.obs := rfl
@[simp] theorem State.updQueue_log (s : State) (q : Fin 16) (f : MQueue → MQueue) : (s.updQueue q f).log = s.log := rfl
@[simp] theorem State.updQueue_goose (s : State) (q : Fin 16) (f : MQueue → MQueue) : (s.updQueue q f).goose = s.goose := rfl
@[simp] theorem State.updQueue_jobs (s : State) (q : Fin 16) (f : MQueue → MQueue) : (s.updQueue q f).jobs = s.jobs := rfl
@[simp] theorem State.updQueue_clusters (s : State) (q : Fin 16) (f : MQueue → MQueue) : (s.updQueue q f).clusters = s.clusters := rfl
@[simp] theorem State.updQueue_mem (s : State) (q : Fin 16) (f : MQueue → MQueue) : (s.updQueue q f).mem = s.mem := rfl
@[simp] theorem State.updQueue_fab (s : State) (q : Fin 16) (f : MQueue → MQueue) : (s.updQueue q f).fab = s.fab := rfl
@[simp] theorem State.updQueue_coll (s : State) (q : Fin 16) (f : MQueue → MQueue) : (s.updQueue q f).coll = s.coll := rfl
@[simp] theorem State.updQueue_media (s : State) (q : Fin 16) (f : MQueue → MQueue) : (s.updQueue q f).media = s.media := rfl

/-! ## The unit itself -/

@[simp] theorem State.updCluster_get (s : State) (c : Cl) (f : Cluster → Cluster) :
    (s.updCluster c f).clusters.get c = f (s.clusters.get c) := upd_get_self _ _ _

theorem State.updCluster_get_ne (s : State) (c d : Cl) (f : Cluster → Cluster) (h : d ≠ c) :
    (s.updCluster c f).clusters.get d = s.clusters.get d := upd_get_ne _ _ _ _ h

@[simp] theorem State.updThread_get (s : State) (c : Cl) (t : Th) (f : Thread → Thread) :
    ((s.updThread c t f).clusters.get c).threads.get t = f ((s.clusters.get c).threads.get t) := by
  simp [State.updThread]

theorem State.updThread_get_ne (s : State) (c : Cl) (t u : Th) (f : Thread → Thread) (h : u ≠ t) :
    ((s.updThread c t f).clusters.get c).threads.get u = (s.clusters.get c).threads.get u := by
  simp [State.updThread, upd_get_ne _ _ _ _ h]

@[simp] theorem State.updEngine_get (s : State) (c : Cl) (e : En) (f : Engine → Engine) :
    ((s.updEngine c e f).clusters.get c).engines.get e = f ((s.clusters.get c).engines.get e) := by
  simp [State.updEngine]

theorem State.updEngine_get_ne (s : State) (c : Cl) (e e' : En) (f : Engine → Engine) (h : e' ≠ e) :
    ((s.updEngine c e f).clusters.get c).engines.get e' = (s.clusters.get c).engines.get e' := by
  simp [State.updEngine, upd_get_ne _ _ _ _ h]

@[simp] theorem State.updSeq_get (s : State) (c : Cl) (x : Ctx) (f : SeqCtx → SeqCtx) :
    ((s.updSeq c x f).clusters.get c).seq.get x = f ((s.clusters.get c).seq.get x) := by
  simp [State.updSeq]

theorem State.updSeq_get_ne (s : State) (c : Cl) (x y : Ctx) (f : SeqCtx → SeqCtx) (h : y ≠ x) :
    ((s.updSeq c x f).clusters.get c).seq.get y = (s.clusters.get c).seq.get y := by
  simp [State.updSeq, PerCtx.get_set_ne _ _ _ _ h]

@[simp] theorem State.updStage_stage (s : State) (c : Cl) (x : Ctx) (f : Stage → Stage) :
    (s.updStage c x f).stage c x = (s.stage c x).map f := by
  simp [State.updStage, State.stage]

@[simp] theorem State.updRun_run (s : State) (c : Cl) (x : Ctx) (f : BeatRun → BeatRun) :
    (s.updRun c x f).run c x = (s.run c x).map f := by
  simp only [State.updRun, State.run, State.updStage_stage]
  cases s.stage c x <;> simp

@[simp] theorem State.updJob_get (s : State) (x : Ctx) (f : Job → Job) : (s.updJob x f).jobs.get x = f (s.jobs.get x) := by
  simp [State.updJob]

theorem State.updJob_get_ne (s : State) (x y : Ctx) (f : Job → Job) (h : y ≠ x) : (s.updJob x f).jobs.get y = s.jobs.get y := by
  simp [State.updJob, PerCtx.get_set_ne _ _ _ _ h]

@[simp] theorem State.updChan_get (s : State) (ch : Chan) (f : HbmChan → HbmChan) :
    (s.updChan ch f).mem.chans.get ch = f (s.mem.chans.get ch) := upd_get_self _ _ _

theorem State.updChan_get_ne (s : State) (ch d : Chan) (f : HbmChan → HbmChan) (h : d ≠ ch) :
    (s.updChan ch f).mem.chans.get d = s.mem.chans.get d := upd_get_ne _ _ _ _ h

@[simp] theorem State.updPort_get (s : State) (p : Port) (f : FPort → FPort) :
    (s.updPort p f).fab.ports.get p = f (s.fab.ports.get p) := upd_get_self _ _ _

theorem State.updPort_get_ne (s : State) (p q : Port) (f : FPort → FPort) (h : q ≠ p) :
    (s.updPort p f).fab.ports.get q = s.fab.ports.get q := upd_get_ne _ _ _ _ h

@[simp] theorem State.updQueue_get (s : State) (q : Fin 16) (f : MQueue → MQueue) :
    (s.updQueue q f).mbx.queues.get q = f (s.mbx.queues.get q) := upd_get_self _ _ _

theorem State.updQueue_get_ne (s : State) (q r : Fin 16) (f : MQueue → MQueue) (h : r ≠ q) :
    (s.updQueue q f).mbx.queues.get r = s.mbx.queues.get r := upd_get_ne _ _ _ _ h

end Sys2Proof.Machine
end

