-- ==== Sys2Proof/Laws/Ops.lean ====
section
/-! SUPPORT. What each shared operation can change, said once: counting and sending change the counters and the fabric; events,
records and responses besides these the registers, the mailbox and the fault log. -/

namespace Sys2Proof.Machine

/-! ## Counting and sending -/

/-- The second state differs from the first in its counters and its fabric at most. -/
def ObsFab (s t : State) : Prop := ∃ o f, t = { s with obs := o, fab := f }

theorem ObsFab.refl (s : State) : ObsFab s s := ⟨s.obs, s.fab, rfl⟩

theorem ObsFab.trans {s t u : State} (h : ObsFab s t) (k : ObsFab t u) : ObsFab s u := by
  obtain ⟨o, f, rfl⟩ := h
  obtain ⟨o', f', rfl⟩ := k
  exact ⟨o', f', rfl⟩

theorem ObsFab.foldl {α : Type} (g : State → α → State) (hg : ∀ s a, ObsFab s (g s a)) : ∀ (l : List α) (s : State), ObsFab s (l.foldl g s)
  | [], s => ObsFab.refl s
  | a :: l, s => (hg s a).trans (ObsFab.foldl g hg l (g s a))

theorem ObsFab.ite {s a b : State} {c : Prop} [Decidable c] (ha : ObsFab s a) (hb : ObsFab s b) : ObsFab s (if c then a else b) := by
  split
  · exact ha
  · exact hb

theorem bump0_obsFab (s : State) (k : CntKey) (n : Nat) : ObsFab s (bump0 s k n) := by
  unfold bump0; split
  · exact ObsFab.refl s
  · exact ⟨_, s.fab, rfl⟩

theorem logEvent_obsFab (s : State) (d : Fin 2) (e : LogEntry) : ObsFab s (logEvent s d e) := ⟨_, s.fab, rfl⟩

theorem logPkt_obsFab (s : State) (p : Port) (kind : Nat) (k : Pkt) : ObsFab s (logPkt s p kind k) := by
  unfold logPkt; split
  · exact logEvent_obsFab _ _ _
  · exact ObsFab.refl s

theorem updPort_obsFab (s : State) (p : Port) (f : FPort → FPort) : ObsFab s (s.updPort p f) := ⟨s.obs, _, rfl⟩

theorem leave_obsFab (s : State) (p : Port) (i : Nat) (k : Pkt) : ObsFab s (leave s p i k) := by
  unfold leave
  have h := (updPort_obsFab s p (fun q => q.sent1 i k)).trans (bump0_obsFab _ { code := Cnt.PORT_TX_BYTES, unit := p.val } k.bytes)
  dsimp only
  split
  · exact h.trans (logPkt_obsFab _ _ _ _)
  · exact h

theorem drainTx_obsFab (p : Port) : ∀ (n : Nat) (s : State), ObsFab s (drainTx s p n)
  | 0, s => ObsFab.refl s
  | n + 1, s => by
    unfold drainTx
    dsimp only
    split
    · exact ObsFab.refl s
    · split
      · exact updPort_obsFab _ _ _
      · split
        · exact ObsFab.refl s
        · split
          · exact ObsFab.refl s
          · exact (leave_obsFab _ _ _ _).trans (drainTx_obsFab p n _)

theorem enqueue_obsFab (s : State) (k : Pkt) (p : Port) : ObsFab s (enqueue s k p) :=
  (updPort_obsFab s p _).trans (drainTx_obsFab p _ _)

theorem fab_obsFab (s : State) (f : Fabric) : ObsFab s { s with fab := f } := ⟨s.obs, f, rfl⟩

theorem detourFails_obsFab (s : State) (o : Port) : ObsFab s (detourFails s o) := (bump0_obsFab _ _ _).trans (fab_obsFab _ _)

theorem detourBy_obsFab (s : State) (o : Port) (k : Pkt) : ObsFab s (detourBy s o k) := by
  unfold detourBy; split
  · exact detourFails_obsFab _ _
  · exact (bump0_obsFab _ _ _).trans (enqueue_obsFab _ _ _)

theorem forwardBy_obsFab (s : State) (i : Option Port) (k : Pkt) (p : Port) : ObsFab s (forwardBy s i k p) := by
  unfold forwardBy
  dsimp only
  split
  · exact bump0_obsFab _ _ _
  · refine ObsFab.ite ?_ ?_
    · exact detourBy_obsFab _ _ _
    · exact enqueue_obsFab _ _ _

theorem routePkt_obsFab (s : State) (i : Option Port) (k : Pkt) : ObsFab s (routePkt s i k) := by
  unfold routePkt
  generalize s.fab.bank? k.routeEpoch = b
  cases b with
  | none => exact bump0_obsFab _ _ _
  | some b =>
    dsimp only
    generalize b.lookup s.ident.devNum k.dst = l
    obtain ⟨port, e, hall⟩ := l
    dsimp only
    refine ObsFab.ite ?_ ?_
    · cases i with
      | none => exact ObsFab.refl s
      | some p => exact detourBy_obsFab _ _ _
    · by_cases h : port < 12
      · rw [dif_pos h]; exact forwardBy_obsFab _ _ _ _
      · rw [dif_neg h]; exact bump0_obsFab _ _ _

theorem transmit_obsFab (s : State) (k : Pkt) : ObsFab s (transmit s k) := by
  unfold transmit
  exact routePkt_obsFab _ _ _

theorem inject_obsFab (s : State) (k : Pkt) : ObsFab s (inject s k) := by
  unfold inject
  dsimp only
  split
  · exact transmit_obsFab _ _
  · split
    · exact fab_obsFab _ _
    · split
      · exact ObsFab.refl _
      · split
        · exact fab_obsFab _ _
        · exact (fab_obsFab _ _).trans (transmit_obsFab _ _)

theorem freezeAs_obsFab (s : State) (a b c : Nat) : ObsFab s (freezeAs s a b c) := by
  unfold freezeAs; split
  · exact bump0_obsFab _ _ _
  · exact ⟨_, s.fab, rfl⟩

theorem localFreeze_obsFab (s : State) (c : Nat) : ObsFab s (localFreeze s c) := by
  unfold localFreeze
  dsimp only
  split
  · exact bump0_obsFab _ _ _
  · have h : ObsFab s { s with obs := { s.obs with freezeSeq := s.obs.freezeSeq + 1 } } := ⟨_, s.fab, rfl⟩
    split
    · exact h.trans (freezeAs_obsFab _ _ _ _)
    · exact (h.trans (freezeAs_obsFab _ _ _ _)).trans (ObsFab.foldl _ (fun s d => inject_obsFab _ _) _ _)

theorem checkThresholds_obsFab (s : State) : ObsFab s (checkThresholds s) := by
  unfold checkThresholds
  dsimp only
  split
  · have h : ∀ o, ObsFab s { s with obs := o } := fun o => ⟨o, s.fab, rfl⟩
    exact (h _).trans (localFreeze_obsFab _ _)
  · exact ObsFab.refl s

theorem bump_obsFab (s : State) (k : CntKey) (n : Nat) : ObsFab s (bump s k n) := (bump0_obsFab s k n).trans (checkThresholds_obsFab _)

theorem bumpC_obsFab (s : State) (code : Nat) (c : Cl) (x : CtxNo) (n : Nat) : ObsFab s (bumpC s code c x n) := bump_obsFab _ _ _

theorem sendPkt_obsFab (s : State) (k : Pkt) : ObsFab s (sendPkt s k) := (inject_obsFab s k).trans (checkThresholds_obsFab _)

/-! ## Events, records and responses -/

/-- The second state differs from the first in its counters, fabric, registers, mailbox and fault log at most. -/
def EvOnly (s t : State) : Prop := ∃ o f r m l, t = { s with obs := o, fab := f, regs := r, mbx := m, log := l }

theorem EvOnly.refl (s : State) : EvOnly s s := ⟨s.obs, s.fab, s.regs, s.mbx, s.log, rfl⟩

theorem EvOnly.trans {s t u : State} (h : EvOnly s t) (k : EvOnly t u) : EvOnly s u := by
  obtain ⟨o, f, r, m, l, rfl⟩ := h
  obtain ⟨o', f', r', m', l', rfl⟩ := k
  exact ⟨o', f', r', m', l', rfl⟩

theorem ObsFab.evOnly {s t : State} (h : ObsFab s t) : EvOnly s t := by
  obtain ⟨o, f, rfl⟩ := h
  exact ⟨o, f, s.regs, s.mbx, s.log, rfl⟩

theorem EvOnly.foldl {α : Type} (g : State → α → State) (hg : ∀ s a, EvOnly s (g s a)) : ∀ (l : List α) (s : State), EvOnly s (l.foldl g s)
  | [], s => EvOnly.refl s
  | a :: l, s => (hg s a).trans (EvOnly.foldl g hg l (g s a))

theorem writeHost_evOnly (s : State) (a : Nat) (bs : List Byte) : EvOnly s (writeHost s a bs) := ⟨s.obs, s.fab, s.regs, _, s.log, rfl⟩

theorem updQueue_evOnly (s : State) (q : Fin 16) (f : MQueue → MQueue) : EvOnly s (s.updQueue q f) := ⟨s.obs, s.fab, s.regs, _, s.log, rfl⟩

theorem sendMsix_evOnly (s : State) (v : Fin 16) : EvOnly s (sendMsix s v) := by
  unfold sendMsix; split
  · exact ⟨s.obs, s.fab, _, s.mbx, s.log, rfl⟩
  · exact ⟨s.obs, s.fab, s.regs, _, s.log, rfl⟩

theorem logRec_evOnly (s : State) (r : FaultRec) : EvOnly s (logRec s r).1 := by
  have h : ∀ l, EvOnly s { s with log := l } := fun l => ⟨s.obs, s.fab, s.regs, s.mbx, l, rfl⟩
  have k : ∀ (c : Prop) [Decidable c] (a b : State × Nat), EvOnly s a.1 → EvOnly s b.1 → EvOnly s (if c then a else b).1 := by
    intro c _ a b ha hb; split
    · exact ha
    · exact hb
  unfold logRec
  exact k _ _ _ (h _) ((h _).trans (bump0_obsFab _ _ _).evOnly)

theorem noteCorrected_evOnly (s : State) (u : UnitId) (e n : Nat) : EvOnly s (noteCorrected s u e n) :=
  ⟨s.obs, s.fab, s.regs, s.mbx, _, rfl⟩

theorem putEvent_evOnly (s : State) (e : Ev) (q : Nat) : EvOnly s (putEvent s e q) := ⟨s.obs, s.fab, s.regs, _, s.log, rfl⟩

theorem noteSeq_evOnly (s : State) (q b : BitVec 32) : EvOnly s (noteSeq s q b) := by
  have h : ∀ r m, EvOnly s { s with regs := r, mbx := m } := fun r m => ⟨s.obs, s.fab, r, m, s.log, rfl⟩
  unfold noteSeq
  dsimp only
  split
  · exact (h _ _).trans (sendMsix_evOnly _ _)
  · exact h _ _

theorem mbx_evOnly (s : State) (m : Mbx) : EvOnly s { s with mbx := m } := ⟨s.obs, s.fab, s.regs, m, s.log, rfl⟩

theorem flushLost_evOnly (s : State) : EvOnly s (flushLost s) := by
  unfold flushLost
  dsimp only
  split
  · exact ((putEvent_evOnly s _ _).trans (mbx_evOnly _ _)).trans (noteSeq_evOnly _ _ _)
  · exact EvOnly.refl s

theorem loseEvent_evOnly (s : State) (q : Nat) : EvOnly s (loseEvent s q) := ⟨s.obs, s.fab, _, _, s.log, rfl⟩

theorem EvOnly.ite {s a b : State} {c : Prop} [Decidable c] (ha : EvOnly s a) (hb : EvOnly s b) : EvOnly s (if c then a else b) := by
  split
  · exact ha
  · exact hb

theorem raise0_evOnly (s : State) (e : Ev) (b : Bool) : EvOnly s (raise0 s e b) := by
  have h := fun q r => (flushLost_evOnly s).trans (noteSeq_evOnly _ q r)
  unfold raise0
  exact EvOnly.ite ((h _ _).trans (putEvent_evOnly _ _ _)) ((h _ _).trans (loseEvent_evOnly _ _))

theorem freezeOnEvent_evOnly (s : State) (code : Nat) : EvOnly s (freezeOnEvent s code) := by
  unfold freezeOnEvent
  repeat' split
  all_goals first
    | exact (localFreeze_obsFab _ _).evOnly
    | exact EvOnly.refl _

theorem raise_evOnly (s : State) (e : Ev) : EvOnly s (raise s e) := (raise0_evOnly _ _ _).trans (freezeOnEvent_evOnly _ _)

theorem raiseRec_evOnly (s : State) (e : Ev) (b u : Nat) (r : FaultRec) : EvOnly s (raiseRec s e b u r) :=
  ((logRec_evOnly _ _).trans (raise0_evOnly _ _ _)).trans (freezeOnEvent_evOnly _ _)

theorem raiseRecAs_evOnly (s : State) (e : Ev) (r : FaultRec) : EvOnly s (raiseRecAs s e r) :=
  ((logRec_evOnly _ _).trans (raise0_evOnly _ _ _)).trans (freezeOnEvent_evOnly _ _)

theorem raiseCtx_evOnly (s : State) (code : Nat) (x : CtxNo) (u : UnitId) (b t : Nat) : EvOnly s (raiseCtx s code x u b t) :=
  raise_evOnly _ _

theorem writeResp_evOnly (s : State) (code : Nat) (m : MCmd) (st ob r0 r1 : Nat) : EvOnly s (writeResp s code m st ob r0 r1) :=
  EvOnly.ite (mbx_evOnly _ _) (EvOnly.ite ((writeHost_evOnly s _ _).trans (updQueue_evOnly _ _ _))
    (((writeHost_evOnly s _ _).trans (updQueue_evOnly _ _ _)).trans (sendMsix_evOnly _ _)))

theorem answer_evOnly (s : State) (code : Nat) (m : MCmd) (st r0 r1 : Nat) : EvOnly s (answer s code m st r0 r1) := by
  unfold answer
  dsimp only
  have h : ∀ (b : Prop) [Decidable b] (s : State) (k : CntKey), EvOnly s (if b then bump s k else s) := by
    intro b _ s k; split
    · exact (bump_obsFab _ _ _).evOnly
    · exact EvOnly.refl _
  exact (((h _ s _).trans (h _ _ _)).trans (updQueue_evOnly _ _ _)).trans (writeResp_evOnly _ _ _ _ _ _ _)

theorem answerOut_evOnly (s : State) (code : Nat) (m : MCmd) (out : List Byte) : EvOnly s (answerOut s code m out) := by
  unfold answerOut
  repeat' split
  · exact (mbx_evOnly s _).trans (writeResp_evOnly _ _ _ _ _ _ _)
  · exact answer_evOnly _ _ _ _ _ _
  · exact answer_evOnly _ _ _ _ _ _
  · exact (writeHost_evOnly s _ _).trans (writeResp_evOnly _ _ _ _ _ _ _)

theorem startLater_evOnly (s : State) (code : Nat) (m : MCmd) (k r0 r1 : Nat) : EvOnly s (startLater s code m k r0 r1) := mbx_evOnly _ _

theorem EvOnly.of_mbx {s t : State} (m : Mbx) (h : EvOnly { s with mbx := m } t) : EvOnly s t := (mbx_evOnly s m).trans h

theorem finishCloses_evOnly (s : State) : EvOnly s (finishCloses s) := by
  unfold finishCloses
  refine EvOnly.foldl _ ?_ _ _
  intro s k
  refine EvOnly.ite ?_ (EvOnly.refl s)
  refine EvOnly.trans (EvOnly.ite ?_ ?_) (updQueue_evOnly _ _ _)
  · exact EvOnly.of_mbx _ (writeResp_evOnly _ _ _ _ _ _ _)
  · exact mbx_evOnly s _

theorem completeLater_evOnly (s : State) (code key st : Nat) (r0 r1 : Option Nat) : EvOnly s (completeLater s code key st r0 r1) := by
  unfold completeLater
  split
  · exact EvOnly.refl s
  · refine EvOnly.trans (EvOnly.ite ?_ (EvOnly.ite ?_ ?_)) (finishCloses_evOnly _)
    · exact EvOnly.of_mbx _ (answer_evOnly _ _ _ _ _ _)
    · exact EvOnly.of_mbx _ (mbx_evOnly _ _)
    · exact mbx_evOnly s _

theorem completeAll_evOnly (s : State) (code key st : Nat) : EvOnly s (completeAll s code key st) :=
  EvOnly.foldl _ (fun _ _ => completeLater_evOnly _ _ _ _ _ _) _ _

/-! ## Every byte write keeps the canonical form -/

/-- A view that every step of a fold keeps, the fold keeps. -/
theorem foldl_keeps {α β : Type} (f : State → β) (g : State → α → State) (hg : ∀ s a, f (g s a) = f s) :
    ∀ (l : List α) (s : State), f (l.foldl g s) = f s
  | [], _ => rfl
  | a :: l, s => (foldl_keeps f g hg l (g s a)).trans (hg s a)

theorem ObsFab.mem {s t : State} (h : ObsFab s t) : t.mem = s.mem := by obtain ⟨o, f, rfl⟩ := h; rfl

theorem EvOnly.mem {s t : State} (h : EvOnly s t) : t.mem = s.mem := by obtain ⟨o, f, r, m, l, rfl⟩ := h; rfl

theorem clearPoison_bytes (s : State) (a n : Nat) : (clearPoison s a n).mem.mem = s.mem.mem := by
  unfold clearPoison
  refine foldl_keeps (fun s => s.mem.mem) _ ?_ _ s
  intro s w
  split
  · split <;> rfl
  · rfl

theorem dropLines_bytes (s : State) (a n : Nat) : (dropLines s a n).mem.mem = s.mem.mem := by
  unfold dropLines
  generalize List.finRange 40 = l
  refine foldl_keeps (fun s => s.mem.mem) _ ?_ _ s
  intro s c
  show (bump (bump s _ _) _ _).mem.mem = s.mem.mem
  rw [((bump_obsFab s _ _).trans (bump_obsFab _ _ _)).mem]

theorem markDirty_bytes (s : State) (a n : Nat) : (markDirty s a n).mem.mem = s.mem.mem := rfl

/-- A write of device-local memory writes exactly its bytes. -/
theorem wr_bytes (s : State) (a : Nat) (bs : List Byte) : (s.wr a bs).mem.mem = Mem.write 0 s.mem.mem a bs := by
  unfold State.wr
  cases bs with
  | nil => rfl
  | cons b bs => exact ((markDirty_bytes _ _ _).trans (dropLines_bytes _ _ _)).trans (clearPoison_bytes _ _ _)

theorem wr_wf (s : State) (a : Nat) (bs : List Byte) (h : Mem.wf 0 s.mem.mem = true) : Mem.wf 0 (s.wr a bs).mem.mem = true := by
  rw [wr_bytes]; exact Mem.wf_write 0 bs s.mem.mem a h

theorem writeHost_wf (s : State) (a : Nat) (bs : List Byte) (h : Mem.wf 0 s.mbx.hostMem = true) :
    Mem.wf 0 (writeHost s a bs).mbx.hostMem = true := Mem.wf_write 0 bs _ a h

end Sys2Proof.Machine
end

