-- ==== Sys2Proof/WellFormed.lean ====
section
/-! DEFINITION. Which commands are well formed: operands within the widths of the fields that carry them. The meanings are
total, so nothing rests on this but statements that name it. -/

namespace Sys2Proof

open Sys2Proof.Machine

/-- A number fits a field of some bits. -/
def fits (n w : Nat) : Bool := n < 2 ^ w

/-- A packet's fields fit its header (R358), and Len is its payload's where it carries one. -/
def Machine.Pkt.wf (k : Pkt) : Bool :=
  fits k.cls 2 && fits k.op 5 && fits k.dst 16 && fits k.src 16 && fits k.ctx 2 && fits k.routeEpoch 8 && fits k.flowEpoch 8 &&
    fits k.seq 32 && fits k.len 14 && fits k.hops 8 && fits k.status 8 && fits k.addr 64 && fits k.tag 16 && fits k.elemType 2 &&
    fits k.crc 32 && k.payload.length ≤ 8192

/-- A flit carries at most 240 bytes and 14-bit sequence numbers (R347). -/
def Machine.Flit.wf (f : Flit) : Bool := fits f.seq 14 && fits f.ackSeq 14 && fits f.crVc 3 && f.bytes.length ≤ 240

/-- A mailbox command's payload and output buffer are within R539. -/
def Machine.MCmd.wf (m : MCmd) : Bool := m.payload.length ≤ 0x1000000 && fits m.outLen 32 && fits m.outAddr 64 && m.outAddr % 64 = 0

/-- A fetch turn names each queue once and gives it a 64-byte entry (R539). -/
def Machine.FetchedEntry.wf (e : FetchedEntry) : Bool :=
  decide (e.entries.map (·.1)).Nodup && e.entries.all (fun p => p.2.length = 64)

/-- A beat message's fields (R137). -/
def Machine.BeatMsg.wf (b : BeatMsg) : Bool := fits b.beat 48 && fits b.master 16 && fits b.step 48 && fits b.hops 8

/-- An access of device-local memory (R269). -/
def addrWf (a len : Nat) : Bool := 0 < len && fits (a + len) 48

/-- A command is well formed. -/
def Instr.wf : Instr → Bool
  | .beat _ msg => msg.wf
  | .handoverHeaderLand _ _ _ _ hdr => hdr.length = 64
  | .cacheFill _ line _ => fits line 64
  | .ponyWalk _ _ seq va _ _ => fits seq 16 && fits va 48
  | .hbmRead a n _ _ => addrWf a n
  | .hbmWrite a d _ _ => addrWf a d.length
  | .nmAdd a _ d _ _ _ => addrWf a d.length
  | .llmAccess a n _ _ _ => addrWf a n
  | .bar2Read o n => 0 < n && o + n ≤ 0x8000000000
  | .bar2Write o d => !d.isEmpty && o + d.length ≤ 0x8000000000
  | .flitReceive _ f => f.wf
  | .packetForward _ k | .packetReceive _ k | .load k | .store k | .add k | .readBulk k | .loadData k | .done k | .readData k
  | .write k | .drain k | .drainRet k => k.wf
  | .tAck p c e q | .tNak p c e q => fits p 16 && fits c 2 && fits e 8 && fits q 32
  | .heartbeat d | .heartbeatTimeout d | .faultNotice d => 0 < d && d ≤ 0x8000
  | .mbxFetch e => e.wf
  | .mbxOpen m | .mbxClose m | .mbxNop m | .mbxCancel m | .jobOpen m | .jobStart m | .jobClose m | .jobHalt m | .jobRewind m
  | .jobQuery m | .beatPeriod m | .stageLoad m | .stageUnload m | .memPlace m | .memFree m | .memMove m | .memQuery m
  | .memPoolConfig m | .memLlmConfig m | .memF2Open m | .memF2Flush m | .memF2Close m | .memStreamEst m | .memEncode m
  | .kvSeqDefine m | .kvInval m | .kvRetry m | .kvRingDefine m | .oxDesignate m | .oxRun m | .oxQuery m | .ckptSave m
  | .ckptRestore m | .fabPortConfig m | .fabRouteLoad m | .fabRouteSwap m | .fabStatus m | .collDefine m | .collFuse m
  | .collArm m | .collQuery m | .collUndefine m | .cntConfig m | .cntCatalog m | .cntFreeze m | .cntRelease m | .cntSnapshot m
  | .cntLogRead m | .henWatch m | .henRelease m | .henUnwatch m | .mediaOpen m | .mediaFeed m | .mediaRelease m | .mediaClose m
  | .mediaConfig m | .pwrStatus m | .pwrCapSet m | .faultPolicy m | .faultTimeSet m | .faultCperRead m | .faultRetireClear m
  | .idRead m | .idCapRead m | .idAssume m | .flashRead m | .flashErase m | .flashWrite m | .flashImageCommit m => m.wf
  | .registerWrite o _ => o < 0x4000000 && o % 4 = 0
  | .unimplementedAccess a => a.off < (if a.bar4 then 0x20000 else 0x4000000)
  | .guardArm _ o _ => [0x0020, 0x1010, 0x2018, 0x4000, 0x4008].contains o
  | .complementWrite _ o _ => [0x0024, 0x1014, 0x201C, 0x4004, 0x400C].contains o
  | .mbxQctlWrite r _ => r.val != 0
  | .mgmtCommandWrite _ e _ => e.length = 64
  | .tclr .. | .tlda .. | .tldb .. | .mcastLoadRead .. | .tcrd .. | .tmma .. | .tmmat .. | .tst .. | .tsync ..
  | .tsyncToken .. | .engineReload .. | .steal .. | .run .. | .setbnd .. | .wait .. | .endProg ..
  | .commandComplete .. | .fusedTileChain .. | .beatBoundary .. | .beatInEdge .. | .beatMiss .. | .slotCredit ..
  | .slotAck .. | .beatCommit .. | .overrun .. | .stepDone .. | .period .. | .periodTimeout .. | .veLaunch ..
  | .vadd .. | .vsub .. | .vmul .. | .vfma .. | .vmin .. | .vmax .. | .vcmp .. | .vsel .. | .vaddw .. | .vmulw ..
  | .vnrmw .. | .vcvtw .. | .vcvtf .. | .vaddi .. | .vaddl .. | .vlogi .. | .vcvti .. | .vred .. | .vredw ..
  | .vrmax .. | .vfirstf .. | .vperm .. | .vbcast .. | .vsfu .. | .sfuGrant .. | .vsmx .. | .vrms .. | .vld ..
  | .vst .. | .vgath .. | .vscat .. | .vfence .. | .smovi .. | .sadd .. | .smul .. | .br .. | .veSetbnd ..
  | .vrange .. | .vend .. | .attentionBlockStep .. | .attentionBackwardStep .. | .ringStepEnd ..
  | .transferRequestIssue .. | .mcastFetchIssue .. | .requestReturn .. | .transferResume .. | .channelRetire ..
  | .scrubGranule .. | .scrubForced .. | .scrubPositionSave | .moveStart .. | .moveComplete .. | .anchorRecall ..
  | .bar2HoldTimeout | .codecEncodeSlot .. | .codecDecodeSlot .. | .linkTrainingStart .. | .negotiationRecord ..
  | .linkFault .. | .retrainAttemptEnd .. | .tAckTimer .. | .retransmitTimeout .. | .flowContextClose ..
  | .heartbeatSend | .fabCongest .. | .mule .. | .freeze .. | .collTrigger .. | .collPacket .. | .collTimeout ..
  | .oxGranule .. | .localReplay .. | .replayComplete .. | .refereePackage .. | .refereeRunEnd .. | .refereeResult ..
  | .refereeReoffer .. | .refereeLost .. | .gooseFail | .testGranule .. | .testOverdue .. | .cperSummary
  | .faultLogWrite | .mediaFrameDecode .. | .mediaConceal .. | .mediaOverload .. | .cmdSlow | .mbxOverload ..
  | .msixCoalesce .. | .dblCmd .. | .dblCpl .. | .dblEvt .. | .pcieReset | .guardExpire .. | .moduleReset ..
  | .orderlyOff .. | .flashUnlock .. | .fuseCommit .. | .idRoleWrite .. | .evtStatusWrite .. | .pwrCapWrite ..
  | .wideSelLoWrite .. | .wideFetchDone | .powerGood .. | .muleStart | .foalEntry | .hbmTrainingDone ..
  | .serviceFull .. | .inputLoss | .inputOvervoltage | .converterFault | .thermalTrip .. | .powerManagerTick ..
  | .thermalLimitTick | .holdupSample .. | .telemetrySample .. | .perstAssert | .perstDeassert | .freezeIn ..
  | .mgmtResponseRead .. | .mgmtOutputRead .. | .mgmtStatusRead | .mgmtAddressAssign .. | .jtagInstruction ..
  | .lanesLocked .. | .negotiationRecordSend .. | .retrainAttemptStart .. | .ff2Response .. | .fabricHoldExpiry
  | .muleSramUe | .flashOpDone .. | .islandStop => true

end Sys2Proof
end

