-- ==== Sys2Proof/Tests/Slice0.lean ====
section
/-! SUPPORT. Tests: an ill-formed command for each check, for every statement states and operands that meet its hypotheses, and
small runs of one command whose results are worked out by hand from the manual. -/

open Sys2Proof Sys2Proof.Machine

namespace Sys2Proof.Tests

set_option Elab.async false

/-! ## Small states -/

/-- `n` bytes with each value placed at its bit: the form of every record and descriptor. -/
def lay (n : Nat) (fs : List (Nat × Nat)) : List Byte := toBytes n ((fs.map (fun p => p.2 <<< p.1)).sum)

/-- The module in full service. -/
def on : State := { State.reset with sys := { State.reset.sys with service := .full, muleUp := true, hbmTrained := true, fabricReady := true } }

/-- A 128-bit word with each value placed at its bit. -/
def word (fs : List (Nat × Nat)) : BitVec 128 := BitVec.ofNat 128 ((fs.map (fun p => p.2 <<< p.1)).sum)

/-- The state a command leaves. -/
def after : Host.Outcome State Fault Refusal → State
  | .next t => t
  | _ => State.reset

/-- A stage that fills its cluster's store. -/
def plainStage : Stage :=
  { number := 1, storeBase := 0, storeSize := 0x400000, ins := Vector.replicate 2 {}, outs := Vector.replicate 2 {}, inWin := 0,
    outWin := 0, programs := Vector.replicate 4 [], schedule := [0], planTime := 1000 }

/-- Cluster 0 runs beat 5 of a J0 stage with a program, descriptor 0 and commands. -/
def beating (prog : List (BitVec 64)) (desc : List Byte) (cmds : List Cmd := []) (s : State := on) : State :=
  s.updSeq 0 .j0 (fun q => { q with
    descs := q.descs.set 0 desc
    stage := some { plainStage with
      programs := plainStage.programs.set 0 prog
      run := some { beat := 5, entry := 0, cmds := cmds } } })

/-! ## The step, reset and the invariants -/

/-- A state with one command waiting steps as the command; the reset state idles for 1 ns. -/
theorem test_step_idle : (after (step State.reset)).now = 1 ∧ (after (step State.reset)).mem = State.reset.mem := by decide +kernel

/-- The reset state meets the premises of both step invariants and of an idle step. -/
theorem witness_invariants : (Mem.wf 0 State.reset.mem.mem = true ∧ Mem.wf 0 State.reset.mbx.hostMem = true ∧
    Mem.wf 0xFF State.reset.ident.flash = true ∧ ∀ c : Cl, Mem.wf 0 (State.reset.clusters.get c).store = true) ∧
    State.reset.evtOk ∧ State.reset.capOk ∧ State.reset.regs.wideFetch.isSome = false ∧ State.reset.pending = [] ∧
    State.reset.mbx.started = [] := by
  unfold State.evtOk State.capOk; decide +kernel

/-! ## Matrix engines -/

/-- Engine 0 of cluster 0 with one instruction in its queue. -/
def eng (w : BitVec 128) (f : Engine → Engine := id) : State :=
  on.updEngine 0 0 (fun k => f { k with queue := [{ word := w, ctx := .j0, desc := 0, group := 0 }] })

/-- That engine is ready for its head. -/
theorem ready (w : BitVec 128) (f : Engine → Engine)
    (h : (eng w f).clusterUp 0 = true ∧ (((eng w f).clusters.get 0).engines.get 0).fenced = false ∧
      (((eng w f).clusters.get 0).engines.get 0).stopped = none ∧
      (((eng w f).clusters.get 0).engines.get 0).queue = [{ word := w, ctx := .j0, desc := 0, group := 0 }] ∧
      illegal (((eng w f).clusters.get 0).engines.get 0) w = none) :
    EngineReady (eng w f) 0 0 { word := w, ctx := .j0, desc := 0, group := 0 } [] :=
  ⟨h.1, h.2.1, h.2.2.1, h.2.2.2.1, h.2.2.2.2⟩

/-- TCLR of accumulator 3; TCRD; TSYNC with the largest token. -/
def wClr : BitVec 128 := word [(0, 0x10), (11, 1)]
def wCrd : BitVec 128 := word [(0, 0x30), (8, 3), (32, 2 ^ 28 - 1), (60, 2 ^ 24 - 1)]
def wSync : BitVec 128 := word [(0, 0x70), (8, 7), (16, 0xFFFF)]

/-- INT8 loads of one K-block into half 1 from the last row that fits; a merged load of engines 0 and 15. -/
def wLda : BitVec 128 := word [(0, 0x20), (8, 1), (10, 0x0D), (15, 1), (26, 16), (33, 0x3FFE00), (77, 32), (109, 1)]
def wLdb : BitVec 128 := word [(0, 0x21), (8, 1), (10, 0x0D), (15, 1), (26, 64), (33, 0x3FF000), (77, 64), (109, 1)]
def wMcast : BitVec 128 := word [(0, 0x21), (10, 0x0D), (15, 8), (26, 64), (33, 0), (77, 64), (109, 0x8001)]

/-- TST of the whole accumulator 3 as BF16, ClearAfter set. -/
def wSt : BitVec 128 := word [(0, 0x60), (8, 3), (13, 1), (14, 1), (19, 16), (24, 64), (32, 0x3FF800), (76, 128)]

/-- INT8 × INT8 over one K-block from halves 1 and 1 with ZeroAcc, plain and transposed. -/
def wMma (op : Nat) : BitVec 128 := word [(0, op), (8, 2), (10, 1), (11, 1), (12, 1), (16, 0x0D), (21, 0x0D), (26, 1)]

/-- Halves 1 loaded with one row of ones and one column of ones. -/
def halves (tr : Bool) (k : Engine) : Engine :=
  let a : Half := { record := some ⟨0x0D, 1, false⟩, elems := [List.replicate 32 1], lines := 1, kValid := 32 }
  let b : Half := { a with record := some ⟨0x0D, 1, tr⟩, elems := if tr then [List.replicate 32 1] else List.replicate 32 [1] }
  { k with halfA := upd k.halfA 1 (fun _ => a), halfB := upd k.halfB 1 (fun _ => b) }

/-- Two engines that have both reached their copy of a merged load. -/
def merged : State :=
  let q : QEntry := { word := wMcast, ctx := .j0, desc := 0, group := 0, mc := 7 }
  (on.updEngine 0 0 (fun k => { k with queue := [q] })).updEngine 0 15 (fun k => { k with queue := [q] })

theorem witness_tile_clear : EngineReady (eng wClr) 0 0 { word := wClr, ctx := .j0, desc := 0, group := 0 } [] ∧ tw wClr 7 0 = opTclr :=
  ⟨ready _ _ (by decide +kernel), by decide⟩
theorem witness_tile_crd : EngineReady (eng wCrd) 0 0 { word := wCrd, ctx := .j0, desc := 0, group := 0 } [] ∧ tw wCrd 7 0 = opTcrd :=
  ⟨ready _ _ (by decide +kernel), by decide⟩
theorem witness_tile_sync : EngineReady (eng wSync) 0 0 { word := wSync, ctx := .j0, desc := 0, group := 0 } [] ∧ tw wSync 7 0 = opTsync :=
  ⟨ready _ _ (by decide +kernel), by decide⟩

/-- Illegal words: a cleared word, which every tile command finds, and a TCLR that names no accumulator; and a stopped engine. -/
theorem witness_tile_illegal : (eng 0).clusterUp 0 = true ∧
    tw (0 : BitVec 128) 7 0 ∉ tileOps ∧ illegal (((eng 0).clusters.get 0).engines.get 0) 0 = some 1 ∧
    tw (word [(0, 0x10)]) 7 0 = opTclr ∧ illegal (((eng 0).clusters.get 0).engines.get 0) (word [(0, 0x10)]) = some 7 ∧
    (((eng wClr (fun k => { k with stopped := some (0, 0, 1) })).clusters.get 0).engines.get 0).stopped.isSome = true := by decide +kernel

theorem witness_tile_lda : EngineReady (eng wLda) 0 0 { word := wLda, ctx := .j0, desc := 0, group := 0 } [] ∧
    tw wLda 7 0 = opTlda ∧ Fmt.ofCode (LoadW.of wLda).fmt = some .int8 := ⟨ready _ _ (by decide +kernel), by decide⟩
theorem witness_tile_ldb : EngineReady (eng wLdb) 0 0 { word := wLdb, ctx := .j0, desc := 0, group := 0 } [] ∧
    tw wLdb 7 0 = opTldb ∧ Fmt.ofCode (LoadW.of wLdb).fmt = some .int8 := ⟨ready _ _ (by decide +kernel), by decide⟩
theorem witness_tile_mcast : merged.clusterUp 0 = true ∧
    ((copiesAt merged 0 7).head?.map (·.2)) = some { word := wMcast, ctx := .j0, desc := 0, group := 0, mc := 7 } ∧
    ((copiesAt merged 0 7).map (fun p => 2 ^ p.1.val)).sum = (LoadW.of wMcast).engMask ∧
    Fmt.ofCode (LoadW.of wMcast).fmt = some .int8 := by decide +kernel
theorem witness_tile_st : EngineReady (eng wSt) 0 0 { word := wSt, ctx := .j0, desc := 0, group := 0 } [] ∧
    tw wSt 7 0 = opTst ∧ Fmt.ofCode (StoreW.of wSt).fmt = some .bf16 ∧ Mem.wf 0 ((eng wSt).clusters.get 0).store = true :=
  ⟨ready _ _ (by decide +kernel), by decide, by decide, by decide +kernel⟩
theorem witness_tile_mma : EngineReady (eng (wMma 0x40) (halves false)) 0 0 { word := wMma 0x40, ctx := .j0, desc := 0, group := 0 } [] ∧
    tw (wMma 0x40) 7 0 = opTmma ∧ Fmt.ofCode (tw (wMma 0x40) 20 16) = some .int8 ∧ Fmt.ofCode (tw (wMma 0x40) 25 21) = some .int8 :=
  ⟨ready _ _ (by decide +kernel), by decide⟩
theorem witness_tile_mmat : EngineReady (eng (wMma 0x41) (halves true)) 0 0 { word := wMma 0x41, ctx := .j0, desc := 0, group := 0 } [] ∧
    tw (wMma 0x41) 7 0 = opTmmat := ⟨ready _ _ (by decide +kernel), by decide⟩

/-- 32 INT8 products 1 × 1 added to nothing, and to 1.0, in a cell (R43, R75): 32.0, and 33.0. -/
theorem test_tmma_cell :
    (macCell (pairG .int8 .int8) true 0x3F800000 (List.replicate 32 (Fmt.int8.scaledVal 1 0)) (List.replicate 32 (Fmt.int8.scaledVal 1 0))).1 =
      0x42000000 ∧
    (macCell (pairG .int8 .int8) false 0x3F800000 (List.replicate 32 (Fmt.int8.scaledVal 1 0)) (List.replicate 32 (Fmt.int8.scaledVal 1 0))).1 =
      0x42040000 := by decide +kernel
/-- TCLR leaves the queue empty and clears accumulator 3; TSYNC posts its token. -/
theorem test_tclr : (((after (exec (.tclr 0 0 .none) (eng wClr (fun k => { k with acc := upd k.acc 3 (fun a => { a with suspect := true }) })))
    ).clusters.get 0).engines.get 0).queue = [] ∧
    ((((after (exec (.tclr 0 0 .none) (eng wClr (fun k => { k with acc := upd k.acc 3 (fun a => { a with suspect := true }) })))
    ).clusters.get 0).engines.get 0).acc.get 3).suspect = false := by decide +kernel
theorem test_tsync : ((((after (exec (.tsync 0 0 .none) (eng wSync))).clusters.get 0).engines.get 0).tokens.map (·.value)) = [0xFFFF] := by
  decide +kernel
/-- A cleared word stops the engine with condition 1 of R87. -/
theorem test_tile_illegal : (((after (exec (.tst 0 0 .none) (eng 0))).clusters.get 0).engines.get 0).stopped = some (0, 0, 1) := by decide +kernel

/-! ## Sequencer -/

/-- Level record `i`: plan, Step and Dim; `b` takes the extent from bound register 31. -/
def lvl (i plan step dim : Nat) (b : Bool := false) : List (Nat × Nat) :=
  let p := 8 * (0x40 + 32 * i)
  [(p, plan), (p + 24, 31), (p + 29, b2n b), (p + 32, step), (p + 48, dim), (p + 50, i)]

/-- A descriptor of a kind with three levels (rows, columns, K), every engine, and some further fields. -/
def desc3 (kind : Nat) (bound : Bool) (more : List (Nat × Nat) := []) : List Byte :=
  lay 256 ([(0, 1), (8, 3), (12, kind), (28, 0xFFFF)] ++ lvl 0 16 16 0 bound ++ lvl 1 64 64 1 ++ lvl 2 64 32 2 ++ more)

/-- RUN of descriptor 0; SETBND of register 31; WAIT; END. -/
def eRun : BitVec 64 := 1
def eSetbnd : BitVec 64 := 0x00FFFFFF1F000002
def eWait : BitVec 64 := 3
def eEnd : BitVec 64 := 4

/-- Bound register 31 of J0 on cluster 0. -/
def bound31 (n : Nat) (s : State) : State := s.updSeq 0 .j0 (fun q => { q with bnd := upd q.bnd 31 (fun _ => BitVec.ofNat 24 n) })

/-- What every clause of the RUN statement asks beside the descriptor. -/
def RunsAt (s : State) : Prop :=
  s.entry 0 .j0 = some (ProgEnt.of eRun) ∧ (ProgEnt.of eRun).op = 1 ∧ (ProgEnt.of eRun).desc = 0 ∧ (s.run 0 .j0).isSome = true ∧
    s.cmd 0 .j0 0 = none

/-- The extents a RUN of descriptor 0 takes. -/
def ext0 (s : State) : List Nat := (s.desc 0 .j0 0).extents ((s.clusters.get 0).seq.get .j0).bnd

/-- A level whose bound register holds 0; a plan reached exactly; one element beyond the plan. -/
theorem witness_run_empty : let s := beating [eRun] (desc3 1 true)
    RunsAt s ∧ (s.desc 0 .j0 0).shapeOver (ext0 s) = none ∧ extEmpty (ext0 s) = true := by unfold RunsAt; decide +kernel
theorem witness_run_nest : let s := bound31 16 (beating [eRun] (desc3 1 true))
    RunsAt s ∧ (s.desc 0 .j0 0).shapeOver (ext0 s) = none ∧ extEmpty (ext0 s) = false ∧ (s.desc 0 .j0 0).kind = 1 ∧
      s.enginesIn 0 (s.desc 0 .j0 0).engMask ≠ [] := by unfold RunsAt; decide +kernel
theorem witness_run_over : let s := bound31 17 (beating [eRun] (desc3 1 true))
    RunsAt s ∧ (s.desc 0 .j0 0).shapeOver (ext0 s) = some 0 := by unfold RunsAt; decide +kernel
theorem witness_run_attention : let s := beating [eRun] (desc3 3 false)
    RunsAt s ∧ (s.desc 0 .j0 0).shapeOver (ext0 s) = none ∧ extEmpty (ext0 s) = false ∧ (s.desc 0 .j0 0).kind = 3 := by
  unfold RunsAt; decide +kernel
/-- An inbound transfer, and a transpose (direction 4) whose rows are whole tiles. -/
theorem witness_run_transfer : (let s := beating [eRun] (desc3 4 false);
    RunsAt s ∧ (s.desc 0 .j0 0).shapeOver (ext0 s) = none ∧ extEmpty (ext0 s) = false ∧ (s.desc 0 .j0 0).kind = 4 ∧
      (s.desc 0 .j0 0).xfer.dir = 0 ∧ (ext0 s).getD (s.desc 0 .j0 0).kLevel 0 % 8 = 0) ∧
    (let s := beating [eRun] (desc3 4 false [(8 * 0x1C + 64, 4)]);
    RunsAt s ∧ (s.desc 0 .j0 0).shapeOver (ext0 s) = none ∧ extEmpty (ext0 s) = false ∧ (s.desc 0 .j0 0).xfer.dir = 4 ∧
      ∀ l ∈ (s.desc 0 .j0 0).lvls[(s.desc 0 .j0 0).kLevel]?, (ext0 s).getD (s.desc 0 .j0 0).kLevel 0 % l.tile = 0) := by
  unfold RunsAt; decide +kernel

/-- SETBND, WAIT and END at the program counter. -/
theorem witness_entries : (((beating [eSetbnd] []).entry 0 .j0).map (·.op)) = some 2 ∧ (((beating [eWait] []).entry 0 .j0).map (·.op)) = some 3 ∧
    (((beating [eEnd] []).entry 0 .j0).map (·.op)) = some 4 ∧ ((beating [eEnd] []).run 0 .j0).isSome = true := by decide +kernel
theorem test_setbnd : (((after (exec (.setbnd 0 .j0) (beating [eSetbnd] []))).clusters.get 0).seq.get .j0).bnd.get 31 = 0xFFFFFF ∧
    (((after (exec (.setbnd 0 .j0) (beating [eSetbnd] []))).run 0 .j0).map (·.pc)) = some 1 := by decide +kernel

/-- A running matrix command with one group: its only tile stored in slot 0, its token sent. -/
def nest (own : Nat) (slot : SlotSt) (done : Bool) : Cmd :=
  { desc := 0, ctx := .j0, extents := [16, 64, 64], groups := [{ ord := 0, tiles := [⟨0, 0, 16, 64, [0, 0, 0], 0, 0, 0, 0⟩], owner := own, done := done }],
    slots := [slot], order := [0] }

theorem witness_complete : let s := beating [eRun] (desc3 1 false) [nest 0 .free true]
    (s.cmd 0 .j0 0).isSome = true ∧ s.clusterUp 0 = true ∧ (∀ k ∈ s.cmd 0 .j0 0, cmdFinished (s.desc 0 .j0 0) k = true) ∧
      s.replaysOpen 0 .j0 0 = false := by decide +kernel

/-- A tile with the codec; a stored tile with no VE step and with one. -/
theorem witness_chain : (let s := beating [eRun] (desc3 2 false) [nest 0 (.codec 0 0) true];
      (s.cmd 0 .j0 0).isSome = true ∧ s.clusterUp 0 = true ∧ (s.desc 0 .j0 0).kind = 2 ∧ ((nest 0 (.codec 0 0) true).tileAt 0 0).isSome = true) ∧
    (let s := beating [eRun] (desc3 2 false) [nest 0 (.stored 0 0) true];
      (s.cmd 0 .j0 0).isSome = true ∧ (s.desc 0 .j0 0).veEntry = 0) ∧
    (let s := beating [eRun] (desc3 2 false [(96, 5)]) [nest 0 (.stored 0 0) true];
      (s.cmd 0 .j0 0).isSome = true ∧ (s.desc 0 .j0 0).veEntry ≠ 0) := by decide +kernel

/-- A token on its way; a stopped engine whose queue holds an instruction of a running command. -/
theorem witness_token_reload : let q : QEntry := { word := 0, ctx := .j0, desc := 0, group := 0 }
    let s := (beating [eRun] (desc3 1 false) [nest 0 .free false]).updEngine 0 0 (fun k => { k with
      tokens := [{ ctx := .j0, desc := 0, group := 0, value := 0 }], queue := [q], stopped := some (0, 0, 1) })
    ((s.clusters.get 0).engines.get 0).tokens = [{ ctx := .j0, desc := 0, group := 0, value := 0 }] ∧
      (∀ g ∈ s.group? 0 .j0 0 0, g.unchecked = false) ∧ (s.group? 0 .j0 0 0).isSome = true ∧
      ((s.clusters.get 0).engines.get 0).stopped.isSome = true ∧ ((s.clusters.get 0).engines.get 0).queue = [q] ∧
      (s.cmd 0 .j0 0).isSome = true ∧ (∀ k ∈ s.cmd 0 .j0 0, k.xfer = none ∧ k.att = none) := by decide +kernel

/-- Engine 15 is idle; engine 0 holds the one unstarted group, which StealEn lets go. -/
theorem witness_steal : let s := beating [eRun] (desc3 1 false [(11, 1)]) [nest 0 .free false]
    s.clusterUp 0 = true ∧ ((s.clusters.get 0).engines.get 15).idle = true ∧ s.unstarted 0 15 = 0 ∧
      ((stealGroups (s.stealable 0 15) 0).map (fun p => p.2.tiles.length)).sum ≠ 0 := by decide +kernel

/-! ## The beat -/

/-- A state with a job open in J0 whose beat another device (7) sends. -/
def job (f : Job → Job := id) (s : State := on) : State :=
  s.updJob .j0 (fun j => f { j with isOpen := true, sender := 7, period := 64000, beatDelay := 500, members := [(1, 100), (7, 0)] })

def beatMsg (n : Nat) : BeatMsg := { beat := n, master := 7, step := 3, stepStart := true, periodNew := false, period := 0 }

/-- The first message; the number expected after beat 5; another number; this device as the sender, all started. -/
theorem witness_beat : (let j := (job).jobs.get .j0
      j.isOpen = true ∧ j.slip = false ∧ j.sender ≠ (job).ident.devNum ∧ (beatMsg 9).master = j.sender ∧ j.begun = false ∧ j.due = []) ∧
    (let j := (job (fun j => { j with begun := true, beat := 5 })).jobs.get .j0;
      j.begun = true ∧ j.expected = 6 ∧ j.missed = 0) ∧
    (let s := job (fun j => { j with sender := 1, master := 1, startIssued := true, startedBy := [1, 7] });
      (s.jobs.get .j0).sender = s.ident.devNum ∧ s.mayBeat .j0 = true ∧ s.pins.beatSrc = false) := by decide +kernel
theorem test_beat_slip : ((after (exec (.beat .j0 (beatMsg 7)) (job (fun j => { j with begun := true, beat := 5 })))).jobs.get .j0).slip = true ∧
    (((after (exec (.beat .j0 (beatMsg 6)) (job (fun j => { j with begun := true, beat := 5 })))).jobs.get .j0).due.map (·.at_)) = [some 500] := by
  decide +kernel

/-- The last step-done with no period asked for, and not the last; the last acknowledgement; a refusal; 1 ms and just short of it. -/
theorem witness_step_done : (let j := (job (fun j => { j with sender := 1, stepDone := [7] })).jobs.get .j0
      j.isOpen = true ∧ j.sender = on.ident.devNum ∧ 1 ∉ j.stepDone ∧ j.members.all (fun m => (1 :: j.stepDone).contains m.1) = true ∧
        j.proposals = [] ∧ j.requested = none) ∧
    (let j := (job (fun j => { j with sender := 1 })).jobs.get .j0;
      j.members.all (fun m => (1 :: j.stepDone).contains m.1) = false) ∧
    (let j := (job (fun j => { j with sender := 1, neg := some { candidate := 64000, acks := [7], sentAt := 0 } })).jobs.get .j0;
      j.members.all (fun m => (1 :: [7]).contains m.1) = true ∧ (j.neg.map (·.refusedBy)) = some none) ∧
    ({ job with now := 1000000 } : State).now = 0 + 1000000 := by decide +kernel

/-- A message whose time is now; one that waits for an edge since 2 µs before; a device that has waited to the limit of R141. -/
theorem witness_boundary : (let s := { job (fun j => { j with due := [⟨beatMsg 6, 0, some 500⟩] }) with now := 500 }
      (s.jobs.get .j0).due = [⟨beatMsg 6, 0, some 500⟩] ∧ 500 ≤ s.now) ∧
    (let s := { job (fun j => { j with due := [⟨beatMsg 6, 0, none⟩] }) with now := 2000, pins := { on.pins with beatSrc := true } };
      s.pins.beatSrc = true ∧ (s.jobs.get .j0).due = [⟨beatMsg 6, 0, none⟩] ∧ 0 + 2000 ≤ s.now) ∧
    (let s := { job (fun j => { j with begun := true, arrivedAt := 0 }) with now := 65000 };
      (s.jobs.get .j0).begun = true ∧ (s.jobs.get .j0).due = [] ∧
        (s.jobs.get .j0).arrivedAt + (s.jobs.get .j0).period + max 1000 (s.jobs.get .j0).beatDelay ≤ s.now) := by decide +kernel
theorem test_edge_short : exec (.beatInEdge 19) State.reset = .next State.reset := rfl

/-- Cluster 0's stage with input 0 and output 0 of 4,096-byte slots, the producer another device, two consumers. -/
def linked (o : OutSt := .free) (credits : List Nat := [1, 0]) (f : StageIn → StageIn := id) : State :=
  let s := on.updSeq 0 .j0 (fun q => { q with stage := some plainStage })
  let s := s.updIn 0 .j0 0 (fun q => f { q with used := true, slotBytes := 4096, prodDev := 9, slots := q.slots.set 2 .filling })
  s.updOut 0 .j0 0 (fun k => { k with
    used := true, slotBytes := 4096, slotBase := 0x8000, consumers := [⟨1, 1, 0⟩, ⟨2, 1, 0⟩], credits := credits, slots := k.slots.set 1 o })

/-- A header of the next MbIdx whose payload just fits; one byte more does not; an empty packet. -/
def hdr (isEmpty : Bool) (payload : Nat) : List Byte := hoBytes 5 isEmpty false .j0 false 3 0 payload 0 []

theorem witness_header : (let q := (linked).inp 0 .j0 0
      q.used = true ∧ q.slots.get 0 = .free ∧ q.slots.get 2 = .filling ∧ decide (q.prodDev = (linked).ident.devNum) = false ∧
        (HoHdr.of (hdr false 4032)).payload + 64 ≤ q.slotBytes ∧ ¬ (HoHdr.of (hdr false 4033)).payload + 64 ≤ q.slotBytes ∧
        (HoHdr.of (hdr false 4032)).mb = q.nextLand ∧ (HoHdr.of (hdr false 4032)).ctx = ctxNo .j0 ∧
        (HoHdr.of (hdr false 4032)).crcOk = true ∧ (HoHdr.of (hdr true 0)).isEmpty = true ∧ (HoHdr.of (hdr true 0)).payload = 0) ∧
    ((linked).inp 0 .j0 0).nextMb ≤ 0 ∧ 0 ∉ ((linked).inp 0 .j0 0).overrun := by decide +kernel

/-- A credit with nothing held; one that frees the packet held; the last acknowledgement of two. -/
theorem witness_credit : ((linked).outp 0 .j0 0).consumers.length = 2 ∧ (∀ i b m, ((linked).outp 0 .j0 0).slots.get i ≠ .held b m) ∧
    ((linked (.held 5 0)).outp 0 .j0 0).slots.get 1 = .held 5 0 ∧ ((linked (.held 5 0)).outp 0 .j0 0).slots.get 0 = .free ∧
    (∀ v ∈ ((linked (.held 5 0)).outp 0 .j0 0).credits.modify 1 (fun v => min 3 (v + 1)), v ≠ 0) ∧
    ((linked (.sending 5 0 [0])).outp 0 .j0 0).slots.get 1 = .sending 5 0 [0] ∧ 1 ∉ [0] := by
  refine ⟨by decide +kernel, ?_, by decide +kernel⟩
  intro i b m
  have h : ∀ i : Fin 2, ((linked).outp 0 .j0 0).slots.get i = .free := by decide +kernel
  rw [h i]; exact OutSt.noConfusion
theorem test_ack : ((after (exec (.slotAck 0 .j0 0 1 1) (linked (.sending 5 0 [0])))).outp 0 .j0 0).slots.get 1 = .free := by decide +kernel

/-- A beat that may commit: it has ended and nothing stands before it; and one that has not ended. -/
theorem witness_commit : let s := beating [] []
    s.committable 0 .j0 = none ∧
    ((s.updRun 0 .j0 (fun r => { r with ended := true })).updJob .j0 (fun j => { j with isOpen := true, begun := true, beat := 5 })).committable 0 .j0
      ≠ none := by decide +kernel

/-! ## Vector engine -/

/-- The launch thread 0 of cluster 0 runs, and a command it serves. -/
def l0 : Launch := { ctx := .j0, desc := 0, entry := 0, scalars := [], ord := 0 }
def veCmd : Cmd := { desc := 0, ctx := .j0, extents := [], launches := 1 }

/-- Thread 0 of cluster 0 stands at a word. -/
def ve (w : BitVec 64) (f : Thread → Thread := id) (s : State := beating [] [] [veCmd]) : State :=
  (s.updSeq 0 .j0 (fun q => { q with imem := [(0, w)] })).updThread 0 0 (fun k => f { k with active := true, launch := some l0 })

theorem ready_ve (w : BitVec 64) : VeReady (ve w) 0 0 l0 (VeW.of w) := ⟨rfl, rfl, rfl, rfl, show 0 < imemSize by decide, rfl⟩

/-- A VE word with each value placed at its bit. -/
def vw (fs : List (Nat × Nat)) : BitVec 64 := BitVec.ofNat 64 ((fs.map (fun p => p.2 <<< p.1)).sum)

/-- Every opcode of R177 is a word's, with every other field 0: the boundary of Fn, Rnd, Seg, Cond and the reserved bits from below; no
item, strike or suspicion stands against the thread. -/
theorem witness_ve_forms : (∀ op ∈ veOps, (VeW.of (vw [(0, op)])).op = op ∧ (VeW.of (vw [(0, op)])).rnd = 0 ∧ (VeW.of (vw [(0, op)])).rsv = 0 ∧
      (VeW.of (vw [(0, op)])).fn = 0 ∧ (VeW.of (vw [(0, op)])).vc = 0 ∧ segLen (VeW.of (vw [(0, op)])).seg = some 8) ∧
    (ve 0).itemOf .launch 0 .j0 0 0 = none ∧ (ve 0).strikesOf (veUnit 0) = 0 ∧ ((ve 0).thread 0 0).suspect = false ∧
    ((ve 0).thread 0 0).replay = none ∧ ((ve 0).cmd 0 .j0 0).isSome = true := by decide +kernel

/-- Boundaries: the last comparison and logic function, the last SFU function, both roundings, the longest segment; VCVTI's two functions. -/
theorem witness_ve_bounds : (VeW.of (vw [(0, 0x07), (59, 5)])).fn = 5 ∧ (VeW.of (vw [(0, 0x1A), (59, 5)])).fn = 5 ∧
    (VeW.of (vw [(0, 0x30), (59, 8)])).fn = 8 ∧ (VeW.of (vw [(0, 0x14), (35, 1)])).rnd = 1 ∧ segLen (VeW.of (vw [(0, 0x20), (38, 4)])).seg = some 128 ∧
    (VeW.of (vw [(0, 0x1B), (59, 1)])).fn = 1 ∧ (VeW.of (vw [(0, 0x1B)])).fn = 0 := by decide

/-- A branch: each condition holding and not, in both registers 0; forward to the last word and back by one from 0. -/
theorem witness_branch : (VeW.of (vw [(0, 0x58), (20, 4), (32, 8191)])).cond = 4 ∧ (VeW.of (vw [(0, 0x58), (20, 4), (32, 8191)])).imm = 8191 ∧
    (VeW.of (vw [(0, 0x58), (20, 2)])).cond = 2 ∧ (VeW.of (vw [(0, 0x58), (32, 0xFFFFFFFF)])).imm = -1 ∧
    ((ve 0).thread 0 0).sreg 1 = ((ve 0).thread 0 0).sreg 0 ∧ ((ve 0).thread 0 0).pc = 0 := by decide +kernel

/-- SETBND's operand at its limit and beyond; SFU: one waiting request of the last lane. -/
theorem witness_setbnd : ((2 : Nat) ^ 24 - 1 < 2 ^ 24) ∧ (VeW.of (vw [(0, 0x59), (12, 15)])).sSa = 15 ∧
    (((ve 0 (fun k => { k with s := k.s.set 15 (2 ^ 24) })).thread 0 0).sreg 15).toNat = 2 ^ 24 ∧
    (((ve 0 (fun k => { k with s := k.s.set 15 (2 ^ 24 - 1) })).thread 0 0).sreg 15).toNat < 2 ^ 24 := by decide +kernel
theorem witness_sfu : let r : SfuReq := { thread := 0, lane := 127, fn := 0, arg := 0, vd := 31 };
    let s := (ve 0).updCluster 0 (fun k => { k with sfuQ := [r], sfuBusy := 31 });
    s.clusterUp 0 = true ∧ (s.clusters.get 0).sfuQ = [r] ∧ (s.clusters.get 0).sfuBusy < 32 ∧ r.lane < 128 ∧ r.vd < 32 := by decide +kernel

/-- Words that R183 refuses: no opcode, reserved functions, rounding, segment and bits. -/
theorem witness_ve_fault : (VeW.of 0).op ∉ veOps ∧ 5 < (VeW.of (vw [(0, 0x07), (59, 6)])).fn ∧ 2 ≤ (VeW.of (vw [(0, 0x14), (35, 2)])).rnd ∧
    5 < (VeW.of (vw [(0, 0x1A), (59, 6)])).fn ∧ segLen (VeW.of (vw [(0, 0x20), (38, 5)])).seg = none ∧ 8 < (VeW.of (vw [(0, 0x30), (59, 9)])).fn ∧
    (VeW.of (vw [(0, 0x50), (24, 1)])).rsv ≠ 0 := by decide

/-- FP32 accesses of the last lane: loads and stores to the store's last 4 bytes, gathers whose offsets are 0. -/
theorem witness_ve_memory : ∀ p ∈ [(0x40, (⟨false, false⟩ : MemForm)), (0x41, ⟨true, false⟩), (0x42, ⟨false, true⟩), (0x43, ⟨true, true⟩)],
    let w := VeW.of (vw [(0, p.1), (43, 1), (28, 1)]);
    let s := ve (vw [(0, p.1), (43, 1), (28, 1)]) (fun k => { k with
      s := k.s.set 1 (BitVec.ofNat 64 (0x400000 - 512)), m := k.m.set 1 (BitVec.ofNat 128 (2 ^ 127)) });
    w.op = p.1 ∧ w.space = false ∧ memIllegal p.2 w = false ∧ Fmt.ofCode w.fmt = some .fp32 ∧ memMisaligned p.2 w (s.thread 0 0) .fp32 = false ∧
      (∀ a ∈ memBytes p.2 w (s.thread 0 0) .fp32, s.inRegion 0 .j0 a = true) ∧ (s.thread 0 0).suspect = false ∧
      queueFull ((s.clusters.get 0).seq.get .j0).remoteWrites [] = false ∧ Mem.wf 0 (s.clusters.get 0).store = true := by decide +kernel

/-- A party's object of 2 MiB at the base of the scratchpad. -/
def owned (x : Nat) (s : State := on) : State :=
  { s with mem := { s.mem with
      llm := { s.mem.llm with es := 1 }
      objs := [{ index := 1, gen := 1, owner := x, tier := 2, size := 0x200000, home := scratchBase }]
      pages := [{ base := scratchBase, size := 0x200000, owner := ⟨1, x⟩, st := .owned }] } }

/-- One lane's FP32 load from device-local memory whose line is cached, and whose line is not. -/
theorem witness_ve_external : let w := VeW.of (vw [(0, 0x40), (41, 1), (28, 1), (43, 1)]);
    let s := ve (vw [(0, 0x40), (41, 1), (28, 1), (43, 1)]) (fun k => { k with m := k.m.set 1 1, s := k.s.set 1 (BitVec.ofNat 64 scratchBase) })
      (owned 0 (beating [] [] [veCmd]));
    let t := s.updCluster 0 (fun k => { k with cache := [{ line := scratchBase / 128 }] });
    w.op = 0x40 ∧ w.space = true ∧ w.fmt = 0 ∧ w.vc = 0 ∧ w.raw = false ∧ ((s.thread 0 0).sreg w.sa).toNat % 8 = 0 ∧
      memBytes ⟨false, false⟩ w (s.thread 0 0) .fp32 = [scratchBase, scratchBase + 1, scratchBase + 2, scratchBase + 3] ∧
      (∀ a ∈ memBytes ⟨false, false⟩ w (s.thread 0 0) .fp32, s.isLocal a = true ∧ s.poisoned (localOff a) 1 = false) ∧
      s.localAccess (s.party .j0) false (memBytes ⟨false, false⟩ w (s.thread 0 0) .fp32) = .ok ∧
      (t.clusters.get 0).cache.any (·.line = localOff scratchBase / 128) = true ∧ (s.clusters.get 0).cache = [] ∧ 0 < s.vePlaces 0 := by decide +kernel
theorem witness_ve_pf : (on.updJob .j0 (fun j => { j with pfDepth := 0 })).pfDepth .j0 = 0 := by decide +kernel

/-- A row block of one FP32 element at offset 0, read at 64 and written at 128, for VSMX and, with a gain at 192, for VRMS. -/
theorem witness_rows : ∀ g ∈ [0, 1], let b := lay 64 [(0, 64), (32, 128), (8 * 0x10, 1), (8 * 0x10 + 17, 1), (8 * 0x28, 192 * g), (8 * 0x28 + 22, g)];
    let s := (ve 0).updCluster 0 (fun k => { k with store := (b.zipIdx.map (fun p => (p.2, p.1))).filter (fun p => p.2 != 0) });
    let r := RowBlk.of (s.csRdW 0 .j0 0 64);
    (∀ k < 64, s.inRegion 0 .j0 (0 + k) = true) ∧ Fmt.ofCode r.dstFmt = some .fp32 ∧ r.illegal (g = 1) = false ∧ r.src = 64 ∧ r.dst = 128 ∧
      r.src % 8 = 0 ∧ r.dst % 8 = 0 ∧ r.srcStride % 8 = 0 ∧ r.dstStride % 8 = 0 ∧ (r.gainUse = true → r.gain % 8 = 0) ∧
      (∀ p ∈ r.ranges .fp32 (g = 1), s.inRegion 0 .j0 p.1 = true ∧ s.inRegion 0 .j0 (p.1 + p.2 - 1) = true) := by decide +kernel

/-- A launch that waits with thread 0 busy; a line in flight that may be read. -/
theorem witness_launch_fill : (let s := (ve 0).updCluster 0 (fun k => { k with launchQ := [l0] });
      s.clusterUp 0 = true ∧ (s.clusters.get 0).launchQ = [l0] ∧ (∀ u, u < 1 → ((s.clusters.get 0).threads.get u).active = true) ∧
        ((s.clusters.get 0).threads.get 1).active = false) ∧
    (let s := (owned 0).updCluster 0 (fun k => { k with inFlight := [{ line := scratchBase / 128 }] });
      (s.clusters.get 0).inFlight.find? (·.line = scratchBase / 128) = some { line := scratchBase / 128 } ∧ s.mapped (128 * (scratchBase / 128)) = true ∧
        s.poisoned (128 * (scratchBase / 128)) 128 = false) := by decide +kernel

/-- 1.0 + 2^-24 rounds to 1.0 (ties to even), and 3 × 0.5 is 1.5. -/
theorem test_fp32 : f32Add 0x3F800000 0x33800000 = 0x3F800000 ∧ f32Mul 0x40400000 0x3F000000 = 0x3FC00000 := by decide +kernel
/-- WX32: 1.0 × 1.0 = 1.0 and 1.0 + 1.0 = 2.0, exponents biased by 16,383 (R34); the comparisons and logic functions of R177. -/
theorem test_wx : (wxMul 0x3FFF0000 0x3FFF0000).1 = 0x3FFF0000 ∧ (wxAdd 0x3FFF0000 0x3FFF0000).1 = 0x40000000 := by decide +kernel
/-- -1 < +0, and a comparison with NaN is false but for not-equal. -/
theorem test_cmp : cmpF 2 0xBF800000 0 = true ∧ cmpF 2 0x7FC00000 0 = false ∧ cmpF 1 0x7FC00000 0 = true := by decide +kernel

/-! ## Attention, key/value memory and transfers -/

/-- A descriptor of an attention command with MXFP4 keys and HeadDim 64 on sequence 0. -/
def attDesc (mode : Bool) : List Byte :=
  desc3 3 false [(8 * 0xE0 + 14, b2n mode), (8 * 0xE0 + 16, 9), (8 * 0xE0 + 21, 1), (8 * 0x10, 1), (8 * 0x28, 1)]

/-- The walker's entry for the sequence's page 0, at frame 0. -/
def lab0 : LabEntry := { ctx := .j0, seq := 0, vpn := 0, frame := scratchBase, dev := 0, far := false, w := true }

/-- A step over `n` keys is next on cluster 0. -/
def attState (mode : Bool) (n : Nat) : State :=
  let c : Cmd := { desc := 0, ctx := .j0, extents := [16, 64, n], att := some { steps := [([0, 0, 0], true, false)] } }
  let s := owned 0 (beating [] (attDesc mode) [c])
  { s with mem := { s.mem with labs := s.mem.labs.set 0 [lab0], seqs := ⟨[(0, ⟨.j0, 16, 0, 65536⟩)], []⟩ } }

theorem witness_attention : ∀ mode ∈ [false, true], let s := attState mode 64;
    let d := s.desc 0 .j0 0;
    (s.cmd 0 .j0 0).isSome = true ∧ s.clusterUp 0 = true ∧ s.itemOf .attStep 0 .j0 0 0 = none ∧ d.att.mode = mode ∧
      Fmt.ofCode d.a.fmt = some .bf16 ∧ Fmt.ofCode d.att.kvFmt = some .mxfp4 ∧ Fmt.ofCode d.att.pFmt = some .bf16 ∧
      Fmt.ofCode d.out.fmt = some .bf16 ∧ s.enginesIn 0 d.engMask ≠ [] ∧ (d.attKeys [16, 64, 64] [0, 0, 0]).2 = 32 := by decide +kernel

/-- What a read gave is bytes. -/
def isBytes : KvRead → Bool
  | .bytes _ => true
  | _ => false

/-- The one tile of keys and values of that step can be read through the look-aside buffer. -/
theorem witness_attention_read : let s := attState false 64;
    (readTiles s 0 .j0 0 [(s.desc 0 .j0 0).att.tileVa .mxfp4 0] 16 []).2.all isBytes = true := by decide +kernel

/-- A page walk that finds the directory and leaf of an address just below the limit; one whose directory entry is empty; both of J0. -/
def walkState (dir pte : Nat) : State :=
  let s := owned 0
  { s with mem := { s.mem with
      mem := (((toBytes 8 dir).zipIdx.map (fun (p : Byte × Nat) => (scratchBase + p.2, p.1))) ++ ((toBytes 8 pte).zipIdx.map (fun (p : Byte × Nat) => (scratchBase + 4096 + 8 + p.2, p.1)))).filter
        (fun (p : Nat × Byte) => p.2 != 0)
      seqs := ⟨[(0, ⟨.j0, 16, scratchBase, 131072⟩)], []⟩ } }

theorem witness_walk : (let s := walkState (1 + scratchBase + 4096) 3;
      s.clusterUp 0 = true ∧ s.seqRec .j0 0 = some ⟨.j0, 16, scratchBase, 131072⟩ ∧ (131071 : Nat) < 131072 ∧ s.ringOwned .j0 0 131071 = false ∧
        (131071 : Nat) / 2 ^ 16 = 1 ∧ (s.mem.labs.get (walkerOf 0)) = [] ∧ s.access (s.party .j0) scratchBase 8 = .ok ∧ s.poisoned scratchBase 8 = false ∧
        (ofBytes (s.rd scratchBase 8)).testBit 0 = true ∧ bits (ofBytes (s.rd scratchBase 8)) 47 12 * 4096 + 8 * 1 = (scratchBase + 4104) ∧
        s.access (s.party .j0) (scratchBase + 4104) 8 = .ok ∧ s.poisoned (scratchBase + 4104) 8 = false ∧ (ofBytes (s.rd (scratchBase + 4104) 8)).testBit 0 = true ∧
        (ofBytes (s.rd (scratchBase + 4104) 8)).testBit 1 = true ∧ (ofBytes (s.rd (scratchBase + 4104) 8)).testBit 2 = false ∧ (ofBytes (s.rd (scratchBase + 4104) 8)).testBit 3 = false) ∧
    (ofBytes ((walkState 0 0).rd scratchBase 8)).testBit 0 = false := by decide +kernel
theorem test_walk : ((after (exec (.ponyWalk 0 .j0 0 131071 true false) (walkState (1 + scratchBase + 4096) 3))).mem.labs.get 0).map (fun e => (e.vpn, e.frame, e.w)) =
    [(1, 0, true)] := by decide +kernel

/-- A ring without gradients: a shard that is held and sent and whose releases are counted, the next passed on or not; and one still in use. -/
def ringState (rel : Nat) (passed sent : Bool) : State :=
  let g : KvRing := { id := 3, seq := 0, axis := 0, minus := false, n := 2, releaseCount := 2, shardBytes := 4096, buf := (0, 65536),
                      ranges := [((0, 0), (0, 0)), ((0, 0), (0, 0))], releases := rel, passed := passed, sent := sent }
  let s := job
  { s with mem := { s.mem with rings := ⟨[g], []⟩ } }

theorem witness_ring : ((ringState 2 false true).ring .j0 3).isSome = true ∧ (∀ g ∈ (ringState 2 false true).ring .j0 3,
      (ringState 2 false true).ringGrad .j0 g = false ∧ (ringState 2 false true).shardLanded .j0 g = true ∧ g.held = true ∧ g.releaseCount ≤ g.releases) ∧
    (∀ g ∈ (ringState 2 true true).ring .j0 3, g.passed = true ∧ (ringState 2 true true).shardLanded .j0 g = true) ∧
    (∀ g ∈ (ringState 1 false true).ring .j0 3, g.releases < g.releaseCount ∧ g.homing = false) ∧
    (∀ g ∈ (ringState 2 false false).ring .j0 3, (ringState 2 false false).shardLanded .j0 g = false) := by decide +kernel

/-- A transfer of one request and one tile of 64 bytes at the scratchpad's base, in each direction of R241. -/
def xferState (dir recv : Nat) (st : Nat) (held : Option (Nat × Nat) := none) (s : State := on) : State :=
  let t : Xfer := { desc := 0, tiles := [([0, 0, 0], scratchBase, 0, 64)], reqs := [{ tile := 0, ext := scratchBase, store := 0, len := 64, st := st, phys := scratchBase }], held := held }
  owned 0 (beating [] (desc3 4 false [(8 * 0x1C + 64, dir), (8 * 0x1C + 96, recv)]) [{ desc := 0, ctx := .j0, extents := [16, 64, 64], xfer := some t }] s)

theorem witness_issue : (let s := xferState 0 0 0;
      s.clusterUp 0 = true ∧ (s.cmd 0 .j0 0).isSome = true ∧ (s.desc 0 .j0 0).xfer.kv = false ∧ (s.desc 0 .j0 0).xfer.dir = 0 ∧
        (s.desc 0 .j0 0).xfer.recvMask = 0 ∧ 0 < s.xferPlaces 0 ∧ s.isLocal scratchBase = true) ∧
    ((xferState 3 0 0).desc 0 .j0 0).xfer.dir = 3 ∧ ((xferState 4 0 0).desc 0 .j0 0).xfer.dir = 4 ∧
    ((xferState 1 0 2).desc 0 .j0 0).xfer.dir = 1 := by decide +kernel

/-- A fetch that names cluster 1, whose paired receive is armed. -/
def mcState : State :=
  let t : Xfer := { desc := 0, tiles := [([0, 0, 0], 0, 0, 64)], reqs := [], armed := true }
  let d := desc3 4 false [(8 * 0x1C + 64, 2), (8 * 0x1C + 84, 0)]
  xferState 0 2 0 none (on.updSeq 1 .j0 (fun q => { q with
    descs := q.descs.set 0 d
    stage := some { plainStage with run := some { beat := 5, entry := 0, cmds := [{ desc := 0, ctx := .j0, extents := [], xfer := some t }] } } }))
theorem witness_mcast_fetch : let s := mcState;
    s.mcTargets 0 (s.desc 0 .j0 0) = [1] ∧ ((s.mcPair 0 .j0 0 1).bind (fun k => k.xfer.map Xfer.bytes)) = some 64 ∧
      s.stepOfCmd 1 .j0 0 = s.stepOfCmd 0 .j0 0 := by decide +kernel

/-- A request in flight whose bytes can be read, or whose page is Moving; a held fault that has been resolved, and one that has not. -/
theorem witness_return : (let s := xferState 0 0 1;
      s.isLocal scratchBase = true ∧ s.access (s.party .j0) (localOff scratchBase) 64 = .ok ∧ s.poisoned (localOff scratchBase) 64 = false) ∧
    (let s := xferState 0 0 1;
      let m := { s with mem := { s.mem with pages := [{ base := scratchBase, size := 0x200000, owner := ⟨1, 0⟩, st := .moving }] } };
      m.access (m.party .j0) (localOff scratchBase) 64 = .hold) ∧
    (xferState 0 0 0 (some (2, scratchBase))).resolved 0 .j0 0 (2, scratchBase) = true ∧ (xferState 0 0 0 (some (2, scratchBase + 0x200000))).resolved 0 .j0 0 (2, scratchBase + 0x200000) = false := by
  decide +kernel
theorem test_return : ((((after (exec (.requestReturn 0 .j0 0 0 [] 0) (xferState 0 0 1))).cmd 0 .j0 0).bind (·.xfer)).map (·.delivered)) = some 1 := by
  decide +kernel

/-! ## Device-local memory -/

/-- The location of address 0, and its channel fenced. -/
def ch0 : Chan := ((on.locate 0).map (·.ch)).getD 0
def fencedState : State := on.updChan ch0 (fun k => { k with fenced := true })
theorem witness_hbm : (on.locate 0).isSome = true ∧ 0 + 64 ≤ on.hbmEnd ∧ on.writeErr 0 64 = 0 := by decide +kernel
theorem witness_hbm_fenced : fencedState.writeErr 0 64 ≠ 0 ∧ Mem.wf 0 on.mem.mem = true := by decide +kernel

/-- Slice 0 holds granule 0; the objects of the three classes; an eighth that takes the context; a scratchpad eighth of J1. -/
def llmState (alloc : Nat) : State := { on with mem := { on.mem with
  objs := [{ index := 1, gen := 1, owner := 0, tier := 1, size := 0x200000, home := 0, alloc := alloc }] } }
theorem witness_llm : (0 : Nat) / 256 = (0 + 64 - 1) / 256 ∧ (∀ cls ∈ [0, 1, 2], (llmState cls).allocClass 0 = cls ∧
      (llmState cls).inScratch 0 = false ∧ (llmState cls).mem.llm.takes 7 (some .j0) = true) ∧
    ((upd on.mem.llm.slices 0 (fun _ => [({ gran := 0, eighth := 7 } : LlmLine)])).get 0).find? (·.gran = 0) = some { gran := 0, eighth := 7 } ∧
    (let s := { on with mem := { on.mem with llm := { on.mem.llm with es := 1, eighths := on.mem.llm.eighths.set 0 .j1 } } };
      s.inScratch scratchBase = true ∧ s.mem.llm.eighths.getD (eighthOf scratchBase) .both = .j1) := by decide +kernel

/-- An add of 64 bytes, the most; one that would cross a 64-byte line is no element of R292's; the same where a word is poisoned. -/
theorem witness_add : addLegal scratchBase .int64 64 = true ∧ addLegal (scratchBase + 62) .bf16 2 = true ∧ addLegal (scratchBase + 62) .bf16 4 = false ∧
    (owned 0).access ⟨1, 0⟩ scratchBase 64 = .ok ∧ (owned 0).poisoned scratchBase 64 = false ∧
    (let s := { owned 0 with mem := { (owned 0).mem with llm := { (owned 0).mem.llm with poison := [scratchBase / 8 + 7] } } };
      s.poisoned scratchBase 64 = true) := by decide +kernel
theorem test_int_add : AddType.int32.sum 0xFFFFFFFF 1 = (0, false, false) ∧ AddType.int64.sum (2 ^ 63 - 1) 1 = (2 ^ 63, false, true) ∧
    (AddType.fp32.sum 0x3F800000 0x3F800000).1 = 0x40000000 := by decide +kernel

/-- A channel at the limit of its suspect words, and one below it; times of the scrub at and before 1 µs, 200 ms and one hour. -/
theorem witness_retire : on.retireDue 0 = false ∧
    (on.updChan 0 (fun k => { k with suspect := List.range (on.goose.policy.suspectN + 1) })).retireDue 0 = true ∧ on.scrubs 0 = true ∧
    (on.mem.chans.get 0).fgLast + 1000 ≤ ({ on with now := 3600000000000 } : State).now ∧ on.now < (on.mem.chans.get 0).fgLast + 1000 ∧
    (on.mem.chans.get 0).scrubLast + 200000000 ≤ ({ on with now := 3600000000000 } : State).now ∧
    on.mem.scrubSavedAt + 3600000000000 ≤ ({ on with now := 3600000000000 } : State).now ∧ on.now < on.mem.scrubSavedAt + 3600000000000 := by decide +kernel

/-- A move of the object that is not started, held by a pin, started plain, a change of owner alone, and one whose slots are coded. -/
def moveState (m : Move → Move := id) (o : Obj → Obj := id) : State :=
  let s := owned 0
  { s with mem := { s.mem with
      objs := s.mem.objs.map (fun k => o { k with moving := true })
      moves := [m { handle := 65537, dstTier := 2, dstAddr := scratchBase + 0x400000 }] } }
theorem witness_move : ((moveState).move? 65537).isSome = true ∧ ((moveState).obj? 65537).isSome = true ∧
    (∀ o ∈ (moveState).obj? 65537, o.handle = 65537 ∧ o.pins = 0 ∧ o.tier = 2 ∧ o.comp = false ∧ (moveState).poisoned o.home o.size = false) ∧
    (moveState).mem.heldBar2 = [] ∧ Mem.wf 0 (moveState).mem.mem = true ∧
    (∀ m ∈ (moveState (fun m => { m with started := true })).move? 65537, m.started = true ∧ m.ownerOnly = false ∧ m.dstTier = 2 ∧ m.comp = false ∧
      (moveState (fun m => { m with started := true })).coding m = false) ∧
    (∀ m ∈ (moveState (fun m => { m with started := true, ownerOnly := true, newOwner := some 1 })).move? 65537, m.ownerOnly = true) ∧
    (∀ o ∈ (moveState id (fun o => { o with pins := 1 })).obj? 65537, o.pins ≠ 0) := by decide +kernel

/-- An Absent page of J0 whose object has its anchor there. -/
theorem witness_recall : let s := { on with mem := { on.mem with
      objs := [{ index := 1, gen := 1, owner := 0, tier := 3, size := 65536, home := 2 ^ 49, anchor := some 0 }]
      pages := [{ base := 0, size := 65536, owner := ⟨1, 0⟩, st := .absent }] } };
    (s.pageOf 65535).map (fun r => (r.st, r.owner)) = some (.absent, s.party .j0) ∧ (s.mem.objs.head?.map (fun o => (o.anchor, o.moving))) = some (some 0, false) := by
  decide +kernel

/-- A slot of 32-bit elements at the front of hub 1's queues; a zero slot decodes, and a slot with no stored bytes and no such tag does not. -/
theorem witness_codec_slot (j : CodecJob) : ((upd on.mem.codecs 1 (fun k => { k with encIn := [j], decIn := [j] })).get 1).encIn = [j] ∧
    ((upd on.mem.codecs 1 (fun k => { k with encIn := [j], decIn := [j] })).get 1).decIn = [j] := ⟨rfl, rfl⟩
theorem witness_decode : decodeSlot (elemWidth 2) 512 [] = some (List.replicate 4096 0) ∧ decodeSlot (elemWidth 2) 0 [] = none :=
  ⟨rfl, by decide +kernel⟩

/-- An aperture that is mapped onto the scratchpad and readable by the host; its last byte; an unmapped one; a page that is Moving; another's. -/
theorem witness_bar2 : let s := { owned 2 with regs := { on.regs with aperture := on.regs.aperture.set 7 0xC00 } };
    let m := { s with mem := { s.mem with pages := [{ base := scratchBase, size := 0x200000, owner := ⟨1, 2⟩, st := .moving }] } };
    s.bar2Addr (7 * 2 ^ 36) = some scratchBase ∧ s.bar2Addr (2 ^ 39) = none ∧ (2 ^ 36 - 1) % 2 ^ 36 + 1 ≤ 2 ^ 36 ∧
      s.access s.hostParty scratchBase 64 = .ok ∧ s.accessW s.hostParty scratchBase 64 = .ok ∧ m.access m.hostParty scratchBase 64 = .hold ∧
      (owned 0).access (owned 0).hostParty scratchBase 64 = .fail Code.OWN_FAULT := by decide +kernel

/-! ## The fabric -/

/-- Port 11 as some function makes it. -/
def port (f : FPort → FPort) (s : State := on) : State := s.updPort 11 f

/-- The record the peer of port 11, port 10 of device 2, sends. -/
def rec2 (lanes : Nat := 0xFF) (proto : Nat := 3) : NegRec := { protoMax := proto, devNum := 2, port := 10, role := 0, laneOk := lanes, ready := true }

/-- Before, at and after a port's start; a port enabled, and one Unused. -/
theorem witness_training : (on.fab.ports.get 11).link = .training ∧ (on.fab.ports.get 11).peer = none ∧
    on.now < (on.fab.ports.get 11).trainAt.getD (on.trainStart 11) ∧ on.trainStart 11 = 162000000 ∧
    (on.fab.ports.get 11).trainAt.getD (on.trainStart 11) ≤ ({ on with now := 162000000 } : State).now ∧
    ((on.fab.ports.get 11).nextRole.getD ((on.fab.ports.get 11).role, (on.fab.ports.get 11).enable, 0)).2.1 = true ∧
    (let q := ((port (fun q => { q with nextRole := some (.unused, false, 0), attempts := 1 })).fab.ports.get 11);
      q.nextRole = some (.unused, false, 0) ∧ q.attempts ≠ 0 ∧ q.sent = 0) := by decide +kernel
theorem test_train_start : ((after (exec (.linkTrainingStart 11) { on with now := 162000000 })).fab.ports.get 11).trainAt = some 172000000 := by
  decide +kernel

/-- The second copy of a record that is refused, of one with one usable lane and of one with 8, 1 µs after the last record of this end. -/
theorem witness_records : (let q := (port (fun q => { q with link := .notReady, attempts := 1, peer := some (rec2 0xFF 1), peerSame := 1, sent := 2 })).fab.ports.get 11;
      q.refuses 11 (rec2 0xFF 1) = true ∧ q.peerSame = 1 ∧ q.attempts ≠ 0 ∧ q.sentAt + 1000 ≤ ({ on with now := 1000 } : State).now ∧ q.sent ≠ 0) ∧
    (let q := (port (fun q => { q with link := .notReady, attempts := 1, peer := some (rec2 1), peerSame := 1, sent := 2 })).fab.ports.get 11;
      q.refuses 11 (rec2 1) = false ∧ widthOf (q.lanesBoth (rec2 1)) = 0) ∧
    (let q := (port (fun q => { q with link := .notReady, attempts := 1, peer := some rec2, peerSame := 1, sent := 2 })).fab.ports.get 11;
      q.refuses 11 rec2 = false ∧ widthOf (q.lanesBoth rec2) = 8 ∧ on.sys.fabricReady = true ∧ q.txq = [] ∧ q.peer ≠ some (rec2 1)) := by decide +kernel
/-- Width 8, 4, 2 and none (R355). -/
theorem test_width : widthOf 0xFF = 8 ∧ widthOf 0x7F = 4 ∧ widthOf 0x0E = 2 ∧ widthOf 0x80 = 0 := by decide

/-- A link that is UP; one in RETRAIN whose next attempt may start, is due, or is the third; a channel that has waited to the limit. -/
theorem witness_faults : ((port (fun q => { q with link := .up })).fab.ports.get 11).link = .up ∧ (on.fab.ports.get 11).link ≠ .up ∧
    (let q := (port (fun q => { q with link := .retrain, trainAt := some 0, attempts := 2, peer := some rec2 })).fab.ports.get 11;
      q.link = .retrain ∧ q.attempting = false ∧ q.trainAt.getD 0 + 50000 ≤ ({ on with now := 50000 } : State).now ∧ on.now < q.trainAt.getD 0 + 50000 ∧
        3 ≤ q.attempts + 1 ∧ ¬ (q.attempts + 1 < 3) ∧ q.txq = []) ∧
    (let q := (port (fun q => { q with waitSince := q.waitSince.set 7 (some 0), attempts := 1 })).fab.ports.get 11;
      q.waitSince.get 7 = some 0 ∧ q.waitSince.get 0 = none ∧ 0 + q.congestNs < ({ on with now := 100001 } : State).now ∧
        ({ on with now := 100000 } : State).now ≤ 0 + q.congestNs ∧ q.congested = false ∧ q.attempts + 1 < 3) := by decide +kernel
theorem witness_calm : State.reset.calm ∧ on.calm := by
  simp [State.calm, on, State.reset, Vector.get]

/-- A flit: damaged, an idle one, the next in order after 0x3FFF, one out of order, and a Nak for a flit replayed seven times. -/
def flit (n : Nat) (ok idle nak : Bool := false) : Flit := { seq := n, ackSeq := 0x3FFF, crcOk := ok, idle := idle, nak := nak }
theorem witness_flit : ((port (fun q => { q with link := .up })).fab.ports.get 11).rxLast = 0x3FFF ∧ (0x3FFF + 1) % 16384 = (flit 0 true).seq ∧
    (flit 1 true).seq ≠ (0x3FFF + 1) % 16384 ∧ (flit 0 true true).idle = true ∧ (flit 0).crcOk = false ∧
    (let q := (port (fun q => { q with link := .up, replay := [flit 0 true], replayOf := some (0, 7) })).fab.ports.get 11;
      q.replay.filter (fun g => !covered g.seq (flit 0 true false true).ackSeq) = [flit 0 true] ∧ q.replayOf = some ((flit 0 true).seq, 7)) := by
  decide +kernel

/-- A packet for another device at 63 hops and at 62, and a route for it by port 0, whose link is in RETRAIN. -/
def pkt (cls op seq : Nat) (dst : Nat := 1) (payload : List Byte := []) : Pkt :=
  { cls := cls, op := op, dst := dst, src := 2, seq := seq, len := payload.length, payload := payload }
def routed : State :=
  let s := on.updPort 0 (fun q => { q with link := .retrain })
  { s with fab := { s.fab with banks := s.fab.banks.set 0 { epoch := 0, st := .active, pod := [0xE, 0x0, 0x0], hall := [] } } }
theorem witness_forward : (pkt 1 1 5 3).dst ≠ routed.ident.devNum ∧ 63 ≤ ({ pkt 1 1 5 3 with hops := 63 } : Pkt).hops ∧ ({ pkt 1 1 5 3 with hops := 62 } : Pkt).hops < 63 ∧
    ((routed.fab.bank? 0).map (fun b => (b.lookup routed.ident.devNum 3).1)) = some 0 ∧ (routed.fab.ports.get 0).role = .torus ∧
    (routed.fab.ports.get 0).link = .retrain := by decide +kernel

/-- A good packet: its checksum is its own. -/
def good (k : Pkt) : Pkt := { k with crc := k.e2e }
/-- A flow that expects SeqNum 5, holds 7 and has delivered 8. -/
def flowed : State := { on with fab := { on.fab with dst := [{ cls := 1, peer := 2, epoch := 9, expect := 5, held := [pkt 1 1 7], early := [8] }] } }
theorem witness_receive : defined 1 5 = false ∧ defined 3 1 = true ∧ defined 0 0x1F = true ∧ defined 1 4 = true ∧ defined 0 0x0D = true ∧ defined 0 0x0E = false ∧
    (flowed.fab.dstFlow? 1 2).map (fun f => (f.epoch, f.expect)) = some (9, 5) ∧ (pkt 1 1 7).seq = 7 ∧
    epochNewer 9 9 = false ∧ epochNewer 8 9 = false ∧ epochNewer 136 9 = true ∧ epochNewer 137 9 = false ∧
    flowed.fab.reorderBytes = 32 ∧ on.fab.dstFlow? 1 2 = none ∧ on.fab.dst.length < 8192 := by decide +kernel
theorem witness_crc : (good (pkt 1 1 5)).crc = (good (pkt 1 1 5)).e2e ∧ ({ good (pkt 1 1 5) with crc := 0 } : Pkt).crc ≠ (good (pkt 1 1 5)).e2e := by decide +kernel
/-- The CRC-32 of nothing, and of the byte 0. -/
theorem test_crc32 : crc32 [] = 0 ∧ crc32 [0] = 0xD202EF8D := by decide +kernel

/-- A source flow with one packet not acknowledged, sent at 0 and replayed `n` times. -/
def sent (n : Nat) : State := { on with
  now := 4000000
  fab := { on.fab with src := [{ cls := 1, peer := 2, unacked := [{ pkt := pkt 1 1 1 2, sentAt := 0, retries := n }] }] } }
theorem witness_flows : ((sent 4).fab.srcFlow? 1 2).map (·.epoch) = some 0 ∧ (1 : Nat) ≠ 0 ∧ 0 + 4000000 ≤ (sent 4).now ∧ (sent 4).fab.reqs = [] ∧
    (sent 4).fab.ctxWait = [] ∧ ((pkt 1 1 1 2).cls = 1) ∧ ((sent 3).fab.srcFlow? 1 2).map (fun f => f.unacked.all (fun u => u.retries < 4)) = some true ∧
    (sent 3).mem.ckptJobs = [] ∧
    (let f : DstFlow := { cls := 1, peer := 2, epoch := 9, unackedN := 31, ackSince := 0 };
      f.unackedN ≠ 0 ∧ f.ackSince + 1000 ≤ ({ on with now := 1000 } : State).now ∧ on.now < f.ackSince + 1000 ∧
        f.lastUse + 100000000 ≤ ({ on with now := 100000000 } : State).now) := by decide +kernel

/-- Requests of device 2, whose object this is; of its Mule; from another pod; of a page that is Moving; and one that no one may make. -/
def lent (st : PageSt) : State :=
  let s := owned 0
  { s with mem := { s.mem with pages := [{ base := scratchBase, size := 0x200000, owner := ⟨2, 0⟩, st := st }] } }
def req (cls op len : Nat) (payload : List Byte := []) : Pkt :=
  { cls := cls, op := op, dst := 1, src := 2, ctx := 0, addr := scratchBase, len := len, payload := payload, elemType := 2 }
theorem witness_requests : (req 1 1 64).dst = on.ident.devNum ∧ podOf 2 = podOf on.ident.devNum ∧ podOf 513 ≠ podOf on.ident.devNum ∧
    (lent .owned).pktAccess (req 1 1 64) 64 false = .ok ∧ (lent .owned).pktAccess (req 1 2 8 [1]) 1 true = .ok ∧
    (lent .moving).pktAccess (req 1 1 64) 64 false = .hold ∧ (owned 0).pktAccess (req 1 1 64) 64 false = .fail Code.OWN_FAULT ∧
    (owned 0).pktAccess (req 1 2 1 [1]) 1 true = .fail Code.OWN_FAULT ∧ addLegal scratchBase (addTypeOf 2) 8 = true ∧
    (lent .owned).poisoned scratchBase 64 = false ∧ scratchBase < 0xF00000000000 ∧ hoSlot scratchBase = none ∧ (lent .owned).ringAt (req 3 1 1 [1]) = none := by
  decide +kernel
theorem witness_expiry : (let s := { lent .moving with now := 1000000, fab := { on.fab with heldReqs := [{ pkt := req 1 1 64, since := 0 }] } };
      s.fab.heldReqs = [{ pkt := req 1 1 64, since := 0 }] ∧ 0 + 1000000 ≤ s.now ∧ s.pktAccess (req 1 1 64) 64 false = .hold) ∧
    (∀ h ∈ [({ pkt := req 1 1 64, since := 1 } : HeldReq)], ({ on with now := 1000000 } : State).now < h.since + 1000000) := by decide +kernel

/-- A response to the request of a thread, and one that answers nothing; a marker's answer that is awaited, and one that is not. -/
theorem witness_responses : (let s := { on with fab := { on.fab with reqs := [{ tag := 7, dst := 2, cls := 1, addr := 0, len := 4, who := .thread 39 7 }] } };
      s.reqFor { pkt 2 1 1 with tag := 7 } = some { tag := 7, dst := 2, cls := 1, addr := 0, len := 4, who := .thread (39 : Cl).val (7 : Th).val } ∧
        s.reqFor { pkt 2 1 1 with tag := 8 } = none ∧ s.mem.ckptJobs = []) ∧
    bits (ofBytes (slice (toBytes 8 3) 0 8)) 7 0 = 3 ∧ (3, 2) ∈ [((3 : Nat), (2 : Nat))] ∧ (3, 2) ∉ on.fab.drains := by decide +kernel

/-- The times of heartbeats, a silent neighbour that shares no job, and a failed master with a deputy. -/
theorem witness_mules : on.now < on.fab.lastBeatSent + 1000000 ∧ on.sys.fatal = false ∧ on.fab.lastBeatSent + 1000000 ≤ ({ on with now := 1000000 } : State).now ∧
    ({ on with power := { on.power with state := .on } } : State).power.state = .on ∧ on.sys.muleUp = true ∧
    (let s := { port (fun q => { q with peer := some rec2 }) with now := 5000000 };
      2 ∈ s.neighbours ∧ s.shares 2 = [] ∧ 2 ∉ s.fab.failed ∧ 0 + 5000000 ≤ s.now) ∧
    (let s := job (fun j => { j with deputy := some 9 });
      s.shares 7 = [.j0] ∧ (s.jobs.get .j0).deputy = some 9 ∧ (s.jobs.get .j0).sender = 7 ∧ 9 ∉ 7 :: s.fab.failed ∧ s.fab.src = [] ∧
        s.fab.dstWait = [] ∧ s.coll.insts = [] ∧ s.goose.items = [] ∧ (s.jobs.get .j0).halted = false) := by decide +kernel
theorem witness_freeze : (2, 7) ∉ on.obs.freezeSeen ∧ on.obs.frozen = false ∧
    (2, 7) ∈ ({ on with obs := { on.obs with freezeSeen := [(2, 7)], frozen := true } } : State).obs.freezeSeen := by decide +kernel

/-! ## Collectives -/

/-- Every owner and line start below the count. -/
theorem witness_trees : (0 : Nat) < 1 ∧ (7 : Nat) < 8 ∧ treeList 8 (some 7) 1 7 = [0, 1, 2, 3, 4, 5, 6, 7].reverse.map (fun k => (7 + k) % 8) := by decide +kernel
/-- The ring list of R400 for owner 1 of 4: each after the other, the owner last; the levels' roles of 5 members. -/
theorem test_tree_ring : treeList 4 none 0 1 = [2, 3, 0, 1] ∧ treeList 4 none 1 1 = [0, 3, 2, 1] ∧ treeRole 5 1 0 = .sends 1 ∧
    treeRole 5 1 1 = .receives 0 ∧ treeRole 5 1 4 = .passes := by decide +kernel

/-- A group of devices 1 and 2 on axis A, a fused buffer of one shard each, and instance 1. -/
def cg : CGroup := { id := 5, axes := 1, timeoutNs := 1000000, los := [0, 0, 0, 0, 0, 0, 0], counts := [2, 0, 0, 0, 0, 0, 0], descCrc := 77,
                     modes := [none, none, none, none, none, none, none] }
def cf : CFuse := { id := 3, dtype := 0, shard := scratchBase + 65536, bufs := [(scratchBase, 1024)], shapeCrc := 99 }
def ci (f : CInst → CInst := id) : CInst :=
  f { ctx := .j0, group := 5, num := 1, fuse := 3, op := true, dst := 0, acc := false, comp := false, trig := 0, trigStage := 0, trigGroup := 0, trigInst := 0,
      modes := [none, none, none, none, none, none, none] }
def coll (i : List CInst) : State :=
  let s := job (fun j => { j with map := { j.map with lens := [2, 1, 1, 1, 1, 1] } }) (owned 0)
  { s with
    coll := { s.coll with groups := ⟨[cg], []⟩, fuses := ⟨[cf], []⟩, insts := i }
    fab := { s.fab with banks := s.fab.banks.set 0 { epoch := 0, st := .active, pod := [0xE, 0x100, 0x200], hall := [] }, places := [0xE, 0x100, 0x200] } }
theorem witness_trigger : (let s := coll [ci];
      s.cinst .j0 5 1 = some (ci) ∧ s.cgroup .j0 5 = some cg ∧ s.cfuse .j0 3 = some cf ∧ s.triggered (ci) = true ∧ (s.jobs.get .j0).isOpen = true ∧
        (s.coll.insts.filter (fun j => j.running && !j.completed)).length < 8 ∧ s.collAccess .j0 (collRanges (ci) cg cf) = .ok ∧
        (∀ r ∈ collReads s (ci) cg cf, r.2 ≠ 0 → s.poisoned r.1 r.2 = false)) ∧
    (coll [ci (fun i => { i with trig := 2, trigGroup := 9 })]).triggered (ci (fun i => { i with trig := 2, trigGroup := 9 })) = false ∧
    (let s := { coll [ci] with mem := { (coll [ci]).mem with pages := [] } }; s.collAccess .j0 (collRanges (ci) cg cf) = .fail Code.OWN_FAULT) := by
  decide +kernel

/-- The header of part `part` at a level, DescCrc and ShapeCrc as given, one wire part of 8 bytes. -/
def ch (gid num part level descCrc : Nat) (abort : Bool := false) : List Byte :=
  lay 32 [(0, num), (32, gid), (38, 1), (40, part), (55, level), (59, b2n abort), (64, descCrc), (96, 99)] ++ List.replicate 8 1
theorem witness_coll_packet : (let s := coll [ci (fun i => { i with running := true })];
      s.memberOf cg 2 = true ∧ s.memberOf cg 3 = false ∧ s.cgroup .j0 6 = none ∧
        bits (u64At (ch 5 1 1 1 77) 0) 37 32 = 5 ∧ bits (u64At (ch 5 1 1 1 77) 0) 31 0 = 1 ∧ bit (u64At (ch 5 1 1 1 77) 0) 38 = true ∧
        bits (u64At (ch 5 1 1 1 77) 8) 31 0 = cg.descCrc ∧ bits (u64At (ch 5 1 1 1 77) 8) 63 32 = cf.shapeCrc ∧
        bit (u64At (ch 5 1 1 1 77 true) 0) 59 = true ∧ s.sideOf cg cg.modes 2 0 true = some (0, true)) ∧
    (coll []).cinst .j0 5 1 = none ∧ cg.nextInst ≤ 1 := by decide +kernel
/-- Part 1 of a gathered half comes to the member that sent it on: it is its target; at a level beyond the tree it is relayed. -/
theorem witness_coll_place : (∀ p ∈ (coll []).placeIn cg cg.modes 0 1 0, p.target 0 1 true true = true ∧ p.target 0 2 true true = false) ∧
    ((coll []).placeIn cg cg.modes 0 1 0).isSome = true := by decide +kernel
theorem witness_coll_timeout : (ci (fun i => { i with running := true })).completed = false ∧ 0 + cg.timeoutNs ≤ ({ on with now := 1000000 } : State).now ∧
    ({ on with now := 999999 } : State).now < 0 + cg.timeoutNs := by decide +kernel

/-! ## Optimizer, Goose, the fault log and media -/

/-- An update of 65,536 elements in J0's object: planes one after the other, channel `ch0` at work. -/
def oxr : OxRun :=
  { ctx := .j0, key := 1, begun := true, master := scratchBase, m1 := scratchBase + 0x80000, m2 := scratchBase + 0x100000, grad := scratchBase + 0x180000,
    work := 0, workEn := false, rnd := 0, sat := false, elems := 65536, idxBase := 0, step := 3, consts := [], trig := none, half := ch0.val / 128,
    chans := [ch0.val] }
def oxState : State := let s := owned 0; { s with mem := { s.mem with oxRuns := [oxr] } }
theorem witness_ox : oxState.mem.oxRuns.find? (fun r => r.begun && r.trig.isNone && r.chans.contains ch0.val) = some oxr ∧
    (oxState.mem.chans.get ch0).fenced = false ∧ (oxState.mem.chans.get ch0).oxFenced = false ∧ oxState.oxPinned oxr = false ∧
    (∀ p ∈ oxr.reads 0 ++ oxr.writes 1 0, oxState.access (oxState.party .j0) p.1 p.2 = .ok) ∧ (∀ p ∈ oxr.reads 0, oxState.poisoned p.1 p.2 = false) := by
  decide +kernel
/-- The last granules that the planes hold lie inside the object, too: 255 runs of 64 elements on. -/
theorem witness_ox_last : ∀ p ∈ oxr.reads 255 ++ oxr.writes 1 255, oxState.access (oxState.party .j0) p.1 p.2 = .ok := by decide +kernel
theorem witness_ox_pinned : (oxState.updObj 65537 (fun o => { o with pins := 1 })).oxPinned oxr = true := by decide +kernel

/-- A work item of each kind on cluster 0. -/
def item (f : WorkItem → WorkItem := id) : WorkItem :=
  f { id := 4, kind := .group, cluster := 0, ctx := .j0, desc := 0, ord := 0, beat := 5, stage := 1, failing := { cls := 1, unit := 0, sub := 0 } }
def items (ws : List WorkItem) (s : State := beating [eRun] (desc3 1 false) [nest 0 .free true]) : State := { s with goose := { s.goose with items := ws } }
theorem witness_replay : (let s := items [item];
      s.item? 4 = some (item) ∧ s.captures < 2 ∧ s.clusterUp 0 = true ∧ s.originalEnded (item) = true ∧ (s.group? 0 .j0 0 0).isSome = true ∧
        (s.replayEngine (item)).isSome = true) ∧
    (let w := item (fun w => { w with kind := .launch, launch := some l0 });
      (items [w]).originalEnded w = true ∧ idleThread ((items [w]).clusters.get 0) = some 0) ∧
    (let w := item (fun w => { w with kind := .attStep }); (items [w]).originalEnded w = true) ∧
    (let w := item (fun w => { w with id := 5, st := .replaying }); (items [item, w, { w with id := 6 }]).captures = 2) := by decide +kernel
/-- A replay that passes with equal digests on one strike; on two; a capture one byte too large. -/
theorem witness_replayed : (let w := item (fun w => { w with st := .replayed });
      w.replayPassed = true ∧ w.digestReplay = w.digestOrig ∧ w.strikes ≤ 1 ∧ w.captureBytes ≤ 1048576) ∧
    1 < (item (fun w => { w with strikes := 2 })).strikes ∧ 1048576 < (item (fun w => { w with captureInstr := 1048577 })).captureBytes := by decide +kernel
theorem witness_escalated : (items [item (fun w => { w with st := .escalated 0 0 true })]).goose.strikes = [] ∧
    (item (fun w => { w with replayUnit := some { cls := 1, unit := 0, sub := 1 } })).failing ≠ (({ cls := 1, unit := 0, sub := 1 } : UnitId)) ∧
    0 + 10000 ≤ ({ on with now := 1000000 } : State).now ∧ 0 + 1000 * on.goose.policy.refTimeoutUs ≤ ({ on with now := 1000000 } : State).now ∧
    ({ on with now := 999999 } : State).now < 0 + 1000 * on.goose.policy.refTimeoutUs := by decide +kernel
theorem test_referee_limit : (after (exec (.refereePackage 2 9) on)).goose.referee.length = 1 := by decide +kernel

/-- One hour, and one event that waits; a record that waits with 1,200 mJ at hand. -/
theorem witness_log : on.now < on.log.summaryAt + 3600000000000 ∧ on.log.summaryAt + 3600000000000 ≤ ({ on with now := 3600000000000 } : State).now ∧
    on.log.rateSecond ≠ 3600000000000 / 1000000000 ∧ 0 < on.goose.policy.logRate ∧ on.energyOk = false ∧
    ({ on with power := { on.power with bankMj := 1200 } } : State).energyOk = true ∧ on.power.flashBusy = false := by decide +kernel

/-- A cluster that may be tested, at the granules where a row of R472 ends, and one that runs a beat; a pass just overdue. -/
theorem witness_test : on.goose.testCluster = (0 : Cl).val ∧ on.clusterUp 0 = true ∧ on.mayTest 0 = true ∧ (beating [] []).mayTest 0 = false ∧
    (167 : Nat) < 168 ∧ 168 ≤ (486 : Nat) ∧ 486 + 1 < 488 ∧ on.goose.overdue.get 0 = false ∧
    on.goose.lastPass.get 0 + 1000000000 * on.goose.policy.testPeriod ≤ ({ on with now := 86400000000000 } : State).now ∧
    ({ on with now := 86399999999999 } : State).now < on.goose.lastPass.get 0 + 1000000000 * on.goose.policy.testPeriod := by decide +kernel
theorem test_granule_unit : granuleUnit 3 127 = { cls := 1, unit := 3, sub := 15 } ∧ granuleUnit 3 128 = veUnit 3 ∧ granuleUnit 3 487 = { cls := 5, unit := 3 } := by
  decide

/-- Stream 63 with one chunk of 100 bytes to read and one ring entry, free or held. -/
def stream (held : Nat) (f : MStream → MStream := id) : MStream :=
  f { ctx := .j0, codec := 0, outFmt := 1, patch := 16, tube := 1, frameStep := 1, lumaOnly := false, notify := false, cropX := 0, cropY := 0, cropW := 16,
      cropH := 16, dpbAddr := 0, dpbBytes := 0, ringAddr := 0, ringEntries := 1, coeffs := [], chunks := [⟨0, 0, 100, false, false, false, 0⟩], ringHeld := held }
def media (t : MStream) (s : State := on) : State := { s with media := { s.media with streams := s.media.streams.set 63 (some t) } }
theorem witness_decode_frame : let f : MFrame := { stream := 63, consumed := 100 };
    let s := media (stream 0);
    s.media.streams.get 63 = some (stream 0) ∧ (stream 0).stopped = none ∧ 0 < f.consumed ∧ f.consumed ≤ (stream 0).unread ∧ s.turnTaken 63 (stream 0) = false ∧
      (stream 0).ringHeld + (stream 0).entriesFor { f with outs := [{ width := 16, height := 16 }] } ≤ (stream 0).ringEntries ∧
      (stream 0).ringHeld < (stream 0).ringEntries ∧ (stream 0).group.length + 1 = (stream 0).tube ∧ (stream 1).ringEntries ≤ (stream 1).ringHeld ∧
      (let e := stream 0 (fun t => { t with chunks := [⟨0, 0, 1, false, true, false, 0⟩] });
        ({ s with media := { s.media with streams := s.media.streams.set 0 (some e) } } : State).turnTaken 63 (stream 0) = true) := by decide +kernel
theorem witness_media_marks : (stream 0 (fun t => { t with concealed := 1, concealAt := some 0 })).concealed ≠ 0 ∧
    0 + 1000000000 ≤ ({ on with now := 1000000000 } : State).now ∧ on.now < 0 + 1000000000 ∧
    (stream 0 (fun t => { t with busySince := some 0 })).overloaded = false ∧
    0 + on.media.feedPersistMs * 1000000 < ({ on with now := 100000001 } : State).now := by decide +kernel

/-! ## The mailbox -/

/-- Queue 1 of a module in full service, enabled and with a session of version 3. -/
def mq (f : MQueue → MQueue := id) (s : State := on) : State :=
  s.updQueue 1 (fun q => f { q with enable := true, isOpen := true, version := 3, features := 7, sizeLog2 := 4, rspBase := 0x100000 })
/-- A command of queue 1 in J0 with a payload. -/
def cmd (p : List Byte) (ctx : BitVec 2 := 0) : MCmd := { q := 1, ctx := ctx, payload := p }

/-- Nothing turns a command away at its start. -/
def startsB (sp : CmdSpec) (m : MCmd) (s : State) : Bool :=
  s.canStart m && s.sessionErr sp m = 0 && !m.payloadErr && sp.lenOk m.payload && (s.sys.service != .foal || sp.foal s m.payload) && m.ctx != 3 && (sp.bad m.payload).isNone &&
    (!sp.ctx || (match m.ctxt with | some x => (s.jobs.get x).isOpen | none => false))

theorem starts_of {sp : CmdSpec} {m : MCmd} {s : State} (h : startsB sp m s = true) : Starts sp m s := by
  simp only [startsB, Bool.and_eq_true, Bool.not_eq_true', decide_eq_true_eq, bne_iff_ne, ne_eq, Option.isNone_iff_eq_none, Bool.or_eq_true] at h
  obtain ⟨⟨⟨⟨⟨⟨⟨h1, h2⟩, h3⟩, h4⟩, h5⟩, h6⟩, h7⟩, h8⟩ := h
  refine ⟨h1, h2, h3, h4, fun e _ => h5.resolve_left (fun n => n e), h6, h7, fun c => ?_⟩
  rcases h8 with h8 | h8
  · simp [c] at h8
  · split at h8
    · exact ⟨_, ‹_›, h8⟩
    · cases h8

/-- The 69 commands: with nothing in its way each of them meets one of the checks, or none; their codes differ. -/
theorem test_commands : (commands (cmd [])).length = 69 ∧ ((commands (cmd [])).map (fun c => c.1.code)).Nodup := by decide +kernel

/-- One witness for each refusal: a queue that is not enabled; no session, one open already; a payload error; a length; Foal; ctx 3; a
reserved field; a context that is not open. -/
theorem witness_refusals : on.canStart (cmd []) = false ∧ (mq).canStart (cmd []) = true ∧
    (mq (fun q => { q with isOpen := false })).sessionErr specNop (cmd []) = Code.NO_SESSION ∧ (mq).sessionErr specOpen (cmd []) = Code.SESSION_OPEN ∧
    (mq).sessionErr specNop (cmd []) = 0 ∧ specNop.lenOk [0] = false ∧ specJobOpen.lenOk (List.replicate 64 0) = true ∧
    specCkptSave.foal on [] = false ∧ specCancel.bad (lay 8 [(63, 1)]) ≠ none ∧ (on.jobs.get .j0).isOpen = false ∧ specJobStart.ctx = true ∧
    (mq (fun q => { q with version := 2 })).sessionErr specStreamEst (cmd []) = Code.BAD_CODE ∧
    (mq (fun q => { q with features := 0 })).sessionErr specOxRun (cmd []) = Code.BAD_CODE ∧
    on.sessionErr specNop { cmd [] with q := 0 } = Code.BAD_CODE := by decide +kernel

/-- A response: the last index of the ring of 16, so that the phase turns. -/
theorem witness_response : (let k := (mq (fun q => { q with rspIdx := 15 })).mbx.queues.get 1;
      k.rspIdx + 1 = 2 ^ k.sizeLog2 ∧ k.coalesceNs = 0 ∧ k.rspBase.toNat + 32 * k.rspIdx + 32 ≤ 0x200000) ∧
    Mem.wf 0 on.mbx.hostMem = true ∧ Code.OK ≠ Code.BUSY ∧ Code.OK ≠ Code.NOT_READY ∧ ([] : List Byte).length ≤ (cmd []).outLen := by decide +kernel
theorem test_response : ((after (exec (.mbxNop (cmd [])) (mq (fun q => { q with rspIdx := 15 })))).mbx.queues.get 1).phase = false ∧
    ((after (exec (.mbxNop (cmd [])) (mq (fun q => { q with rspIdx := 15 })))).mbx.queues.get 1).rspIdx = 0 := by decide +kernel

/-- The session commands: versions 2 to 3, 2 alone, 1 alone and 4 alone, MbxPersist at its limit and beyond; a close with and without work left. -/
theorem witness_session : (∀ p ∈ [lay 24 [(0, 2), (8, 3), (128, 10000)], lay 24 [(0, 2), (8, 2)], lay 24 [(0, 1), (8, 1)], lay 24 [(0, 4), (8, 4)], lay 24 [(0, 2), (8, 3), (128, 10001)]],
      startsB specOpen (cmd p) (mq (fun q => { q with isOpen := false })) = true) ∧
    fld (lay 24 [(0, 2), (8, 3), (128, 10000)]) 16 31 0 ≤ 10000 ∧
    startsB specClose (cmd []) (mq) = true ∧ ((mq).mbx.queues.get 1).fetchIdx = ((mq).mbx.queues.get 1).cmdDbl ∧ (mq).mbx.started = [] ∧
    ((mq (fun q => { q with cmdDbl := 15 })).mbx.queues.get 1).fetchIdx ≠ ((mq (fun q => { q with cmdDbl := 15 })).mbx.queues.get 1).cmdDbl ∧
    startsB specNop (cmd []) (mq) = true ∧ startsB specCancel (cmd (lay 8 [(0, 0xFFFF)])) (mq) = true := by decide +kernel

/-- A command 10 s old; a queue held for one ns longer than 100 ms; an interval at its end; indices at the ends of the ring. -/
theorem witness_timers : 0 + 10000000000 ≤ ({ on with now := 10000000000 } : State).now ∧ ¬ 0 + 10000000000 ≤ ({ on with now := 9999999999 } : State).now ∧
    (let s := { mq (fun q => { q with heldSince := some 0, msiDue := true, lastMsi := some 0, coalesceNs := 1000 }) with now := 100000001 };
      let k := s.mbx.queues.get 1;
      k.overloaded = false ∧ 0 + k.persistMs * 1000000 < s.now ∧ k.msiDue = true ∧ 0 + k.coalesceNs ≤ s.now) ∧
    on.sys.service ≠ .off ∧ State.reset.sys.service = .off ∧ ((mq).mbx.queues.get 1).enable = true ∧ ((mq).mbx.queues.get 2).enable = false ∧
    (15#16).toNat < 2 ^ ((mq).mbx.queues.get 1).sizeLog2 ∧ ¬ (16#16).toNat < 2 ^ ((mq).mbx.queues.get 1).sizeLog2 ∧
    (let r : EvtRing := { enable := true, sizeLog2 := 4, writeIdx := 5, unread := 16 };
      (r.writeIdx + 16 - 5 % 16) % 16 = 0 ∧ r.unread = 2 ^ r.sizeLog2 ∧ r.writeIdx < 2 ^ r.sizeLog2) := by decide +kernel
theorem test_doorbell : ((after (exec (.dblCmd 1 15) (mq))).mbx.queues.get 1).cmdDbl = 15 ∧ (after (exec (.dblCmd 1 16) (mq))).regs.accCause = 5 := by
  decide +kernel

/-- A turn: queue 1 of Priority 1 holds an entry that may start, its code known and not; cancelled; none to serve. -/
def entry (code : Nat) : List Byte := lay 64 [(0, code)]
def holding (f : MQueue → MQueue := id) : State := mq (fun q => f { q with cmdDbl := 1, priority := true })
theorem witness_fetch : (mq).serving = true ∧ (∀ q, (mq).holdsEntry q = false) ∧ State.reset.serving = false ∧ (holding).holdsEntry 1 = true ∧
    (let fe : FetchedEntry := { entries := [(1, entry CmdCode.mbxNop)] };
      (holding).ready fe 1 = true ∧ (holding).turn fe = some (1, true) ∧ (holdQueues (holding) fe).turn fe = some (1, true) ∧
        headOf fe 1 = some (entry CmdCode.mbxNop) ∧ entryErr (entry CmdCode.mbxNop) = 0 ∧
        (holding (fun q => { q with cancelled := [0] })).turn fe = some (1, true)) ∧
    (∀ c ∈ commands (cmd []), c.1.code ≠ fld (entry 0xFFFF) 0 15 0) ∧ (holding).sessionErr (specNone 0xFFFF) (cmd []) = 0 := by decide +kernel

/-! ## Jobs and stages -/

/-- A job open in J0 and queue 1. -/
def jq (f : Job → Job := id) (s : State := on) : State := mq id (job f s)
/-- A job record of data over axis 0 of two devices, and its answers. -/
def jobRec (fs : List (Nat × Nat)) : List Byte := lay 64 ([(128, 64000), (256, 1), (320, 2), (328, 1), (336, 1), (344, 1), (352, 1), (360, 1), (368, 1), (387, 1)] ++ fs)
def jobCmd (fs : List (Nat × Nat)) (a : List Nat) : MCmd := { cmd (jobRec fs) with answers := a }

/-- A Diag job outside Foal and within it; a context already open; a refused mapping; no answer; a skewed and an even pair of latencies. -/
theorem witness_job_open : startsB specJobOpen (jobCmd [(146, 1)] []) (mq) = true ∧
    (let s := { mq with sys := { (mq).sys with service := .foal } }; startsB specJobOpen (jobCmd [(146, 1)] []) s = true ∧ s.measured (jobRec [(146, 1)]) [] = none ∧
      s.measured (jobRec [(146, 1)]) [1, 0] = some [(1, 0)]) ∧
    startsB specJobOpen (jobCmd [] []) (jq) = true ∧ ((jq).jobs.get .j0).isOpen = true ∧ startsB specJobOpen (jobCmd [] [1, 100, 7, 0]) (mq) = true ∧
    ((mq).jobs.get .j0).isOpen = false ∧ (mq).mapInvalid (Mapping.of (jobRec [(387, 1)])) = true ∧ (mq).mapInvalid (Mapping.of (jobRec [])) = false ∧
    (mq).measured (jobRec []) [7, 0] = none ∧ (mq).measured (jobRec []) [1, 100, 7, 0] = some [(1, 100), (7, 0)] ∧
    startsB specJobOpen (jobCmd [(147, 1)] []) (mq) = true ∧ (cmd []).ctxt = some .j0 := by decide +kernel
theorem witness_job_open_ctx : startsB specJobOpen { jobCmd [(146, 1)] [] with ctx := 2 } (mq) = true ∧ { jobCmd [(146, 1)] [] with ctx := 2 }.ctxt = none ∧
    (let s := { mq with sys := { (mq).sys with service := .foal } }; startsB specJobOpen { jobCmd [(146, 1)] [] with ctx := 1 } s = true) ∧
    { jobCmd [(146, 1)] [] with ctx := 1 }.ctxt = some .j1 := by decide +kernel

/-- A start on a begun context, at the master and elsewhere; a close that a run blocks, and one that nothing blocks. -/
theorem witness_job_commands : (∀ s ∈ [jq (fun j => { j with begun := true }), jq (fun j => { j with sender := 1 }), jq],
      startsB specJobStart (cmd []) s = true ∧ startsB specJobClose (cmd []) s = true ∧ startsB specJobQuery (cmd []) s = true) ∧
    (cmd []).jobCtx = .j0 ∧ ((jq (fun j => { j with begun := true })).jobs.get .j0).begun = true ∧
    ((jq (fun j => { j with sender := 1 })).jobs.get .j0).sender = (jq).ident.devNum ∧ ((jq).jobs.get .j0).sender ≠ (jq).ident.devNum ∧
    (jq id oxState).closeBlocker .j0 = some (CmdCode.oxRun, 1) ∧ startsB specJobClose (cmd []) (jq id oxState) = true ∧ (jq).closeBlocker .j0 = none := by
  decide +kernel

/-- A halt; a rewind of a context that runs, of a step whose update began here or elsewhere, and of another step; a period. -/
theorem witness_rewind : startsB specJobHalt (cmd []) (jq) = true ∧ startsB specJobRewind (cmd (lay 8 [(0, 5)])) (jq) = true ∧
    (let s := jq (fun j => { j with halted := true, updateStarted := true, step := 5 });
      startsB specJobRewind (cmd (lay 8 [(0, 5)])) s = true ∧ startsB specJobRewind { cmd (lay 8 [(0, 2 ^ 48 - 1)]) with answers := [0, 1] } s = true ∧
        startsB specJobRewind (cmd (lay 8 [(0, 2 ^ 48 - 1)])) s = true ∧ (s.jobs.get .j0).halted = true ∧ fld (lay 8 [(0, 5)]) 0 47 0 = 5 ∧
        fld (lay 8 [(0, 2 ^ 48 - 1)]) 0 47 0 ≠ 5) ∧
    (∀ n ∈ [4000, 256000], startsB specBeatPeriod (cmd (lay 8 [(0, n)])) (jq) = true) ∧ specBeatPeriod.bad (lay 8 [(0, 3750)]) = some 0 := by decide +kernel

/-- A stage record for cluster `c` with nothing supplied: one schedule entry, an empty program of one END. -/
def stageRec (c : Nat) (prog : Nat) : List Byte := lay 0x80 [(128, 1), (128 + 17, c), (128 + 30, 64), (128 + 37, 1), (192, 1000), (0x68 * 8, 1), (0x70 * 8, prog), (0x78 * 8, 0x22)]
/-- A stage for a live context; the last cluster and one beyond it; a refused program; one that is taken; the same three of an unload. -/
theorem witness_stage_load : (let s := jq (fun j => { j with begun := true }); startsB specStageLoad (cmd (stageRec 39 4)) s = true ∧ (s.jobs.get .j0).stagesOpen = false ∧
      startsB specStageUnload (cmd (lay 8 [(0, 39)])) s = true) ∧
    ((jq).jobs.get .j0).stagesOpen = true ∧ (∀ c ∈ [39, 40], startsB specStageLoad (cmd (stageRec c 4)) (jq) = true ∧ fld (stageRec c 4) 0x10 22 17 = c ∧
      startsB specStageUnload (cmd (lay 8 [(0, c)])) (jq) = true) ∧
    ((jq).stageErr .j0 39 (stageRec 39 0)).isSome = true ∧ (jq).stageErr .j0 39 (stageRec 39 4) = none ∧
    startsB specStageLoad (cmd (stageRec 39 0)) (jq) = true := by decide +kernel

/-! ## Key/value records -/

def seqRec (fs : List (Nat × Nat)) : List Byte := lay 24 ([(64, 1)] ++ fs)
/-- Page sizes below, at and above the limits; a table off a page; an address range too long; a record that is named; one that is free. -/
theorem witness_seq_define : (∀ p ∈ [seqRec [(66, 11)], seqRec [(66, 22)], seqRec [(66, 12), (80, 1)], seqRec [(66, 12), (128, 2 ^ 30 + 1)], seqRec [(66, 12), (128, 2 ^ 30)],
        seqRec [(66, 21), (128, 2 ^ 39)], lay 24 []], startsB specSeqDefine (cmd p) (jq) = true) ∧
    fld (seqRec [(66, 11)]) 8 6 2 = 11 ∧ fld (seqRec [(66, 22)]) 8 6 2 = 22 ∧ fld (seqRec [(66, 12), (80, 1)]) 8 63 16 % 4096 ≠ 0 ∧
    fld (seqRec [(66, 12), (128, 2 ^ 30)]) 16 47 0 ≤ 2 ^ (12 + 18) ∧ bit (fld (lay 24 []) 8 0 0) 0 = false ∧
    (jq).seqNamed .j0 0 = false ∧ (mq id (ringState 1 false true)).seqNamed .j0 0 = true ∧
    startsB specSeqDefine (cmd (lay 24 [])) (mq id (ringState 1 false true)) = true := by decide +kernel

/-- An invalidation with no record or no length; over a range in use and not; a retry with and without a record. -/
theorem witness_inval : (let s := jq id (attState true 64);
      (∀ p ∈ [lay 24 [(0, 1), (128, 1)], lay 24 [], lay 24 [(128, 65536)]], startsB specInval (cmd p) s = true) ∧ s.seqRec .j0 1 = none ∧
        s.seqRec .j0 0 = some ⟨.j0, 16, 0, 65536⟩ ∧ s.kvInUse .j0 0 0 65536 = false ∧
        startsB specRetry (cmd (lay 8 [])) s = true ∧ startsB specRetry (cmd (lay 8 [(0, 1)])) s = true) ∧
    (let t : Xfer := { desc := 0, tiles := [], reqs := [{ tile := 0, ext := 0, store := 0, len := 64, st := 1 }] };
     let s := jq id (attState true 64);
     let s := s.updSeq 0 .j0 (fun q => { q with
       descs := q.descs.set 0 (desc3 4 false [(8 * 0x1C + 67, 1)])
       stage := q.stage.map (fun g => { g with outbound := [], run := some { beat := 5, entry := 0, cmds := [{ desc := 0, ctx := .j0, extents := [], xfer := some t }] } }) });
     startsB specInval (cmd (lay 24 [(128, 65536)])) s = true ∧ s.seqRec .j0 0 = some ⟨.j0, 16, 0, 65536⟩ ∧
       (s.desc 0 .j0 0).xfer.seq = 0 ∧ (s.desc 0 .j0 0).xfer.kv = true ∧ s.kvInUse .j0 0 0 65536 = true) := by decide +kernel

/-- A ring: an axis of no ring, counts beyond both ends and at them, with and without gradients. -/
def ringRec (axis n : Nat) : List Byte := lay (32 + 32 * n) [(16, axis), (20, n)]
theorem witness_ring_define : (∀ p ∈ [ringRec 6 2, ringRec 5 1, ringRec 5 65, ringRec 5 2, ringRec 5 64], startsB specRingDefine (cmd p) (jq) = true) ∧
    (ringOf (ringRec 6 2)).axis = 6 ∧ (ringOf (ringRec 5 65)).n = 65 ∧ (ringOf (ringRec 5 64)).n = 64 ∧ (jq).ringGrad .j0 (ringOf (ringRec 5 2)) = false := by
  decide +kernel

/-! ## Objects -/

/-- A record of mem.place, and the queue beside an object of 2 MiB at the scratchpad's base. -/
def placeRec (tier size : Nat) (fs : List (Nat × Nat) := []) : List Byte := lay 32 ([(2, tier), (64, size)] ++ fs)
def oq (s : State := owned 0) : State := mq id s

/-- With no object there is a free index, whatever choice is made. -/
theorem freeIndex_some (s : State) (h : s.mem.objs = []) : ∃ i gen, s.freeIndex = some (i, gen) := by
  have hk : Config.freeChoice (s.free + 1) 65536 % 65536 < 65536 := Nat.mod_lt _ (by decide)
  simp [State.freeIndex, h, List.filter_eq_self.mpr, List.getElem?_range hk]

/-- Illegal tiers; sizes of no whole page, of none and too large; an address off a page; a range of tier 1 that fits, lies in use, or is the
other context's; tiers 3, 4 and 5 with and without a place. -/
theorem witness_place : (∀ p ∈ [placeRec 0 65536, placeRec 6 65536, placeRec 1 65535, placeRec 1 0, placeRec 1 (2 ^ 40 + 65536), placeRec 1 65536 [(10, 1), (128, 1)],
        placeRec 1 65536 [(10, 1), (128, scratchBase)], placeRec 1 65536 [(10, 1), (128, scratchBase + 0x200000)], placeRec 5 65536, placeRec 5 65536 [(10, 1)],
        placeRec 3 65536 [(192, 7)], placeRec 4 65536 [(192, 0x201)], placeRec 3 65536 [(192, 1)]], startsB specMemPlace (cmd p) (oq) = true) ∧
    sizeOk 65536 = true ∧ sizeOk (2 ^ 40) = true ∧ sizeOk 65535 = false ∧ sizeOk 0 = false ∧ sizeOk (2 ^ 40 + 65536) = false ∧ (oq).mem.objs.length < 65536 ∧
    (oq).fitTier 1 0 65536 (some scratchBase) = (.short 65536, false) ∧ (oq).fitTier 1 0 65536 (some (scratchBase + 0x200000)) = (.at_ (scratchBase + 0x200000), false) ∧
    (let s := { (oq) with mem := { (oq).mem with llm := { (oq).mem.llm with eighths := (oq).mem.llm.eighths.set 0 .j1 } } };
      s.fitTier 1 0 65536 (some (scratchBase + 0x200000)) = (.at_ (scratchBase + 0x200000), true) ∧
        startsB specMemPlace (cmd (placeRec 1 65536 [(10, 1), (128, scratchBase + 0x200000)])) s = true) ∧
    (oq).mayLend 3 7 = true ∧ (oq).mayLend 3 1 = false ∧ (oq).mayLend 4 0x201 = true ∧ 7 ∉ (oq).fab.failed ∧ grants 1 [1, 0x10000] = ([0x10000], none) ∧
    startsB specMemPlace { cmd (placeRec 3 65536 [(192, 7)]) with answers := [1, 0x10000] } (oq) = true := by decide +kernel
/-- The table with every object in use. -/
theorem witness_obj_full (s : State) (o : Obj) : 65536 ≤ ({ s with mem := { s.mem with objs := List.replicate 65536 o } } : State).mem.objs.length :=
  Nat.le_of_eq List.length_replicate.symm

/-- A free of no object; of one moving, pinned, in F2 mode, pinned by media, and of one that nothing holds. -/
def withObj (f : Obj → Obj) : State := let s := owned 0; oq { s with mem := { s.mem with objs := s.mem.objs.map f } }
def h1 : List Byte := lay 8 [(0, 65537)]
theorem witness_free : (∀ s ∈ [on, owned 0], startsB specMemFree (cmd h1) (oq s) = true ∧ startsB specMemQuery (cmd h1) (oq s) = true) ∧ (oq on).obj? 65537 = none ∧
    fld h1 0 31 0 = 65537 ∧ (∀ o ∈ (oq).obj? 65537, o.moving = false ∧ o.pins = 0 ∧ o.f2 = false ∧ (oq).mediaPinned o = false) ∧ ((oq).obj? 65537).isSome = true ∧
    (∀ o ∈ (withObj (fun o => { o with moving := true })).obj? 65537, o.moving = true) ∧ (∀ o ∈ (withObj (fun o => { o with pins := 1 })).obj? 65537, o.pins ≠ 0) ∧
    (∀ o ∈ (withObj (fun o => { o with f2 := true })).obj? 65537, o.f2 = true) ∧
    (let s := oq (media (stream 0 (fun t => { t with dpbAddr := scratchBase + 0x1FFFFF, dpbBytes := 1 })) (owned 0));
      startsB specMemFree (cmd h1) s = true ∧ ∀ o ∈ s.obj? 65537, s.mediaPinned o = true) := by decide +kernel

/-- A record of mem.move for the object. -/
def moveRec (tier : Nat) (fs : List (Nat × Nat) := []) : List Byte := lay 32 ([(0, 65537), (64, tier)] ++ fs)
def mh (f : Move → Move := id) : Move := f { handle := 9, dstTier := 2, dstAddr := 0 }
/-- A move of no object; of illegal tiers; to an address off a page; with an anchor where none may be; the 32nd and the 33rd; to the same place for
another owner; back to its anchor; elsewhere in the scratchpad, to a range in use, and to each other tier. -/
theorem witness_move_refused : (∀ p ∈ [moveRec 0, moveRec 6, moveRec 1, moveRec 1 [(72, 1), (128, 1)], moveRec 1 [(67, 1)], moveRec 3 [(67, 1), (192, 7)], moveRec 3 [(192, 1)],
        moveRec 5, moveRec 5 [(72, 1)], moveRec 1 [(72, 1), (128, scratchBase)], moveRec 1 [(72, 1), (128, scratchBase + 0x200000)], moveRec 2 [(68, 1), (69, 1)]],
        startsB specMemMove (cmd p) (oq) = true) ∧
    startsB specMemMove (cmd (moveRec 1)) (oq on) = true ∧ bit (fld (moveRec 1 [(67, 1)]) 8 3 3) 0 = true ∧ bit (fld (moveRec 1 [(72, 1)]) 8 8 8) 0 = true ∧
    u64At (moveRec 1 [(72, 1), (128, 1)]) 0x10 % 65536 ≠ 0 ∧
    (let s := { (oq) with mem := { (oq).mem with moves := List.replicate 32 mh } }; 32 ≤ s.mem.moves.length ∧ (∀ k ∈ s.mem.moves, k.recalled = false) ∧
      startsB specMemMove (cmd (moveRec 1)) s = true) ∧
    (oq).fitTier 1 0 0x200000 (some scratchBase) = (.short 0x200000, false) ∧
    (oq).fitTier 1 0 0x200000 (some (scratchBase + 0x200000)) = (.at_ (scratchBase + 0x200000), false) ∧
    (let s := { (oq) with mem := { (oq).mem with llm := { (oq).mem.llm with eighths := (oq).mem.llm.eighths.set 0 .j1 } } };
      s.fitTier 1 0 0x200000 (some (scratchBase + 0x200000)) = (.at_ (scratchBase + 0x200000), true)) := by decide +kernel
theorem witness_move_taken : (∀ o ∈ (oq).obj? 65537, o.tier = 2 ∧ o.anchor = none ∧ o.home = scratchBase ∧ o.size = 0x200000) ∧
    (bit (fld (moveRec 2 [(68, 1), (69, 1)]) 8 4 4) 0 = true ∧ fld (moveRec 2 [(68, 1), (69, 1)]) 8 6 5 = 1) ∧
    (let s := withObj (fun o => { o with tier := 3, home := 7 * 2 ^ 48, anchor := some scratchBase });
      startsB specMemMove (cmd (moveRec 1)) s = true ∧ s.inScratch scratchBase = true ∧ ∀ o ∈ s.obj? 65537, o.anchor = some scratchBase) ∧
    (31 : Nat) < 32 ∧ startsB specMemMove { cmd (moveRec 3 [(192, 7)]) with answers := [1, 0x10000] } (oq) = true := by decide +kernel

/-! ## Pools and the last-level memory -/

/-- A pool of no whole page; one of none; ranges in use at its end and below it; pages of this device's own within it. -/
theorem witness_pool : (∀ n ∈ [65535, 65536, 0], startsB specPoolConfig (cmd (lay 8 [(0, n)])) (oq on) = true) ∧ u64At (lay 8 [(0, 65535)]) 0 % 65536 ≠ 0 := by
  decide +kernel
theorem on_placeable : on.placeable = 412283305984 := by decide +kernel
theorem placeable_with (f : MemSt → MemSt) (h : (f on.mem).chans = on.mem.chans) : ({ on with mem := f on.mem } : State).placeable = 412283305984 := by
  rw [← on_placeable]; simp only [State.placeable, State.hbmEnd, State.slabSize, State.listOf, h]
def pooled : State := { on with mem := { on.mem with poolRanges := [{ base := 0, size := 65536, owner := ⟨7, 0⟩ }] } }
def paged : State := { on with mem := { on.mem with pages := [{ base := 412283240448, size := 65536, owner := ⟨1, 0⟩, st := .owned }] } }
theorem witness_pool_sets : 65536 ≤ on.placeable / 2 ∧ (∃ r ∈ pooled.mem.poolRanges, r.base < pooled.placeable - 65536) ∧
    (∀ r ∈ paged.mem.poolRanges, paged.placeable - 65536 ≤ r.base) ∧
    (paged.mem.pages.filter (fun r => paged.placeable - 65536 < r.base + r.size && r.base < paged.poolBase && !paged.inScratch r.base)).map (·.size) ≠ [] ∧
    (∀ r ∈ on.mem.poolRanges, on.placeable - 65536 ≤ r.base) ∧ on.mem.pages = [] := by
  have h1 : pooled.placeable = 412283305984 := placeable_with (fun m => { m with poolRanges := [{ base := 0, size := 65536, owner := ⟨7, 0⟩ }] }) rfl
  have h2 : paged.placeable = 412283305984 :=
    placeable_with (fun m => { m with pages := [{ base := 412283240448, size := 65536, owner := ⟨1, 0⟩, st := .owned }] }) rfl
  have h3 : paged.poolBase = 412283305984 := by simp only [State.poolBase, h2]; decide +kernel
  rw [on_placeable, h1, h2, h3]
  decide +kernel

/-- A split with a context open; one that an object uses; all eight eighths, and none. -/
theorem witness_llm_config : startsB specLlmConfig (cmd (lay 8 [(0, 8)])) (jq) = true ∧ ((jq).jobs.j0.isOpen = true) ∧ ((oq).jobs.j0.isOpen = false ∧ (oq).jobs.j1.isOpen = false) ∧
    (∀ p ∈ [lay 8 [(0, 8)], lay 8 []], startsB specLlmConfig (cmd p) (oq) = true) ∧
    (withObj (fun o => { o with tier := 1 })).llmInUse 0 (llmSettings (lay 8 [])) = true ∧ startsB specLlmConfig (cmd (lay 8 [])) (withObj (fun o => { o with tier := 1 })) = true ∧
    (oq).llmInUse 8 (llmSettings (lay 8 [(0, 8)])) = false ∧ (oq).llmInUse 0 (llmSettings (lay 8 [])) = false := by decide +kernel
theorem mem_ok_owned : (oq).memOk := by unfold State.memOk; decide +kernel

/-- An estimate over an object twice, over two ports of eight lanes and the pool path; one that names no object; one whose period is too long. -/
def estRec (es : List (Nat × Nat)) : List Byte := es.flatMap (fun e => lay 16 [(0, 65537), (64, e.1), (96, e.2)])
def lanes8 (s : State) : State := (s.updPort 0 (fun q => { q with lanes := 8 })).updPort 1 (fun q => { q with lanes := 8 })
theorem witness_stream_est : startsB specStreamEst (cmd (estRec [(4096, 3), (65536, 1)])) (lanes8 (oq)) = true ∧ startsB specStreamEst (cmd (estRec [(1, 1)])) (oq on) = true ∧
    (oq on).obj? 65537 = none ∧ ((lanes8 (oq)).obj? 65537).isSome = true ∧ (lanes8 (oq)).planRate 0 = 180 ∧ (lanes8 (oq)).planRate 1 = 180 ∧
    (∀ q < 12, bit 1 q = true → q = 0) ∧ (oq).planRate 12 = 110 ∧ startsB specStreamEst (cmd (estRec [(2 ^ 32 - 1, 0x1000)])) (oq) = true := by decide +kernel

/-- An encode from the first half of the object into its second; each end where a range is not the command's. -/
def encRec (fs : List (Nat × Nat)) : List Byte := lay 48 ([(0, 65537), (128, 65537), (192, 0x100000), (256 + 8, 32), (320, 32)] ++ fs)
theorem witness_encode : startsB specEncode (cmd (encRec [])) (oq) = true ∧ startsB specEncode (cmd (encRec [])) (oq on) = true ∧
    (let r := EncReq.of (encRec []);
      ∀ o ∈ (oq).obj? 65537, (oq).plainRange 0 o r.srcOff r.srcLen = 0 ∧ (oq).plainRange 0 o r.dstOff r.dstLen = 0 ∧
        (oq).poisoned (o.home + r.srcOff) r.srcLen = false ∧ (oq).writeErr (o.home + r.dstOff) r.dstLen = 0 ∧
        (oq (owned 1)).plainRange 0 o r.srcOff r.srcLen = Code.OWN_FAULT ∧ (oq).plainRange 0 { o with comp := true } r.srcOff r.srcLen = Code.COMP_ACCESS ∧
        (oq).plainRange 0 { o with tier := 3 } r.srcOff r.srcLen = Code.TIER_ILLEGAL ∧ (oq).plainRange 0 { o with moving := true } r.srcOff r.srcLen = Code.MOVE_BUSY) ∧
    (let s := { oq with mem := { (oq).mem with llm := { (oq).mem.llm with poison := [scratchBase / 8] } } };
      s.poisoned scratchBase 64 = true ∧ startsB specEncode (cmd (encRec [])) s = true) := by decide +kernel
theorem witness_encode_range : ∀ f ∈ [(64, 2 ^ 40), (192, 2 ^ 40)], startsB specEncode (cmd (encRec [f])) (oq) = true ∧
    (let r := EncReq.of (encRec [f]);
      ∀ o ∈ (oq).obj? 65537, (if f.1 = 64 then (oq).plainRange 0 o r.srcOff r.srcLen else (oq).plainRange 0 o r.dstOff r.dstLen) = Code.DESC_INVALID ∧
        (f.1 = 192 → (oq).plainRange 0 o r.srcOff r.srcLen = 0)) := by decide +kernel

/-! ## F2 pools -/

def f2Rec (fs : List (Nat × Nat)) : List Byte := lay 32 ([(0, 9 * 2 ^ 48), (64, 65536)] ++ fs)
def f2Linked (s : State) : State := s.updPort 11 (fun q => { q with role := .f2, ff2 := true, link := .up, peer := some { devNum := 9, port := 0, protoMax := 1, role := 2, laneOk := 255, ready := true } })
def f2k (f : F2Obj → F2Obj := id) : F2Obj := f { handle := 65537, pool := 9 * 2 ^ 48, work := scratchBase, size := 0x200000, owner := 0, leased := true }
def f2State (f : F2Obj → F2Obj := id) : State :=
  let s := f2Linked (withObj (fun o => { o with f2 := true }))
  { s with mem := { s.mem with f2 := [f2k f] } }
/-- An open with an illegal size or working range, past 32 pools, with no link, and with one; the working range in use and free. -/
theorem witness_f2_open : (∀ p ∈ [f2Rec [(64, 1)], f2Rec [(192, 1)], f2Rec []], startsB specF2Open (cmd p) (f2Linked (oq on)) = true) ∧
    sizeOk (u64At (f2Rec [(64, 1)]) 8) = false ∧ u64At (f2Rec [(192, 1)]) 0x18 % 65536 ≠ 0 ∧ (f2Linked (oq on)).f2Port (devOf (9 * 2 ^ 48)) = some 11 ∧
    (oq on).f2Port (devOf (9 * 2 ^ 48)) = none ∧ startsB specF2Open (cmd (f2Rec [])) (oq on) = true ∧
    (let s := { oq on with mem := { on.mem with f2 := List.replicate 32 f2k } }; 32 ≤ s.mem.f2.length ∧ startsB specF2Open (cmd (f2Rec [])) s = true) := by decide +kernel
theorem witness_f2_fit : on.fit 0 on.poolBase 65536 (some 0) = .at_ 0 ∧ on.fit 0 on.poolBase 65536 (some (2 ^ 60)) = .short 65536 := by
  have h : on.poolBase = 412283305984 := by simp only [State.poolBase, on_placeable]; decide +kernel
  rw [h]; decide +kernel
/-- A flush of dirty frames and of none; a flush and close of no pool; a close of a pinned object, with and without dirty frames. -/
theorem witness_f2 : (∀ l ∈ [[], [0, 511]], let s := f2State (fun k => { k with dirty := l });
      startsB specF2Flush (cmd h1) s = true ∧ startsB specF2Close (cmd h1) s = true ∧ s.f2Of 65537 = some (f2k (fun k => { k with dirty := l })) ∧
        s.f2Port (devOf (9 * 2 ^ 48)) = some 11 ∧ s.mem.f2.Nodup ∧ (s.obj? 65537).isSome = true ∧ ∀ o ∈ s.obj? 65537, s.pinnedBy o = none) ∧
    startsB specF2Flush (cmd h1) (oq on) = true ∧ startsB specF2Close (cmd h1) (oq on) = true ∧ (oq on).f2Of 65537 = none ∧
    (let s := { f2State with mem := { (f2State).mem with ckptJobs := [{ save := true, ctx := .j0, key := 1, slot := 0, dev := 7, man := 0, objs := [], pins := [1] }] } };
      ∀ o ∈ s.obj? 65537, (s.pinnedBy o).isSome = true) := by decide +kernel

/-! ## Optimizer commands -/

/-- A J0 object of 2 MiB at the start of HBM, and a record whose four planes of 16,384 elements lie in it. -/
def hbmChans : Vector HbmChan 256 := on.mem.chans.set 0 { on.mem.chans.get 0 with privileged := true }
def inHbm (x : Nat) : State := { on with mem := { on.mem with
  objs := [{ index := 1, gen := 1, owner := x, tier := 2, size := 0x200000, home := 0 }]
  pages := [{ base := 0, size := 0x200000, owner := ⟨1, x⟩, st := .owned }]
  chans := hbmChans } }
def oxRec (fs : List (Nat × Nat) := []) : List Byte := lay 128 ([(64, 0x10000), (128, 0x20000), (192, 0x30000), (0x28 * 8, 16384), (0x38 * 8, 3)] ++ fs)

/-- A mask with a context open; of 33 channels, of a fenced one, and of 32. -/
def maskOf (n : Nat) : List Byte := lay 32 [(0, n)]
theorem mask33 : ofBytes (slice (maskOf (2 ^ 33 - 1)) 0 32) = 2 ^ 33 - 1 := by decide +kernel
theorem mask32 : ofBytes (slice (maskOf (2 ^ 32 - 1)) 0 32) = 2 ^ 32 - 1 := by decide +kernel
theorem witness_designate : (∀ s ∈ [jq, oq on], startsB specOxDesignate (cmd (maskOf (2 ^ 33 - 1))) s = true ∧ startsB specOxDesignate (cmd (maskOf (2 ^ 32 - 1))) s = true) ∧
    (jq).jobs.j0.isOpen = true ∧ (oq on).jobs.j0.isOpen = false ∧ (oq on).jobs.j1.isOpen = false ∧
    ((List.finRange 256).filter (fun ch => bit (ofBytes (slice (maskOf (2 ^ 33 - 1)) 0 32)) ch.val)).length = 33 ∧
    ((List.finRange 256).filter (fun ch => bit (ofBytes (slice (maskOf (2 ^ 32 - 1)) 0 32)) ch.val)).length = 32 ∧
    (∀ ch ∈ (List.finRange 256).filter (fun ch => bit (ofBytes (slice (maskOf (2 ^ 32 - 1)) 0 32)) ch.val), (on.mem.chans.get ch).fenced = false ∧ (on.mem.chans.get ch).absent = false) ∧
    ((on.updChan 31 (fun k => { k with fenced := true })).mem.chans.get 31).fenced = true := by rw [mask33, mask32]; decide +kernel

/-- A run: planes that overlap; no privileged channel; another's object; a coded object; an incomplete step; a run before it; one that begins. -/
def oxq : State := jq id (inHbm 0)
theorem len0 : (oxq.listOf 0).length = 128 := by decide +kernel
theorem len1 : (oxq.listOf 1).length = 128 := by decide +kernel
theorem slab_gen (s : State) (a x y : Nat) (hx : s.slabSize 0 = x) (hy : s.slabSize 1 = y) : s.slabOf a =
    if x + y = 0 || 32 * (x + y) ≤ a then none
    else if a % (x + y) < x then some (a / (x + y), 0, a % (x + y)) else some (a / (x + y), 1, a % (x + y) - x) := by subst hx hy; rfl
theorem slab0 : oxq.slabSize 0 = 6442450944 := by rw [State.slabSize, len0]; rfl
theorem slab1 : oxq.slabSize 1 = 6442450944 := by rw [State.slabSize, len1]; rfl
theorem slab_of (a : Nat) : oxq.slabOf a = if 6442450944 + 6442450944 = 0 || 32 * (6442450944 + 6442450944) ≤ a then none
    else if a % (6442450944 + 6442450944) < 6442450944 then some (a / (6442450944 + 6442450944), 0, a % (6442450944 + 6442450944))
    else some (a / (6442450944 + 6442450944), 1, a % (6442450944 + 6442450944) - 6442450944) := slab_gen oxq a _ _ slab0 slab1
def run1 (m1 : Nat) : OxRun := { oxr with
  begun := false, master := 0, m1 := m1, m2 := 0x20000, grad := 0x30000, elems := 16384, half := 0, chans := [], consts := List.replicate 10 0 }
theorem run_of : oxRunOf oxq (cmd (oxRec)) = run1 0x10000 := by simp only [oxRunOf, slab_of]; decide +kernel
theorem run_of' : oxRunOf oxq (cmd (oxRec [(64, 0x10000)])) = run1 0x20000 := by simp only [oxRunOf, slab_of]; decide +kernel
theorem witness_ox_run : startsB specOxRun (cmd (oxRec)) oxq = true ∧ startsB specOxRun (cmd (oxRec [(64, 0x10000)])) oxq = true := by decide +kernel
theorem witness_ox_layout : oxq.oxLayout (run1 0x20000) = false ∧ oxq.oxLayout (run1 0x10000) = true ∧ oxq.oxChans 0 = [0] := by
  simp only [State.oxLayout, show ∀ n, (run1 n).half = 0 from fun _ => rfl, slab_of, len0]
  decide +kernel
theorem witness_ox_none : (jq).oxChans 0 = [] := by decide +kernel
theorem hbm_of (s : State) (h : s.mem.chans = oxq.mem.chans) : s.hbmEnd = 412316860416 := by
  have e : ∀ n, s.listOf n = oxq.listOf n := fun n => by simp only [State.listOf, h]
  simp only [State.hbmEnd, State.slabSize, e, len0, len1]; rfl
def oxOther : State := jq id (inHbm 1)
def oxCoded : State := jq id { inHbm 0 with mem := { (inHbm 0).mem with
  objs := [{ index := 1, gen := 1, owner := 0, tier := 2, size := 0x200000, home := 0, comp := true }] } }
theorem witness_ox_own : oxq.oxOwn (run1 0x10000) = (0, 0) := by
  simp only [State.oxOwn, State.access, State.accessErr, State.mapped, hbm_of oxq rfl]
  decide +kernel
theorem witness_ox_own_fault : (oxOther.oxOwn (run1 0x10000)).1 = Code.OWN_FAULT := by
  simp only [State.oxOwn, State.access, State.accessErr, State.mapped, hbm_of oxOther rfl]
  decide +kernel
theorem witness_ox_coded : (oxCoded.oxOwn (run1 0x10000)).1 = Code.COMP_ACCESS := by
  simp only [State.oxOwn, State.access, State.accessErr, State.mapped, hbm_of oxCoded rfl]
  decide +kernel
theorem witness_ox_free : oxq.oxBlocked .j0 3 = false := by decide +kernel
theorem witness_ox_blocked : (oxq.updChan 5 (fun k => { k with ox := k.ox.set .j0 { step := 2, next := 0, incomplete := true } })).oxBlocked .j0 3 = true := by decide +kernel
theorem witness_ox_earlier : (jq id oxState).mem.oxRuns.filter (fun q => q.ctx = .j0) = [oxr] ∧ oxr.begun = true := ⟨rfl, rfl⟩
theorem witness_ox_query : startsB specOxQuery (cmd []) (jq) = true := by decide +kernel

/-! ## Checkpoints -/

def saveRec (n : Nat) (h : Nat) : List Byte := lay (8 + 8 * n) [(1, n), (64, h)]
def restoreRec (dev : Nat) (h : Nat) : List Byte := lay 16 [(0, dev), (17, 1), (64, h)]
def cj : CkptJob := { save := true, ctx := .j0, key := 1, slot := 0, dev := 7, man := 0, objs := [] }
/-- A job over two devices on axis 0 whose places are known, with the object. -/
def ck : State :=
  let s := jq (fun j => { j with map := { j.map with axesD := 1, lens := [2, 1, 1, 1, 1, 1], buddyAxis := 0, buddyOff := 1 } }) (owned 0)
  { s with fab := { s.fab with places := [0, 1] } }
/-- The limit of four; no object, another's, a moving one; the buddy down, and answering; a slot that holds such a save. -/
theorem witness_save : (∀ s ∈ [ck, { ck with mem := { ck.mem with ckptJobs := List.replicate 4 cj } }, jq id (owned 1), jq, { ck with fab := { ck.fab with failed := [ck.buddy .j0] } }],
      startsB specCkptSave { cmd (saveRec 1 65537) with answers := [1, 0, 1, 0x10000] } s = true ∧ startsB specCkptSave (cmd (saveRec 1 65537)) s = true ∧
      startsB specCkptRestore { cmd (restoreRec 7 65537) with answers := [0] } s = true ∧ startsB specCkptRestore (cmd (restoreRec 7 65537)) s = true) ∧
    ck.namedErr .j0 [65537] = none ∧ (jq).namedErr .j0 [65537] = some (Code.BAD_HANDLE, 0, 0) ∧ (jq id (owned 1)).namedErr .j0 [65537] = some (Code.OWN_FAULT, scratchBase, 65537) ∧
    (withObj (fun o => { o with moving := true })).namedErr .j0 [65537] = some (Code.MOVE_BUSY, 0, 0) ∧ ck.buddy .j0 ∉ ck.fab.failed ∧
    (let k := placeSlot ck .j0 0 (ck.buddy .j0) (ck.mem.objs) [0, 65536]; k.2 = (none, Code.NO_SPACE, 65536)) := by decide +kernel
/-- A slot whose save had the same sizes: its manifest and object, both on the buddy. -/
def ckHeld : State := { ck with mem := { ck.mem with
  objs := ck.mem.objs ++ [{ index := 2, gen := 1, owner := 0, tier := 3, size := 65536, home := ck.buddy .j0 * 2 ^ 48 },
                          { index := 3, gen := 1, owner := 0, tier := 3, size := 0x200000, home := ck.buddy .j0 * 2 ^ 48 + 65536, comp := true }]
  ckpt := ck.mem.ckpt.set .j0 (((ck.mem.ckpt.get .j0)).set 0 { man := some 65538, objs := [65539] }) } }
theorem witness_save_taken : (placeSlot ckHeld .j0 0 (ck.buddy .j0) (ck.mem.objs) []).2.1.isSome = true ∧
    (let own := (((ckHeld.mem.ckpt.get .j0).toList.getD 0 {}).man.bind ckHeld.obj?).filter (fun o => devOf o.home = ck.buddy .j0); own ≠ none) ∧
    startsB specCkptRestore (cmd (restoreRec (ck.buddy .j0) 65537)) ckHeld = true ∧
    (let own := (((ck.mem.ckpt.get .j0).toList.getD 0 {}).man.bind ck.obj?).filter (fun o => devOf o.home = 7); own = none) := by decide +kernel

/-! ## Fabric and collective commands -/

/-- A port beyond the last; an Uplink beside one of another axis and beside its own axis's; enabled and disabled. -/
def portRec (p role en : Nat) : List Byte := lay 8 [(0, p), (4, role), (6, en)]
def uplinked (p : Port) : State := oq (on.updPort p (fun q => { q with role := .uplink }))
theorem witness_port_config : (∀ p ∈ [portRec 12 0 1, portRec 0 1 1, portRec 1 1 1, portRec 11 0 1, portRec 11 0 0], startsB specPortConfig (cmd p) (uplinked 1) = true) ∧
    Role.ofCode (bits (u64At (portRec 0 1 1) 0) 5 4) = .uplink ∧ ((uplinked 1).fab.ports.get 1).roleNext = .uplink ∧ (1 : Port) = otherPort 0 ∧
    ((uplinked 2).fab.ports.get 2).roleNext = .uplink ∧ (2 : Port) ≠ otherPort 0 ∧ startsB specPortConfig (cmd (portRec 0 1 1)) (uplinked 2) = true ∧
    (∀ o : Port, o ≠ 0 → ((uplinked 1).fab.ports.get o).roleNext = .uplink → o = otherPort 0) ∧ startsB specFabStatus (cmd []) (uplinked 1) = true := by decide +kernel

/-- A bank of zeros: no reserved bit is set, bank 0, Epoch 0. -/
def zeroBank : List Byte := List.replicate 4616 0
theorem of_bytes_zero (n : Nat) : ofBytes (List.replicate n (0 : Byte)) = 0 := by
  induction n with
  | zero => rfl
  | succ n ih => rw [List.replicate_succ, ofBytes, ih]; rfl
theorem slice_zero (n off k : Nat) : slice (List.replicate n (0 : Byte)) off k = List.replicate k 0 := by
  simp only [slice, List.drop_replicate, List.take_replicate, List.length_replicate, List.replicate_append_replicate]
  congr 1; omega
theorem fld_zero (n off hi lo : Nat) : fld (List.replicate n (0 : Byte)) off hi lo = 0 := by
  rw [fld, u64At, slice_zero, of_bytes_zero]; simp [bits]
theorem first_bit_zero (n : Nat) (rs : List (Nat × Nat × Nat)) : firstBit (List.replicate n (0 : Byte)) rs = none := by
  rw [firstBit, List.findSome?_eq_none_iff]; intro r _; rw [fld_zero]; rfl
def banked (a b : BankSt) (ea eb : Nat) : State := oq { on with fab := { on.fab with banks := #v[{ epoch := ea, st := a }, { epoch := eb, st := b }] } }
theorem starts_route_load (s : State) (p : List Byte) (hl : p.length = 4616) (hz : ∀ rs, firstBit p rs = none)
    (h : startsB { specRouteLoad with lenOk := fun _ => true, bad := fun _ => none } (cmd []) s = true) : Starts specRouteLoad (cmd p) s :=
  have k := starts_of h
  ⟨k.may, k.session, k.payload, by simp [specRouteLoad, lenIs, cmd, hl], k.foal, k.context, hz _, k.job⟩
theorem zero_bank (s : State) (h : startsB { specRouteLoad with lenOk := fun _ => true, bad := fun _ => none } (cmd []) s = true) :
    Starts specRouteLoad (cmd zeroBank) s := starts_route_load s zeroBank List.length_replicate (first_bit_zero _) h
/-- Bank 0 draining, in force, and free; the Epoch that follows 255 and one that follows no other; swaps of none, of the one bank and of two. -/
theorem witness_route : (∀ s ∈ [banked .draining .active 0 255, banked .active .emptySt 0 0, banked .emptySt .active 0 255, banked .standby .active 0 5, banked .emptySt .emptySt 0 0,
        banked .standby .emptySt 1 0, banked .standby .standby 1 2, banked .emptySt .standby 0 1],
      startsB { specRouteLoad with lenOk := fun _ => true, bad := fun _ => none } (cmd []) s = true ∧ startsB specRouteSwap (cmd []) s = true) ∧
    (banked .emptySt .active 0 255).fab.active? = some { epoch := 255, st := .active } ∧ (255 + 1) % 256 = 0 ∧
    (banked .standby .active 0 5).fab.active? = some { epoch := 5, st := .active } ∧ (banked .emptySt .emptySt 0 0).fab.active? = none ∧
    (let s := banked .standby .active 6 5; (s.fab.src.filter (fun f => f.routeEpochs.contains 5)) = [] ∧
      let t := { s with fab := { s.fab with src := [{ cls := 0, peer := 7, routeEpochs := [5] }] } }; (t.fab.src.filter (fun f => f.routeEpochs.contains 5)) ≠ [] ∧
        startsB specRouteSwap (cmd []) t = true) := by decide +kernel

/-- A group on axis 0, of four devices, of which this one is the first. -/
def groupRec (axes lo n : Nat) : List Byte := lay 32 [(0, 5), (8, axes), (64, lo), (72, n)]
def collJob (i : List CInst) : State := mq id ((coll i).updJob .j0 (fun j => { j with map := { j.map with axesD := 1, lens := [4, 1, 1, 1, 1, 1] } }))
/-- Axes of no one role; an axis that ends beyond its length; one device; not a member; in use; defined. An undefine of each kind, and a query. -/
theorem witness_coll_define : (∀ p ∈ [groupRec 2 0 2, groupRec 1 3 2, groupRec 1 2 2, groupRec 1 0 1, groupRec 1 0 4], startsB specCollDefine (cmd p) (collJob [ci]) = true ∧
      startsB specCollDefine (cmd p) (collJob []) = true) ∧
    ((collJob []).jobs.get .j0).map.oneRole 2 = false ∧ ((collJob []).jobs.get .j0).map.oneRole 1 = true ∧
    groupAxisBad ((collJob []).jobs.get .j0) (groupOf (groupRec 1 3 2)) = some 64 ∧ groupAxisBad ((collJob []).jobs.get .j0) (groupOf (groupRec 1 0 4)) = none ∧
    groupAxisBad ((collJob []).jobs.get .j0) (groupOf (groupRec 1 0 1)) = none ∧ (groupOf (groupRec 1 0 1)).size = 1 ∧
    groupAxisBad ((collJob []).jobs.get .j0) (groupOf (groupRec 1 2 2)) = none ∧ (collJob []).memberOf (groupOf (groupRec 1 2 2)) 1 = false ∧
    (collJob []).memberOf (groupOf (groupRec 1 0 4)) 1 = true ∧ (collJob [ci]).groupBusy .j0 5 = true ∧ (collJob []).groupBusy .j0 5 = false ∧
    (∀ n ∈ [5, 6], startsB specCollUndefine (cmd (lay 8 [(0, n)])) (collJob []) = true ∧ startsB specCollQuery (cmd (lay 8 [(0, n)])) (collJob []) = true) ∧
    startsB specCollUndefine (cmd (lay 8 [(0, 5)])) (collJob [ci]) = true ∧ (collJob []).cgroup .j0 6 = none ∧ (collJob []).cgroup .j0 5 = some cg := by decide +kernel

/-- A fusion of one buffer, apart from the shard and on it; an instance uses its FuseId or none does. -/
def fuseRec (addr : Nat) : List Byte := lay 32 [(0, 3), (8, 1), (128, addr), (192, 128)]
theorem witness_fuse : (∀ s ∈ [collJob [], collJob [ci]], startsB specCollFuse (cmd (fuseRec 512)) s = true ∧ startsB specCollFuse (cmd (fuseRec 504)) s = true) ∧
    anyMeet (fuseOf (fuseRec 512)).ranges0 = false ∧ anyMeet (fuseOf (fuseRec 504)).ranges0 = true ∧ (ci).fuse = (fuseOf (fuseRec 512)).id ∧
    (collJob [ci]).cfuse .j0 3 = some cf := by decide +kernel

/-- An arm of no group and of no fusion; a wrong destination; 32 armed; 8 in flight; ranges that meet, and that another owns; one that starts at
once and one that waits. -/
def armRec (group fuse dst trig : Nat) : List Byte := lay 16 [(0, group), (6, fuse), (14, 1), (15, dst), (20, trig)]
theorem witness_arm : (∀ p ∈ [armRec 6 3 0 0, armRec 5 4 0 0, armRec 5 3 1 0, armRec 5 3 0 0, armRec 5 3 0 1], startsB specCollArm (cmd p) (collJob []) = true) ∧
    startsB specCollArm (cmd (armRec 5 3 0 1)) (collJob (List.replicate 32 ci)) = true ∧ (collJob (List.replicate 32 ci)).armedN .j0 = 32 ∧
    (let s := collJob (List.replicate 8 (ci (fun i => { i with running := true }))); s.flyingN = 8 ∧ s.armedN .j0 = 0 ∧ startsB specCollArm (cmd (armRec 5 3 0 0)) s = true) ∧
    (instOf (armRec 5 3 0 0) .j0 0).group = 5 ∧ (instOf (armRec 5 3 0 0) .j0 0).fuse = 3 ∧ armBad (instOf (armRec 5 3 1 0) .j0 0) 0 = some 15 ∧
    armBad (instOf (armRec 5 3 0 0) .j0 0) 0 = none ∧ (instOf (armRec 5 3 0 0) .j0 0).trig = 0 ∧ (instOf (armRec 5 3 0 1) .j0 0).trig = 1 ∧
    anyMeet ((collRanges (instOf (armRec 5 3 0 0) .j0 0) cg cf).filter (fun r => r.2 ≠ 0)) = false ∧
    anyMeet ((collRanges (instOf (armRec 5 3 0 0) .j0 0) cg { cf with shard := scratchBase }).filter (fun r => r.2 ≠ 0)) = true ∧
    (∀ r ∈ collRanges (instOf (armRec 5 3 0 0) .j0 0) cg cf, (collJob []).armErr .j0 r = 0) := by decide +kernel
theorem witness_arm_fault : let s := { collJob [] with mem := { (collJob []).mem with pages := [] } };
    startsB specCollArm (cmd (armRec 5 3 0 0)) s = true ∧
      ((collRanges (instOf (armRec 5 3 0 0) .j0 0) cg cf).map (s.armErr .j0)).find? (fun e => e ≠ 0) = some Code.OWN_FAULT := by decide +kernel

/-! ## Counters, watches, media and module commands -/

/-- Selects of the last counter and of none; outside a freeze and within one. -/
def cfgRec (first n : Nat) : List Byte := lay (8 + 16 * n) ([(0, first), (10, n)] ++ (List.range n).map (fun i => (64 + 128 * i + 40, 1)))
def frozenState : State := { oq on with obs := { on.obs with frozen := true } }
theorem witness_counters : (∀ s ∈ [oq on, frozenState], startsB specCntConfig (cmd (cfgRec 1023 1)) s = true ∧ startsB specCntConfig (cmd (cfgRec 0 0)) s = true ∧
      startsB specCntFreeze (cmd []) s = true ∧ startsB specCntRelease (cmd []) s = true ∧ startsB specCntSnapshot (cmd []) s = true ∧ startsB specCntCatalog (cmd []) s = true ∧
      startsB specCntLogRead (cmd (lay 8 [(0, 1)])) s = true) ∧ (oq on).obs.frozen = false ∧ fld (cfgRec 1023 1) 0 9 0 = 1023 ∧ fld (cfgRec 1023 1) 0 20 10 = 1 := by decide +kernel

/-- A watch of a context not open; its number in use; its ring out of the object, and in it to the last byte. -/
def watchRec (base : Nat) : List Byte := lay 32 [(0, 63), (7, 1), (26, 1), (64 + 22, 8), (128, base), (128 + 48, 2)]
def watched (n : Nat) : State := let s := jq id (owned 0); { s with obs := { s.obs with watches := s.obs.watches.set 63 (some { (watchOf (watchRec scratchBase)) with held := n }) } }
theorem witness_watch : (∀ s ∈ [oq, watched 0, jq id (owned 0)], (∀ b ∈ [scratchBase + 0x1FFF00, scratchBase + 0x1FFF80], startsB specHenWatch (cmd (watchRec b)) s = true) ∧
      startsB specHenRelease (cmd (lay 8 [(0, 63), (6, 2)])) s = true ∧ startsB specHenUnwatch (cmd (lay 8 [(0, 63)])) s = true) ∧
    ((oq).jobs.get .j0).isOpen = false ∧ ((watched 0).watch? 63).isSome = true ∧ (jq id (owned 0)).watch? 63 = none ∧
    (jq id (owned 0)).ringErr (watchOf (watchRec (scratchBase + 0x1FFF80))) = Code.OWN_FAULT ∧ (jq id (owned 0)).ringErr (watchOf (watchRec (scratchBase + 0x1FFF00))) = 0 ∧
    ((watched 1).watch? 63).map (·.held) = some 1 ∧ ((watched 2).watch? 63).map (·.held) = some 2 ∧ fld (lay 8 [(0, 63), (6, 2)]) 0 16 6 = 2 ∧
    (∀ n ∈ [1, 2], startsB specHenRelease (cmd (lay 8 [(0, 63), (6, 2)])) (watched n) = true) := by decide +kernel

/-- A stream record with its buffer and ring, of two entries, in the object. -/
def streamRec (buf ring : Nat) : List Byte :=
  lay 128 [(0, 63), (7, 1), (17, 1), (20, 1), (64 + 32, 16), (64 + 48, 16), (15, 2), (128, buf), (192, 65536), (256, ring), (320, 2)]
def coded (s : State) : State := { s with mem := { s.mem with objs := s.mem.objs.map (fun o => { o with comp := true }) } }
/-- A stream in use; no job; its buffer or ring another's or coded; opened. -/
theorem witness_media_open : (∀ s ∈ [jq id (media (stream 0) (owned 0)), oq, jq id (owned 1), coded (jq id (owned 0)), jq id (owned 0)],
      startsB specMediaOpen (cmd (streamRec scratchBase (scratchBase + 65536))) s = true ∧ startsB specMediaOpen (cmd (streamRec scratchBase (scratchBase + 0x200000))) s = true) ∧
    fld (streamRec 0 0) 0 5 0 = 63 ∧ ((jq id (media (stream 0) (owned 0))).media.streams.get 63).isSome = true ∧ (oq).media.streams.get 63 = none ∧
    ((oq).jobs.get .j0).isOpen = false ∧ (jq id (owned 1)).mediaRange .j0 scratchBase 65536 = Code.OWN_FAULT ∧
    (coded (jq id (owned 0))).mediaRange .j0 scratchBase 65536 = Code.COMP_ACCESS ∧ (jq id (owned 0)).mediaRange .j0 scratchBase 65536 = 0 ∧
    (let t := MStream.of (streamRec scratchBase (scratchBase + 65536)); (jq id (owned 0)).mediaRange t.ctx t.ringAddr (t.ringEntries * t.entryBytes) = 0) ∧
    (let t := MStream.of (streamRec scratchBase (scratchBase + 0x200000)); (jq id (owned 0)).mediaRange t.ctx t.ringAddr (t.ringEntries * t.entryBytes) = Code.OWN_FAULT) := by decide +kernel
theorem witness_media_ring_coded : let t := MStream.of (streamRec scratchBase (scratchBase + 65536));
    let s := jq id (owned 0);
    let s := { s with mem := { s.mem with objs := [{ index := 1, gen := 1, owner := 0, tier := 2, size := 65536, home := scratchBase },
      { index := 2, gen := 1, owner := 0, tier := 2, size := 0x1F0000, home := scratchBase + 65536, comp := true }] } };
    s.mediaRange t.ctx t.dpbAddr t.dpbBytes = 0 ∧ s.mediaRange t.ctx t.ringAddr (t.ringEntries * t.entryBytes) = Code.COMP_ACCESS := by decide +kernel

/-- A feed of a full queue and of one chunk less; releases of as many entries as are held, and of more; a close with and without a stream. -/
def feedRec : List Byte := lay 16 [(64, 16777216), (64 + 32, 63)]
def fedState (n held : Nat) : State := oq (media (stream held (fun t => { t with chunks := List.replicate n ⟨0, 0, 100, false, false, false, 0⟩ })))
theorem witness_media_queue : (∀ s ∈ [oq on, fedState 32 1, fedState 31 2], startsB specMediaFeed (cmd feedRec) s = true ∧ startsB specMediaRelease (cmd (lay 8 [(0, 63), (6, 2)])) s = true ∧
      startsB specMediaClose (cmd (lay 8 [(0, 63)])) s = true ∧ startsB specMediaConfig (cmd (lay 8 [(0, 10000)])) s = true ∧ startsB specMediaConfig (cmd (lay 8 [])) s = true) ∧
    fld feedRec 8 37 32 = 63 ∧ (oq on).liveStream 63 = none ∧ ((fedState 32 1).liveStream 63).map (·.chunks.length) = some 32 ∧
    ((fedState 31 2).liveStream 63).map (·.chunks.length) = some 31 ∧ ((fedState 32 1).liveStream 63).map (·.ringHeld) = some 1 ∧
    ((fedState 31 2).liveStream 63).map (·.ringHeld) = some 2 := by decide +kernel

/-- The reads; caps at and beyond both ends; the policy; the time; each queue of records, from both ports. -/
theorem witness_module : (∀ sp ∈ [specPwrStatus, specIdRead, specCapRead], startsB sp (cmd []) (oq on) = true) ∧
    (∀ w ∈ [599, 600, 1250, 1251], startsB specCapSet (cmd (lay 8 [(0, w)])) (oq on) = true ∧ fld (lay 8 [(0, w)]) 0 15 0 = w) ∧
    startsB specPolicy (cmd (lay 32 [(0, 60), (224, 7)])) (oq on) = true ∧ startsB specTimeSet (cmd (lay 8 [(0, 5)])) (oq on) = true ∧
    (∀ b ∈ [0, 1], ∀ q ∈ [0, 1], startsB specCperRead { cmd (lay 16 [(0, b), (64, 3)]) with q := q, outLen := 4096 } (oq on) = true) := by decide +kernel

/-- A retirement's record of channel 255, and none; with no flash operation in progress. -/
def retired : State := { oq on with log := { on.log with sector0 := [.record 1 { severity := 0, eventCode := 0, unitClass := 7, unitIndex := 255 }] } }
theorem witness_retire_clear : (∀ s ∈ [oq on, retired], startsB specRetireClear (cmd (lay 8 [(0, 255)])) s = true) ∧ (oq on).retireRec 255 = false ∧ retired.retireRec 255 = true ∧
    retired.mbx.started = [] ∧ retired.log.active = 0 := by decide +kernel

/-- An identity: numbers beyond both ends and at them; a module that is no spare; a job open; another ring; taken. -/
def assumeRec (dev lc : Nat) : List Byte := lay 32 [(0, dev), (64, lc)]
def spare (s : State) : State := { s with ident := { s.ident with spare := true, spareAxis := 1 } }
theorem witness_assume : (∀ p ∈ [assumeRec 0 0, assumeRec 0x8001 0, assumeRec 1 0, assumeRec 0x8000 (63 * 64), assumeRec 0x8000 1],
      ∀ s ∈ [oq on, spare (jq), spare (oq on)], startsB specAssume (cmd p) s = true) ∧
    fld (assumeRec 0x8001 0) 0 15 0 = 0x8001 ∧ fld (assumeRec 0x8000 0) 0 15 0 = 0x8000 ∧ (oq on).ident.spare = false ∧ (spare (jq)).jobs.j0.isOpen = true ∧
    (let differs (p : List Byte) := (List.range 7).any (fun a => a ≠ 1 && bits (fld p 8 41 0) (6 * a + 5) (6 * a) ≠ bits (spare (oq on)).ident.physCoord (6 * a + 5) (6 * a));
      differs (assumeRec 0x8000 (63 * 64)) = false ∧ differs (assumeRec 0x8000 1) = true) := by decide +kernel

/-- Flash reads of no byte, of one, of 1 MiB at the end and beyond it. -/
def rdRec (off len : Nat) : List Byte := lay 16 [(0, off), (64, len)]
theorem witness_flash_read : (∀ p ∈ [rdRec 0 0, rdRec 0 0x100001, rdRec 0 1, rdRec 0x3F00000 0x100000, rdRec 0x3F00001 0x100000], startsB specFlashRead (cmd p) (oq on) = true) ∧
    fld (rdRec 0 0x100001) 8 20 0 = 0x100001 ∧ u64At (rdRec 0x3F00001 0x100000) 0 = 0x3F00001 := by decide +kernel
/-- Erases and writes off a block, at both ends of the idle slot and beyond it; locked; without the energy; while another is in progress; begun. -/
def flashState (f : State → State) : State := f { oq on with regs := { on.regs with flashUnlock := true }, power := { on.power with bankMj := 1200 } }
def writeRec (off : Nat) : List Byte := lay 9 [(0, off)]
theorem witness_flash_write : (∀ s ∈ [oq on, flashState id, flashState (fun s => { s with power := { s.power with bankMj := 1199 } }),
        flashState (fun s => { s with mbx := { s.mbx with started := [{ code := CmdCode.flashErase, cmd := cmd [], at_ := 0 }] } })],
      (∀ p ∈ [rdRec 1 1, rdRec 0x1000000 0x100, rdRec 0x1000000 0x101], startsB specFlashErase (cmd p) s = true) ∧
      (∀ p ∈ [writeRec 0x1FFFFFF, writeRec 0x2000000], startsB specFlashWrite (cmd p) s = true)) ∧
    (flashState id).ident.fwSlot = false ∧ (flashState id).regs.flashUnlock = true ∧ (oq on).regs.flashUnlock = false ∧ (flashState id).flashHost = none ∧
    (flashState id).mbx.started = [] ∧ (flashState id).power.flashBusy = false ∧
    startsB specImageCommit (cmd (lay 8 [(0, 1)])) (oq on) = true := by decide +kernel
theorem witness_image (image : List Byte) : Config.imageSigned image = true ∨ Config.imageSigned image = false := by cases Config.imageSigned image <;> simp

/-! ## Registers -/

/-- A requester that armed a register at time 0, at a later time; and the same of another requester, with a job open. -/
def armedAt (mule : Bool) (off : Nat) (v : BitVec 32) (now : Nat) (s : State := on) : State := { s.setArmed mule (some (off, v, 0)) with now := now }
theorem witness_guard : (∀ off ∈ [0x0020, 0x1010, 0x2018, 0x4000, 0x4008], on.guardServed off = true) ∧ State.reset.guardServed 0x4000 = false ∧ on.armed true = none ∧
    (armedAt true 0x4000 5 256).armed true = some (0x4000, 5, 0) ∧ (armedAt true 0x4000 5 256).armed false = none ∧ (armedAt true 0x4000 5 256).now ≤ 0 + 256 ∧
    0 + 256 < (armedAt true 0x4000 5 257).now ∧ (armedAt true 0x4000 5 255).now < 0 + 256 ∧ (~~~(5 : BitVec 32)) = 0xFFFFFFFA ∧
    (armedAt false 0x4000 5 256).completes false 0x4000 0xFFFFFFFA = true ∧ (armedAt false 0x4000 5 257).completes false 0x4000 0xFFFFFFFA = false ∧
    (armedAt false 0x4008 1 0 (job)).jobs.j0.isOpen = true ∧ (armedAt false 0x0020 1 0).jobs.j0.isOpen = false ∧ (armedAt false 0x0020 1 0).jobs.j1.isOpen = false := by decide +kernel
theorem test_unlock : (after (exec (.flashUnlock false 0xFFFFFFFA) (armedAt false 0x4000 5 256))).regs.flashUnlock = true := by decide +kernel
theorem test_unlock_late : (after (exec (.flashUnlock false 0xFFFFFFFA) (armedAt false 0x4000 5 257))).regs.flashUnlock = false := by decide +kernel

/-- Offsets with and without a register, in Off and out of it; the low read-only registers; a doorbell and none; caps about the ends of the range. -/
theorem witness_registers : on.regRaw 0x3FFFFFC = none ∧ (∀ off ∈ [0x0004, 0x1004, 0x2010, 0x3000, 0x3008, 0x5000, 0x5004, 0x103C, 0x10050], (on.regRaw off).isSome = true) ∧
    on.sys.service ≠ .off ∧ State.reset.sys.service = .off ∧ (0x0004 : Nat) ∉ [0x0020, 0x0024] ∧ isDoorbell 0x10000 = true ∧ isDoorbell 0x10004 = false ∧
    (0x1004 : Nat) ∉ [0x0020, 0x0024, 0x1010, 0x1014, 0x2018, 0x201C, 0x4000, 0x4004, 0x4008, 0x400C] ∧ (State.reset.regRaw 0x1004).isSome = true ∧
    bits (600 : BitVec 32).toNat 15 0 = 600 ∧ bits (1250 : BitVec 32).toNat 15 0 = 1250 ∧ bits (1251 : BitVec 32).toNat 15 0 = 1251 ∧
    (let s := { on with regs := { on.regs with evtStatus := 9, evtIntEnable := true }, mbx := { on.mbx with evt := { on.mbx.evt with seq := 9 } } };
      s.regs.evtStatus ≠ 0 ∧ (9#32) = s.mbx.evt.seq ∧ (8#32) ≠ s.mbx.evt.seq ∧ s.regs.evtIntEnable = true) ∧ on.regs.evtStatus = 0 ∧ on.regs.evtIntEnable = false := by
  decide +kernel
theorem test_cap : (after (exec (.pwrCapWrite 1251) on)).power.cap = 1250 ∧ (after (exec (.pwrCapWrite 1251) on)).regs.accCause = 6 ∧
    (after (exec (.pwrCapWrite 600) on)).power.cap = 600 := by decide +kernel
/-- A selection of the time, and one of nothing, fetched. -/
theorem witness_wide : on.regs.wideFetch = none ∧ on.wideWords 1 0 = some [on.now] ∧ on.wideWords 0 0 = none ∧
    ({ on with regs := { on.regs with wideFetch := some (1, 0) } } : State).regs.wideFetch = some (1, 0) := by decide +kernel
theorem test_wide : (let s := { on with now := 77, regs := { on.regs with wideFetch := some (0xAB000001, 0) } };
    ((after (exec .wideFetchDone s)).regs.wideData.get 0, (after (exec .wideFetchDone s)).regs.wideTag)) = (77, 0xAB) := by decide +kernel

/-- A queue's control: kept, resized and disabled while enabled; resized while active; sizes 3, 4, 12 and 13; a base of 0; the event ring's limits. -/
def qctl (en size : Nat) : BitVec 32 := BitVec.ofNat 32 (en + 2 * size)
def offQueue (f : MQueue → MQueue := id) : State := on.updQueue 1 (fun q => f { q with cmdBase := 0x1000, rspBase := 0x2000 })
theorem witness_qctl : (∀ n ∈ [3, 4, 12, 13], bits (qctl 1 n).toNat 5 1 = n ∧ (qctl 1 n).getLsbD 0 = true ∧ (qctl 0 n).getLsbD 0 = false) ∧
    ((mq).mbx.queues.get 1).enable = true ∧ ((mq).mbx.queues.get 1).sizeLog2 = 4 ∧ ((offQueue).mbx.queues.get 1).enable = false ∧
    ((offQueue).mbx.queues.get 1).cmdBase ≠ 0 ∧ ((offQueue).mbx.queues.get 1).rspBase ≠ 0 ∧ (offQueue).queueActive 1 = false ∧
    (let s := offQueue; ({ s with mbx := { s.mbx with started := [{ code := 0, cmd := cmd [], at_ := 0 }] } } : State).queueActive 1 = true) ∧
    (let s := { on with mbx := { on.mbx with evt := { on.mbx.evt with enable := true, sizeLog2 := 6 } } }; s.mbx.evt.enable = true ∧ s.mbx.evt.sizeLog2 = 6) ∧
    on.mbx.evt.enable = false ∧ (let s := { on with mbx := { on.mbx with evt := { on.mbx.evt with base := 0x1000 } } }; s.mbx.evt.base ≠ 0) := by decide +kernel
theorem test_qctl : ((after (exec (.mbxQctlWrite 1 (qctl 1 12)) (offQueue))).mbx.queues.get 1).enable = true ∧
    ((after (exec (.mbxQctlWrite 1 (qctl 1 13)) (offQueue))).mbx.queues.get 1).enable = false := by decide +kernel

/-! ## Service, power and pins -/

/-- Resets armed with Kind 1 and Kind 2; Mule not up and up; Off, Foal and full; a Diag job that ends with Foal. -/
theorem witness_service : bits (1 : BitVec 32).toNat 3 0 = 1 ∧ bits (2 : BitVec 32).toNat 3 0 ≠ 1 ∧ (armedAt true 0x1010 1 256).armed true = some (0x1010, 1, 0) ∧
    (armedAt true 0x1010 1 256).guardServed 0x1010 = true ∧ (armedAt true 0x1010 1 257).completes true 0x1010 0xFFFFFFFE = false ∧ on.power.state = .on ∧
    State.reset.sys.muleUp = false ∧ (let s := { State.reset with sys := { State.reset.sys with muleUp := true } }; s.power.state = .on ∧ s.sys.service = .off) ∧
    (let s := { on with sys := { on.sys with service := .foal, hbmTrained := false } }; s.sys.service = .foal ∧ s.sys.hbmTrained = false) ∧
    (let s := job (fun j => { j with diag := true }) { on with sys := { on.sys with service := .foal } }; s.sys.service = .foal ∧ s.sys.hbmTrained = true ∧
      s.jobs.j0.isOpen = true ∧ s.jobs.j0.diag = true) ∧ on.sys.service ≠ .foal := by decide +kernel
theorem test_foal : (after (exec .foalEntry { State.reset with sys := { State.reset.sys with muleUp := true } })).sys.service = .foal ∧
    (after (exec .muleStart State.reset)).sys.muleUp = true := by decide +kernel

/-- The stage on, and the module on its island; sensors that are there and one whose stack is not; Action 1 and another. -/
def island : State := { on with power := { on.power with state := .island } }
theorem witness_offs : on.power.state = .on ∧ island.power.state ≠ .on ∧ island.power.state = .island ∧ on.power.state ≠ .island ∧ on.sensorUp .stage = true ∧ on.sensorUp (.die 3) = true ∧
    bits (1 : BitVec 32).toNat 1 0 = 1 ∧ bits (3 : BitVec 32).toNat 1 0 ≠ 1 ∧ (armedAt false 0x2018 1 256).armed false = some (0x2018, 1, 0) ∧
    (armedAt false 0x2018 1 256).guardServed 0x2018 = true ∧ (armedAt false 0x2018 1 257).completes false 0x2018 0xFFFFFFFE = false := by decide +kernel
theorem witness_sensor_gone : ({ on with mem := { on.mem with chans := Vector.replicate 256 { absent := true } } } : State).sensorUp (.hbm 7) = false := by
  simp [State.sensorUp, State.stacksUp, State.chansUp, State.chanUp, Vector.get]
theorem test_island_stop : (after (exec .islandStop island)).power.state = .dead := by decide +kernel

/-- Intervals above the cap and at it, the stage on and off. -/
theorem witness_power_tick : ¬ min on.power.cap on.power.thermalLimit < 1250 ∧ min on.power.cap on.power.thermalLimit < 1251 ∧ island.power.state ≠ .on ∧
    ({ on with power := { on.power with bankMj := 4799, recharging := true } } : State).power.bankMj < 4800 := by decide +kernel
/-- A die above its limit, every sensor 3 °C below, and one 2 °C below. -/
def heated (t : Nat) : State := { on with power := { on.power with dieTemp := on.power.dieTemp.set 3 t } }
def stacks8 : List (Nat × Nat) := [(0, 92), (0, 92), (0, 92), (0, 92), (0, 92), (0, 92), (0, 92), (0, 92)]
theorem witness_thermal (s : State) (hd : s.power.dieTemp = #v[0, 0, 0, 101]) : ∃ r ∈ s.sensors, r.2 < r.1 :=
  ⟨(101, 100), by simp [State.sensors, hd], by decide⟩
theorem witness_thermal_cool : (heated 101).power.dieTemp = #v[0, 0, 0, 101] ∧ (heated 97).power.dieTemp.toList.all (fun t => t + 3 ≤ 100) = true ∧
    (heated 98).power.dieTemp.toList.any (fun t => 100 < t) = false ∧ (heated 98).power.dieTemp.toList.all (fun t => t + 3 ≤ 100) = false ∧
    (heated 98).power.hbmTemp.toList.all (fun t => t + 3 ≤ 92) = true ∧ (heated 98).power.stageTemp + 3 ≤ 110 ∧ on.sys.muleUp = true := by decide +kernel
/-- Samples with Mule down, on the island, with a flash operation and without one; frozen and live. -/
theorem witness_samples : State.reset.sys.muleUp = false ∧ island.sys.muleUp = true ∧ ({ on with power := { on.power with flashBusy := true } } : State).power.flashBusy = true ∧
    ({ on with ident := { on.ident with flashPending := true } } : State).ident.flashPending = true ∧ 1200 ≤ (36000 * 36000 - 28000 * 28000) / 400000 ∧
    on.obs.frozen = false ∧ frozenState.obs.frozen = true := by decide +kernel
theorem test_bank : (after (exec (.holdupSample 36000) on)).power.bankMj = 1280 := by decide +kernel

/-- The cap's writes at both ends of its range and the command that sets the same; the interval's withheld cycles with the stage on. -/
theorem witness_cap_write : (oq on).sys.service ≠ .off ∧ (∀ w ∈ [600, 1250], bits (BitVec.ofNat 32 w).toNat 15 0 = w ∧
    startsB specCapSet (cmd (lay 8 [(0, w)])) (oq on) = true ∧ fld (lay 8 [(0, w)]) 0 15 0 = w) := by decide +kernel
theorem witness_withheld : on.power.state = .on ∧ on.calm := ⟨by decide, witness_calm.2⟩
/-- A command 10 s old that has not been raised, beside a younger one and one that has been; and the same 1 ns earlier. -/
def slowState (now : Nat) : State := { oq on with now := now, mbx := { (oq on).mbx with started :=
  [{ code := 1, cmd := cmd [], at_ := 0, slow := true }] ++ { code := 2, cmd := cmd [], at_ := 5 } :: [{ code := 3, cmd := cmd [], at_ := 6 }] } }
theorem witness_slow : (∀ now ∈ [10000000004, 10000000005], (slowState now).mbx.started = [{ code := 1, cmd := cmd [], at_ := 0, slow := true }] ++
      ({ code := 2, cmd := cmd [], at_ := 5 } : Started) :: [{ code := 3, cmd := cmd [], at_ := 6 }] ∧ (slowState now).now < 6 + 10000000000) ∧
    5 + 10000000000 ≤ (slowState 10000000005).now ∧ (slowState 10000000004).now < 5 + 10000000000 := by decide +kernel
theorem test_slow : ((after (exec .cmdSlow (slowState 10000000005))).mbx.started.map (·.slow)) = [true, true, false] ∧
    ((after (exec .cmdSlow (slowState 10000000004))).mbx.started.map (·.slow)) = [true, false, false] := by decide +kernel

/-- PERST# asserted and not, the stage on and off; edges of 19 and 20 ns; every instruction with PERST# and without it. -/
def pinned (perst : Bool) : State := { on with pins := { on.pins with perst := perst, jtag := 3 } }
theorem witness_pins : (pinned false).pins.perst = false ∧ (pinned true).pins.perst = true ∧ (19 : Nat) < 20 ∧ on.power.state = .on ∧ frozenState.obs.frozen = true ∧ on.obs.frozen = false := by decide +kernel
theorem test_jtag : (after (exec (.jtagInstruction .clamp) (pinned true))).pins.jtag = 4 ∧ (after (exec (.jtagInstruction .clamp) (pinned false))).pins.jtag = 0 ∧
    (after (exec .perstDeassert (pinned true))).pins.jtag = 0 := by decide +kernel

/-! ## Management port, pools and flash -/

/-- The port down; a bad PEC without an I3C address and with one; a response waiting or a command running, and neither; entries of 63 and 64 bytes. -/
theorem witness_mgmt : State.reset.mgmtUp = false ∧ on.mgmtUp = true ∧ on.pins.dynAddr = none ∧ ({ on with pins := { on.pins with dynAddr := some 9 } } : State).pins.dynAddr = some 9 ∧
    on.mbx.q0Resp = none ∧ on.mbx.q0Busy = false ∧ (lay 63 []).length ≠ 64 ∧ (entry CmdCode.idRead).length = 64 ∧ bit (fld (entry CmdCode.idRead) 0 32 32) 0 = false ∧
    u64At (entry CmdCode.idRead) 0x10 = 0 ∧ entryErr (entry CmdCode.idRead) = 0 ∧ fld (entry CmdCode.idRead) 0 15 0 = CmdCode.idRead ∧
    fld (entry CmdCode.mbxNop) 0 15 0 = CmdCode.mbxNop ∧ CmdCode.mbxNop ∉ [CmdCode.idRead, CmdCode.idCapRead, CmdCode.pwrStatus, CmdCode.faultCperRead] ∧
    ({ on with mbx := { on.mbx with q0Resp := some (lay 32 []), q0Busy := true } } : State).mbx.q0Busy = true := by decide +kernel

/-- A pool not leased and flushed; data that are not its last; frames of which one is left; closing. -/
def pooledState (f : F2Obj → F2Obj) : State := { f2State with mem := { (f2State).mem with f2 := [f2k f] } }
theorem witness_pool_messages : (∀ f ∈ [(fun (k : F2Obj) => { k with leased := false }), (fun k => { k with flushing := true, unacked := [0, 511] }), (fun k => { k with closing := true })],
      (pooledState f).f2Port (devOf (9 * 2 ^ 48)) = some 11 ∧ (pooledState f).mem.f2.find? (fun q => q.pool = 9 * 2 ^ 48) = some (f2k f)) ∧
    (f2k (fun k => { k with leased := false })).leased = false ∧ 0x1FFF00 + 255 ≤ (f2k).size ∧ (f2k).copied + 255 < (f2k).size ∧ [0, 511].erase 511 ≠ [] ∧
    (oq on).f2Port (devOf (9 * 2 ^ 48)) ≠ some 11 := by decide +kernel
theorem witness_pool_memory : (pooledState (fun k => { k with leased := false })).memOk := by unfold State.memOk; decide +kernel

/-- A flash operation in progress: an erase, a write over erased bytes, and an identity record's. -/
def burning (code : Nat) (p : List Byte) : State := { oq on with power := { on.power with flashBusy := true }, mbx := { (oq on).mbx with started := [{ code := code, cmd := cmd p, at_ := 0 }] } }
theorem witness_flash_done : (∀ s ∈ [burning CmdCode.flashErase (rdRec 0x1000000 1), burning CmdCode.flashWrite (writeRec 0x1FFFFFF)],
      s.power.flashBusy = true ∧ s.power.flashIdent = false ∧ s.ident.flashPending = false ∧ s.mbx.started.length = 1) ∧
    (∀ i < (writeRec 0x1FFFFFF).length - 8, Mem.get 0xFF on.ident.flash (u64At (writeRec 0x1FFFFFF) 0 + i) = 0xFF) ∧ on.power.flashBusy = false ∧
    ({ on with power := { on.power with flashBusy := true, flashIdent := true } } : State).mbx.started = [] := by decide +kernel
theorem burning_memory : (burning CmdCode.flashErase (rdRec 0x1000000 1)).memOk ∧ (burning CmdCode.flashWrite (writeRec 0x1FFFFFF)).memOk := by
  unfold State.memOk; decide +kernel

/-! ## Well-formedness: one ill-formed command for each check -/

def okPkt : Pkt := { cls := 3, op := 31, dst := 65535, src := 65535 }
theorem ill_formed : okPkt.wf = true ∧ { okPkt with cls := 4 }.wf = false ∧ { okPkt with op := 32 }.wf = false ∧ { okPkt with dst := 65536 }.wf = false ∧
    { okPkt with src := 65536 }.wf = false ∧ { okPkt with ctx := 4 }.wf = false ∧ { okPkt with routeEpoch := 256 }.wf = false ∧ { okPkt with flowEpoch := 256 }.wf = false ∧
    { okPkt with seq := 2 ^ 32 }.wf = false ∧ { okPkt with len := 2 ^ 14 }.wf = false ∧ { okPkt with hops := 256 }.wf = false ∧ { okPkt with status := 256 }.wf = false ∧
    { okPkt with addr := 2 ^ 64 }.wf = false ∧ { okPkt with tag := 65536 }.wf = false ∧ { okPkt with elemType := 4 }.wf = false ∧ { okPkt with crc := 2 ^ 32 }.wf = false ∧
    (Instr.packetForward 0 { okPkt with cls := 4 }).wf = false ∧ (Instr.write { okPkt with op := 32 }).wf = false := by decide
theorem ill_formed_payload : { okPkt with payload := List.replicate 8193 0 }.wf = false := by
  have h : ¬ (List.replicate 8193 (0 : Byte)).length ≤ 8192 := by rw [List.length_replicate]; omega
  simp only [Pkt.wf, h, decide_false, Bool.and_false]
theorem ill_formed_flit : ({ seq := 2 ^ 14, ackSeq := 0 } : Flit).wf = false ∧ ({ seq := 0, ackSeq := 2 ^ 14 } : Flit).wf = false ∧
    ({ seq := 0, ackSeq := 0, crVc := 8 } : Flit).wf = false ∧ ({ seq := 0, ackSeq := 0, bytes := List.replicate 241 0 } : Flit).wf = false ∧
    ({ seq := 2 ^ 14 - 1, ackSeq := 2 ^ 14 - 1, crVc := 7, bytes := List.replicate 240 0 } : Flit).wf = true := by decide +kernel
theorem ill_formed_command : (cmd []).wf = true ∧ { cmd [] with outLen := 2 ^ 32 }.wf = false ∧ { cmd [] with outAddr := 2 ^ 64 }.wf = false ∧ { cmd [] with outAddr := 32 }.wf = false ∧
    (Instr.jobStart { cmd [] with outAddr := 32 }).wf = false ∧ ({ entries := [(1, lay 64 []), (1, lay 64 [])] } : FetchedEntry).wf = false ∧
    ({ entries := [(1, lay 63 [])] } : FetchedEntry).wf = false ∧ (Instr.mbxFetch { entries := [(1, lay 64 []), (2, lay 64 [])] }).wf = true := by decide +kernel
theorem ill_formed_payload_length (p : List Byte) (h : 0x1000000 < p.length) : (cmd p).wf = false := by
  have h : ¬ p.length ≤ 0x1000000 := by omega
  simp [MCmd.wf, cmd, h]
theorem ill_formed_beat : (beatMsg 5).wf = true ∧ { beatMsg (2 ^ 48) with master := 7 }.wf = false ∧ { beatMsg 5 with master := 65536 }.wf = false ∧
    { beatMsg 5 with step := 2 ^ 48 }.wf = false ∧ { beatMsg 5 with hops := 256 }.wf = false ∧ (Instr.beat .j0 { beatMsg 5 with hops := 256 }).wf = false := by decide
theorem ill_formed_address : addrWf 0 0 = false ∧ addrWf (2 ^ 48 - 64) 64 = false ∧ addrWf (2 ^ 48 - 65) 64 = true ∧ (Instr.bar2Read 0x7FFFFFFFFF 2).wf = false ∧ (Instr.bar2Read 0 0).wf = false ∧
    (Instr.bar2Write 0x8000000000 [1]).wf = false ∧ (Instr.bar2Write 0 []).wf = false ∧ (Instr.bar2Read 0x7FFFFFFFFF 1).wf = true := by decide
theorem ill_formed_cluster : (Instr.cacheFill 0 (2 ^ 64) .none).wf = false ∧ (Instr.ponyWalk 0 .j0 65536 0 true true).wf = false ∧ (Instr.ponyWalk 0 .j0 0 (2 ^ 48) true true).wf = false ∧
    (Instr.handoverHeaderLand 0 .j0 0 0 []).wf = false ∧ (Instr.hbmRead (2 ^ 48) 1 { cls := 0 } .ok).wf = false := by decide
theorem ill_formed_fabric : (Instr.tAck 65536 0 0 0).wf = false ∧ (Instr.tNak 0 4 0 0).wf = false ∧ (Instr.tAck 0 0 256 0).wf = false ∧ (Instr.tNak 0 0 0 (2 ^ 32)).wf = false ∧
    (Instr.heartbeat 0).wf = false ∧ (Instr.faultNotice 0x8001).wf = false ∧ (Instr.heartbeatTimeout 0x8000).wf = true := by decide
theorem ill_formed_register : (Instr.registerWrite 0x4000000 0).wf = false ∧ (Instr.registerWrite 2 0).wf = false ∧
    (Instr.unimplementedAccess { bar4 := true, off := 0x20000, isWrite := true, malformed := false, mule := false }).wf = false ∧
    (Instr.unimplementedAccess { bar4 := false, off := 0x4000000, isWrite := true, malformed := false, mule := false }).wf = false ∧ (Instr.guardArm true 0x4004 0).wf = false ∧
    (Instr.complementWrite true 0x4000 0).wf = false ∧ (Instr.mbxQctlWrite 0 0).wf = false ∧ (Instr.mgmtCommandWrite true [] []).wf = false := by decide

end Sys2Proof.Tests
end

/-! # CMD_SLOW (R559): which started commands raise it, and what becomes of them -/

namespace Sys2Proof.Machine

/-- A started command that CMD_SLOW is due for: 10 s old, and not yet raised. -/
def Started.slowDue (now : Nat) (k : Started) : Bool := !k.slow && decide (k.at_ + 10000000000 ≤ now)

/-- The command with the mark that CMD_SLOW has been raised, where it is 10 s old. -/
def Started.markSlow (now : Nat) (k : Started) : Started :=
  { k with slow := k.slow || decide (k.at_ + 10000000000 ≤ now) }

/-- The CMD_SLOW event of a started command: its queue, Tag and Code. -/
def Started.slowEvent (k : Started) : Ev :=
  { code := Code.CMD_SLOW, unit := { cls := 0xC },
    detail := toBytes 8 (k.cmd.q.val + place k.cmd.tag.toNat 16 + place k.code 32) }

/-- CMD_SLOW marks every command that is old enough and raises one event for each that is due. -/
theorem exec_cmdSlow (s : State) : exec .cmdSlow s = .next
    ((s.mbx.started.filter (Started.slowDue s.now)).foldl (fun t k => raise t k.slowEvent)
      { s with mbx := { s.mbx with started := s.mbx.started.map (Started.markSlow s.now) } }) := rfl

theorem Started.slowDue_of_late {now : Nat} {k : Started} (hfresh : k.slow = false) (hlate : k.at_ + 10000000000 ≤ now) :
    k.slowDue now = true := by
  rw [slowDue, hfresh, decide_eq_true hlate]
  rfl

theorem Started.markSlow_of_late {now : Nat} {k : Started} (hlate : k.at_ + 10000000000 ≤ now) :
    k.markSlow now = { k with slow := true } := by
  rw [markSlow, decide_eq_true hlate, Bool.or_true]

theorem Started.slowDue_eq_false {now : Nat} {k : Started} (h : k.slow = true ∨ now < k.at_ + 10000000000) :
    k.slowDue now = false := by
  obtain hmarked | hyoung := h
  · rw [slowDue, hmarked, Bool.not_true, Bool.false_and]
  · rw [slowDue, decide_eq_false (Nat.not_le.mpr hyoung), Bool.and_false]

theorem Started.markSlow_eq_self {now : Nat} {k : Started} (h : k.slow = true ∨ now < k.at_ + 10000000000) :
    k.markSlow now = k := by
  have hslow : (k.slow || decide (k.at_ + 10000000000 ≤ now)) = k.slow := by
    obtain hmarked | hyoung := h
    · rw [hmarked, Bool.true_or]
    · rw [decide_eq_false (Nat.not_le.mpr hyoung), Bool.or_false]
  rw [markSlow, hslow]

section
variable {now : Nat} {ks : List Started} (h : ∀ k ∈ ks, k.slow = true ∨ now < k.at_ + 10000000000)
include h

theorem filter_slowDue_eq_nil : ks.filter (Started.slowDue now) = [] :=
  List.filter_eq_nil_iff.mpr fun k hk => ne_true_of_eq_false (Started.slowDue_eq_false (h k hk))

theorem map_markSlow_eq_self : ks.map (Started.markSlow now) = ks :=
  (List.map_congr_left fun k hk => Started.markSlow_eq_self (h k hk)).trans (List.map_id ks)

end

theorem exec_cmdSlow_of_one_due {s : State} {l r : List Started} {k : Started} (hsplit : s.mbx.started = l ++ k :: r)
    (hfresh : k.slow = false) (hlate : k.at_ + 10000000000 ≤ s.now)
    (hrest : ∀ o ∈ l ++ r, o.slow = true ∨ s.now < o.at_ + 10000000000) :
    exec .cmdSlow s =
      .next (raise { s with mbx := { s.mbx with started := l ++ { k with slow := true } :: r } } k.slowEvent) := by
  have hl := fun o ho => hrest o (List.mem_append_left r ho)
  have hr := fun o ho => hrest o (List.mem_append_right l ho)
  have hdue : s.mbx.started.filter (Started.slowDue s.now) = [k] := by
    rw [hsplit, List.filter_append, List.filter_cons_of_pos (Started.slowDue_of_late hfresh hlate),
      filter_slowDue_eq_nil hl, filter_slowDue_eq_nil hr, List.nil_append]
  have hmark : s.mbx.started.map (Started.markSlow s.now) = l ++ { k with slow := true } :: r := by
    rw [hsplit, List.map_append, List.map_cons, map_markSlow_eq_self hl, map_markSlow_eq_self hr,
      Started.markSlow_of_late hlate]
  rw [exec_cmdSlow, hdue, hmark]
  rfl

theorem exec_cmdSlow_of_none_due {s : State}
    (h : ∀ k ∈ s.mbx.started, k.slow = true ∨ s.now < k.at_ + 10000000000) : exec .cmdSlow s = .next s := by
  rw [exec_cmdSlow, filter_slowDue_eq_nil h, map_markSlow_eq_self h]
  rfl

/-- Settles O43: the fold over the commands due runs once when the command is the only one due, and not at all when none is. -/
theorem slowCommands : Obligations.SlowCommands := by
  unfold Obligations.SlowCommands
  intro s l r k hsplit
  constructor
  · exact exec_cmdSlow_of_one_due hsplit
  · intro hk hrest
    refine exec_cmdSlow_of_none_due fun o ho => ?_
    rw [hsplit, List.mem_append, List.mem_cons] at ho
    obtain hol | rfl | hor := ho
    · exact hrest o (List.mem_append_left r hol)
    · exact hk
    · exact hrest o (List.mem_append_right l hor)

end Sys2Proof.Machine

/-! # PWR_CAP (R592): a write in range against pwr.cap.set of the same value, and a write out of range -/

namespace Sys2Proof.Machine

/-- A command that nothing turns away at its start has its effect. -/
theorem Starts.startCmd_eq {sp : CmdSpec} {m : MCmd} {s : State} (h : Starts sp m s) (act : State → State) :
    startCmd sp m s act = act s := by
  obtain ⟨hmay, hsession, hpayload, hlength, hfoal, hcontext, hfields, hjob⟩ := h
  have hserved : ¬ ((s.sys.service = .foal && m.q.val != 0 && !sp.foal s m.payload) = true) := by
    simpa using hfoal
  rw [startCmd, hmay, hsession, hpayload, hlength, if_neg hserved, if_neg hcontext, hfields]
  cases hctx : sp.ctx with
  | false => simp
  | true =>
    obtain ⟨x, hx, hopen⟩ := hjob hctx
    simp [hx, hopen]

theorem capOk_iff {w : Nat} : capOk w = true ↔ 600 ≤ w ∧ w ≤ 1250 := by
  simp [capOk]

theorem exec_pwrCapWrite (v : BitVec 32) (s : State) : exec (.pwrCapWrite v) s = .next (pwrCapWrite v s) := rfl

theorem exec_pwrCapSet (m : MCmd) (s : State) : exec (.pwrCapSet m) s = .next (pwrCapSet m s) := rfl

theorem exec_registerWrite (off : Nat) (v : BitVec 32) (s : State) :
    exec (.registerWrite off v) s = .next (registerWrite off v s) := rfl

/-- What pwr.cap.set does once it has started: its effect on a cap in range, and its answer. -/
theorem pwrCapSet_of_capOk {m : MCmd} {s : State} (hstart : Starts specCapSet m s)
    (hw : capOk (fld m.payload 0 15 0) = true) :
    pwrCapSet m s =
      answer { s with power := { s.power with cap := fld m.payload 0 15 0 } } CmdCode.pwrCapSet m Code.OK := by
  have haccepted : ¬ (!capOk (fld m.payload 0 15 0)) = true := by simp [hw]
  rw [pwrCapSet, hstart.startCmd_eq]
  exact if_neg haccepted

section
variable {v : BitVec 32} {s : State} (hon : s.sys.service ≠ .off)
include hon

theorem pwrCapWrite_of_capOk (hw : capOk (bits v.toNat 15 0) = true) :
    pwrCapWrite v s = { s with power := { s.power with cap := bits v.toNat 15 0 } } := by
  rw [pwrCapWrite, if_neg hon, if_pos hw]

theorem pwrCapWrite_of_not_capOk (hw : ¬ capOk (bits v.toNat 15 0) = true) :
    pwrCapWrite v s = recordAccess s false 0x2010 6 := by
  rw [pwrCapWrite, if_neg hon, if_neg hw]

/-- PWR_CAP is a register of BAR0, not a guarded one, and its writes have a row of their own (R585, R592). -/
theorem registerWrite_pwrCap : registerWrite 0x2010 v s = pwrCapWrite v s := by
  have hthere : (s.regRaw 0x2010).isNone = false := rfl
  have hunguarded : 0x2010 ∉ guarded := by decide
  simp [registerWrite, hthere, hunguarded, hon]

end

/-- Settles O56: the write in range and the command set the same cap, before the command's answer; the write out of range only
records the access. -/
theorem powerCapWrites : Obligations.PowerCapWrites := by
  unfold Obligations.PowerCapWrites
  intro v s hon w recorded
  simp only [exec_pwrCapWrite, exec_registerWrite, exec_pwrCapSet, registerWrite_pwrCap hon]
  constructor
  · intro hlow hhigh
    have hw : capOk w = true := capOk_iff.mpr ⟨hlow, hhigh⟩
    rw [pwrCapWrite_of_capOk hon hw]
    refine ⟨_, rfl, rfl, rfl, rfl, fun m hstart hm => ?_⟩
    rw [pwrCapSet_of_capOk hstart (hm ▸ hw), hm]
  · intro hout
    have hw : ¬ capOk w = true := by
      rw [capOk_iff]
      omega
    rw [pwrCapWrite_of_not_capOk hon hw]
    rfl

end Sys2Proof.Machine

/-! # Withheld issue cycles (R620): counting with no freeze to trigger, and each cluster's share of an interval -/

namespace Sys2Proof.Machine

/-! ## What a counter holds after it has counted -/

theorem getCount_cons (k k' : CntKey) (v : BitVec 64) (l : List (CntKey × BitVec 64)) :
    getCount ((k, v) :: l) k' = if k = k' then v else getCount l k' := by
  by_cases h : k = k' <;> simp [getCount, h]

theorem getCount_addCount_self (l : List (CntKey × BitVec 64)) (k : CntKey) (n : Nat) :
    getCount (addCount l k n) k = getCount l k + BitVec.ofNat 64 n := by
  induction l with
  | nil => simp [addCount, getCount]
  | cons p l ih =>
    obtain ⟨k₀, v⟩ := p
    by_cases h : k₀ = k
    · rw [addCount, if_pos h, getCount_cons, getCount_cons, if_pos h, if_pos h]
    · rw [addCount, if_neg h, getCount_cons, getCount_cons, if_neg h, if_neg h, ih]

theorem getCount_addCount_ne {k k' : CntKey} (hne : k' ≠ k) (l : List (CntKey × BitVec 64)) (n : Nat) :
    getCount (addCount l k n) k' = getCount l k' := by
  induction l with
  | nil => rw [addCount, getCount_cons, if_neg hne.symm]
  | cons p l ih =>
    obtain ⟨k₀, v⟩ := p
    by_cases h : k₀ = k
    · have hne₀ : k₀ ≠ k' := h ▸ hne.symm
      rw [addCount, if_pos h, getCount_cons, getCount_cons, if_neg hne₀, if_neg hne₀]
    · rw [addCount, if_neg h, getCount_cons, getCount_cons, ih]

theorem getCount_bump0_self (s : State) (k : CntKey) (n : Nat) :
    getCount (bump0 s k n).obs.counters k = getCount s.obs.counters k + BitVec.ofNat 64 n := by
  by_cases h : n = 0
  · simp [bump0, h]
  · rw [bump0, if_neg h, getCount_addCount_self]

theorem getCount_bump0_ne {k k' : CntKey} (hne : k' ≠ k) (s : State) (n : Nat) :
    getCount (bump0 s k n).obs.counters k' = getCount s.obs.counters k' := by
  by_cases h : n = 0
  · rw [bump0, if_pos h]
  · rw [bump0, if_neg h, getCount_addCount_ne hne]

/-! ## Counting while no programmable counter triggers a freeze (R521) -/

theorem checkThresholds_of_calm {s : State} (hcalm : s.calm) : checkThresholds s = s := by
  obtain ⟨_, hmodes⟩ := hcalm
  have hquiet : s.obs.pcs.any (fun p => p.used && p.mode = 2 && !p.fired && p.threshold ≤ p.value.toNat) = false := by
    rw [Vector.any_eq_false]
    intro i hi hfires
    simp only [Bool.and_eq_true, decide_eq_true_eq] at hfires
    obtain ⟨⟨⟨hused, hmode⟩, _⟩, _⟩ := hfires
    exact hmodes ⟨i, hi⟩ hused hmode
  simp [checkThresholds, hquiet]

theorem ProgCnt.count_used (p : ProgCnt) (n : Nat) : (p.count n).used = p.used := by
  unfold ProgCnt.count; split <;> rfl

theorem ProgCnt.count_mode (p : ProgCnt) (n : Nat) : (p.count n).mode = p.mode := by
  unfold ProgCnt.count; split <;> rfl

theorem bump0_calm {s : State} (hcalm : s.calm) (k : CntKey) (n : Nat) : (bump0 s k n).calm := by
  by_cases hn : n = 0
  · rwa [bump0, if_pos hn]
  obtain ⟨hfreezeOn, hmodes⟩ := hcalm
  rw [bump0, if_neg hn]
  refine ⟨hfreezeOn, fun i => ?_⟩
  dsimp only
  by_cases hfrozen : s.obs.frozen = true
  · rw [if_pos hfrozen]
    exact hmodes i
  · have hcounted : ((s.obs.pcs.map fun p => if p.selects k then p.count n else p).get i) =
        if (s.obs.pcs.get i).selects k then (s.obs.pcs.get i).count n else s.obs.pcs.get i := by
      simp [Vector.get]
    rw [if_neg hfrozen, hcounted]
    split
    · rw [ProgCnt.count_used, ProgCnt.count_mode]
      exact hmodes i
    · exact hmodes i

theorem bump_of_calm {s : State} (hcalm : s.calm) (k : CntKey) (n : Nat) : bump s k n = bump0 s k n :=
  checkThresholds_of_calm (bump0_calm hcalm k n)

/-! ## PWR_THROTTLE of each cluster -/

/-- The cycles that PWR_THROTTLE of a cluster has counted. -/
def throttled (s : State) (c : Nat) : Nat := (getCount s.obs.counters { code := Cnt.PWR_THROTTLE, unit := c }).toNat

/-- A cluster counts so many cycles withheld. -/
def countThrottled (g : Nat → Nat) (s : State) (c : Nat) : State := bump s { code := Cnt.PWR_THROTTLE, unit := c } (g c)

section
variable {s : State} (hcalm : s.calm) (g : Nat → Nat)
include hcalm

theorem countThrottled_calm (c : Nat) : (countThrottled g s c).calm := by
  rw [countThrottled, bump_of_calm hcalm]
  exact bump0_calm hcalm _ _

theorem throttled_countThrottled_self (c : Nat) : throttled (countThrottled g s c) c = (throttled s c + g c) % 2 ^ 64 := by
  rw [throttled, countThrottled, bump_of_calm hcalm, getCount_bump0_self, BitVec.toNat_add, BitVec.toNat_ofNat,
    Nat.add_mod_mod, throttled]

theorem throttled_countThrottled_ne {c d : Nat} (hne : d ≠ c) : throttled (countThrottled g s c) d = throttled s d := by
  have hkey : ({ code := Cnt.PWR_THROTTLE, unit := d } : CntKey) ≠ { code := Cnt.PWR_THROTTLE, unit := c } :=
    fun h => hne (congrArg CntKey.unit h)
  rw [throttled, countThrottled, bump_of_calm hcalm, getCount_bump0_ne hkey, throttled]

end

section
variable (g : Nat → Nat) {cs : List Nat} {d : Nat} {s : State} (hcalm : s.calm)
include hcalm

theorem throttled_foldl_of_not_mem (hd : d ∉ cs) : throttled (cs.foldl (countThrottled g) s) d = throttled s d := by
  induction cs generalizing s with
  | nil => rfl
  | cons c cs ih =>
    rw [List.mem_cons, not_or] at hd
    obtain ⟨hne, hrest⟩ := hd
    rw [List.foldl_cons, ih (countThrottled_calm hcalm g c) hrest, throttled_countThrottled_ne hcalm g hne]

theorem throttled_foldl_of_mem (hnodup : cs.Nodup) (hd : d ∈ cs) :
    throttled (cs.foldl (countThrottled g) s) d = (throttled s d + g d) % 2 ^ 64 := by
  induction cs generalizing s with
  | nil => exact absurd hd List.not_mem_nil
  | cons c cs ih =>
    obtain ⟨hc, hnodup⟩ := List.nodup_cons.mp hnodup
    have hcalm' := countThrottled_calm hcalm g c
    rw [List.foldl_cons]
    obtain rfl | hrest := List.mem_cons.mp hd
    · rw [throttled_foldl_of_not_mem g hcalm' hc, throttled_countThrottled_self hcalm]
    · have hne : d ≠ c := ne_of_mem_of_not_mem hrest hc
      rw [ih hcalm' hnodup hrest, throttled_countThrottled_ne hcalm g hne]

end

/-! ## The shares of an interval -/

/-- Numbers of the clusters in service. -/
def State.upNumbers (s : State) : List Nat := s.clustersUp.map (·.val)

/-- The clusters that withhold one cycle more: the first `n` mod `k` after the one that took the last remainder. -/
def remainderTakers (s : State) (n : Nat) : List Nat :=
  (s.upNumbers.filter (fun c => s.power.lastRemainder < c) ++ s.upNumbers.filter (fun c => c ≤ s.power.lastRemainder)).take
    (n % s.upNumbers.length)

/-- The cycles that a cluster in service withholds. -/
def shareOf (s : State) (n c : Nat) : Nat := n / s.upNumbers.length + b2n ((remainderTakers s n).contains c)

theorem shareOf_eq (s : State) (n c : Nat) :
    shareOf s n c = n / s.upNumbers.length + (if c ∈ remainderTakers s n then 1 else 0) := by
  simp [shareOf, b2n]

theorem State.upNumbers_nodup (s : State) : s.upNumbers.Nodup :=
  List.Pairwise.map _ (fun _ _ => Fin.val_ne_of_ne) (List.Pairwise.filter _ (List.nodup_finRange 40))

/-- Counting every share leaves all but counters and fabric alone. -/
theorem foldl_countThrottled_obsFab (g : Nat → Nat) (cs : List Nat) (s : State) :
    ObsFab s (cs.foldl (countThrottled g) s) :=
  ObsFab.foldl _ (fun _ _ => bump_obsFab _ _ _) cs s

/-- With no cluster in service nothing is counted and nobody takes a remainder: the same equation. -/
theorem shareOut_eq (s : State) (n : Nat) :
    shareOut s n =
      let t := s.upNumbers.foldl (countThrottled (shareOf s n)) s
      { t with power := { t.power with lastRemainder := (remainderTakers s n).getLastD t.power.lastRemainder } } := by
  by_cases hnone : s.upNumbers = []
  · have htakers : remainderTakers s n = [] := by simp [remainderTakers, hnone]
    have hempty : (s.clustersUp.map (·.val)).isEmpty = true := List.isEmpty_iff.mpr hnone
    rw [htakers, hnone, shareOut, if_pos hempty]
    rfl
  · have hfilled : ¬ (s.clustersUp.map (·.val)).isEmpty = true := mt List.isEmpty_iff.mp hnone
    rw [shareOut, if_neg hfilled]
    rfl

section
variable {s : State} {n : Nat}

theorem throttled_shareOut_of_mem (hcalm : s.calm) {c : Nat} (hc : c ∈ s.upNumbers) :
    throttled (shareOut s n) c = (throttled s c + shareOf s n c) % 2 ^ 64 := by
  rw [shareOut_eq]
  exact throttled_foldl_of_mem _ hcalm s.upNumbers_nodup hc

theorem throttled_shareOut_of_not_mem (hcalm : s.calm) {c : Nat} (hc : c ∉ s.upNumbers) :
    throttled (shareOut s n) c = throttled s c := by
  rw [shareOut_eq]
  exact throttled_foldl_of_not_mem _ hcalm hc

theorem shareOut_lastRemainder :
    (shareOut s n).power.lastRemainder = (remainderTakers s n).getLastD s.power.lastRemainder := by
  obtain ⟨_, _, h⟩ := foldl_countThrottled_obsFab (shareOf s n) s.upNumbers s
  rw [shareOut_eq, h]

/-- Throttling changes when a result appears, never its value (R19). -/
theorem shareOut_values : (shareOut s n).clusters = s.clusters ∧ (shareOut s n).mem = s.mem ∧ (shareOut s n).jobs = s.jobs := by
  obtain ⟨_, _, h⟩ := foldl_countThrottled_obsFab (shareOf s n) s.upNumbers s
  rw [shareOut_eq, h]
  exact ⟨rfl, rfl, rfl⟩

/-- A tick with no parity error notes the interval's load in the power state, then gives out the withheld cycles. -/
theorem powerManagerTick_of_on (hon : s.power.state = .on) (p10 : Nat) : ∃ p : Power,
    p.lastRemainder = s.power.lastRemainder ∧ powerManagerTick p10 n false s = shareOut { s with power := p } n := by
  rw [powerManagerTick, if_neg (by simp [hon])]
  refine ⟨_, ?_, rfl⟩
  rfl

end

theorem exec_powerManagerTick (p10 n : Nat) (parity : Bool) (s : State) :
    exec (.powerManagerTick p10 n parity) s = .next (powerManagerTick p10 n parity s) := rfl

/-- Settles O60: each cluster in service counts its share once, since its number stands once in the list of those in service. -/
theorem withheldCycles : Obligations.WithheldCycles := by
  unfold Obligations.WithheldCycles
  intro p10 n s hon hcalm
  obtain ⟨p, hlast, htick⟩ := powerManagerTick_of_on (n := n) hon p10
  let u : State := { s with power := p }
  have hu : u.calm := hcalm
  have htakers : remainderTakers u n = remainderTakers s n := by
    change List.take _ (List.filter (fun c => p.lastRemainder < c) _ ++ List.filter (fun c => c ≤ p.lastRemainder) _) = _
    rw [hlast]
    rfl
  refine ⟨shareOut u n, by rw [exec_powerManagerTick, htick], ?_, ?_, ?_, shareOut_values⟩
  · intro c hc
    have hcount := throttled_shareOut_of_mem (n := n) hu hc
    rw [shareOf_eq, htakers, ← Nat.add_assoc] at hcount
    exact hcount
  · exact fun c hc => throttled_shareOut_of_not_mem hu hc
  · rw [shareOut_lastRemainder, htakers]
    exact congrArg _ hlast

end Sys2Proof.Machine
